-- ==== Sys2Proof/Word.lean ====
section
/-! DEFINITION. The word types of the machine and the types of the operands that instructions and events carry. -/

namespace Sys2Proof

/-- A scalar register, an address, a control register of full width (R152, R167). -/
abbrev Word := BitVec 64

/-- The unit of memory (R28, R57). -/
abbrev Byte := BitVec 8

/-- An instruction parcel (R28). -/
abbrev Parcel := BitVec 32

/-- The three forms of an instruction (R31). -/
inductive Form where
  | s32 | l64 | x96
deriving DecidableEq, Repr

/-- The sixteen TYPE codes (R41). -/
inductive Ty where
  | i8 | i16 | i32 | i64 | n8 | n16 | n32 | n64 | f64 | f32 | bf16 | f16 | e4m3 | e5m2 | e2m1 | sf4
deriving DecidableEq, Repr

/-- The fields of an encoded instruction (R32 to R35), raw, but for the hints, which never change anything (R47). In
form S32 every field that the form does not carry is zero (R36). The immediate is IMM12 in the low 12 bits of imm in
L64 and LIT32 in X96. -/
structure Operands where
  form : Form
  op : BitVec 7
  fn : BitVec 8
  cv : Bool
  g : BitVec 4
  d : BitVec 6
  a : BitVec 6
  b : BitVec 6
  xa : Bool
  xd : Bool
  u : Bool
  ty : Ty
  rm : BitVec 3
  imm : BitVec 32
  aux : BitVec 10
deriving DecidableEq, Repr

/-- What the patrol scrubber, or an access, finds in a line (R66, R67). -/
inductive ScrubFinding where
  | clean | corrected | uncorrectable
deriving DecidableEq, Repr

/-- A collective message of another member (R314, R315): who sent it, the number it carries, what it announces, and
the member's whole contribution as encoded in WIRE (elements, then scale bytes) with the band scale B of SF4. peer: the
other rank of a SEND or RECV, whose number is its place among those of its sender, receiver and tag. -/
structure MemberMessage where
  gid : Nat
  rank : Nat
  seq : Nat
  kind : Nat
  n : Nat
  dtype : Nat
  wire : Nat
  rop : Nat
  tag : Nat
  peer : Nat
  band : Nat
  data : List (BitVec 8)
deriving DecidableEq, Repr

/-- Who sent an abort, and what its message says of the command that ended (R316). -/
structure AbortFrom where
  rank : Nat
  kind : Nat
  tag : Nat
  peer : Nat
deriving DecidableEq, Repr

/-- The abort of a collective command of another member (R316): who sent it, and which command ended, as its message
says. -/
structure MemberAbort where
  gid : Nat
  rank : Nat
  seq : Nat
  kind : Nat
  tag : Nat
  peer : Nat
deriving DecidableEq, Repr

/-- The demand in watts that the consumers report at a re-division (R412), in ascending number. -/
structure PowerDemand where
  coreDemand : List Nat
  stackDemand : List Nat
  portDemand : List Nat
deriving DecidableEq, Repr

end Sys2Proof
end

