-- ==== Sys2Proof/Config.lean ====
section
/-! DEFINITION. What one implementation fixes, and the free values: constants with no body, of which nothing can be
proved. -/

namespace Sys2Proof.Config

/-- FREE VALUE (log entry 6): the k-th choice the manual leaves to the device, as an uninterpreted word. The machine
draws it with the counter State.dev.free. -/
opaque freeWord : Nat → BitVec 64

/-- IMPLEMENTATION (log entry 12): the device's own signature of an SPDM transcript (R410, R411). -/
opaque deviceSign : List (BitVec 8) → BitVec 512

/-- IMPLEMENTATION (log entry 12): the device's certificate chain (R410). -/
opaque certChain : List (BitVec 8)

/-- IMPLEMENTATION (log entry 12): the boot ROM (R411, measurement 1). -/
opaque bootRom : List (BitVec 8)

/-- IMPLEMENTATION (log entry 12): the enabled-core map and the link lane map that the fuses hold, as bytes (R411,
measurement 3). -/
opaque enabledCores : List (BitVec 8)
opaque laneMap : List (BitVec 8)

/-- IMPLEMENTATION (log entry 12): the bytes of an SPDM answer before and after what the device tells in it, in the layout
that the manual leaves to DMTF SPDM 1.2, by request code and the request's bytes. -/
opaque spdmFrame : Nat → List (BitVec 8) → List (BitVec 8) × List (BitVec 8)

/-- IMPLEMENTATION (log entry 12): the firmware that a bring-up finds, by the resets before it: the signed bytes, the digest of the
signer's key with r and s of the signature, and its security version; and the fuses: the root hashes and the rollback
count (R409). -/
opaque firmware : Nat → List (BitVec 8)
opaque firmwareSig : Nat → BitVec 256 × BitVec 256 × BitVec 256
opaque firmwareVersion : Nat → Nat
opaque rootHashes : List (BitVec 256)
opaque rollback : Nat

/-- IMPLEMENTATION (log entry 12): the step of R421 that fails at a reset, apart from the firmware check; 0 for none. -/
opaque failingStep : Nat → Nat

/-- IMPLEMENTATION (log entry 13): how the messages of a data flit's CLASS are framed from payload byte 12 on (R302:
not visible to software): the memory writes (address, byte) that a delivered flit of class 0 performs on this device. -/
opaque flitWrites : List (BitVec 8) → List (Nat × BitVec 8)

/-- IMPLEMENTATION (log entry 13): how many stores a memory flit carries. -/
opaque flitStores : List (BitVec 8) → Nat

/-- IMPLEMENTATION (log entry 13): the mailbox messages a flit of class 2 carries: mailbox, message and sender word. -/
opaque flitMail : List (BitVec 8) → List (Nat × BitVec 512 × BitVec 32)

/-- IMPLEMENTATION (log entry 13): the collective messages, and the aborts, a flit of class 1 carries, and the payloads
that a message or an abort of this device is framed in. -/
opaque flitMembers : List (BitVec 8) → List MemberMessage
opaque flitAborts : List (BitVec 8) → List MemberAbort
opaque frameMember : MemberMessage → List (List (BitVec 8))
opaque frameAbort : MemberAbort → List (List (BitVec 8))

/-- IMPLEMENTATION (log entry 110): the device whose memory an address reaches that this device does not back, if it reaches
one's. -/
opaque remoteHome : Nat → Option Nat

/-- IMPLEMENTATION (log entry 13): the device identifier at the other end of a port. -/
opaque portPeer : Nat → BitVec 12

/-- IMPLEMENTATION (log entry 23): the source number and the kind of an event record (R419), by what raises it, its payload
of 14 bytes, by kind and by what happened, and how many records the ring holds. -/
opaque eventSource : (cls index : Nat) → BitVec 32
opaque eventKind : Nat → BitVec 16
opaque eventPayload : (kind what : Nat) → BitVec 112
opaque eventRing : Nat

end Sys2Proof.Config
end

