-- ==== Sys2Proof/Syntax.lean ====
section
/-! DEFINITION. The instructions and events of the machine: one constructor of Instr for each row of the opcode
table. An encoded instruction carries its fields under the manual's names (R32 to R48); an event carries what the
agent that causes it supplies. -/

namespace Sys2Proof

/-- The instructions and events: one constructor per row of the opcode table, in its order. -/
inductive Instr where
  /-- ADD (R203): S32 form: sd := sA + sB, truncated to 64 bits. -/
  | add (o : Operands)
  /-- ADD_L64 (R203): L64 form of ADD. -/
  | addL64 (o : Operands)
  /-- SUB (R203): S32 form: sd := sA - sB. -/
  | sub (o : Operands)
  /-- SUB_L64 (R203): L64 form of SUB. -/
  | subL64 (o : Operands)
  /-- AND (R203): S32 form: bitwise AND of two scalars. -/
  | and_ (o : Operands)
  /-- AND_L64 (R203): L64 form of AND. -/
  | andL64 (o : Operands)
  /-- OR (R203): S32 form: bitwise OR of two scalars. -/
  | or_ (o : Operands)
  /-- OR_L64 (R203): L64 form of OR. -/
  | orL64 (o : Operands)
  /-- XOR (R203): S32 form: bitwise XOR of two scalars. -/
  | xor_ (o : Operands)
  /-- XOR_L64 (R203): L64 form of XOR. -/
  | xorL64 (o : Operands)
  /-- SHL (R203): S32 form: shift left, 0 when the amount is 64 or more. -/
  | shl (o : Operands)
  /-- SHL_L64 (R203): L64 form of SHL. -/
  | shlL64 (o : Operands)
  /-- SHR (R203): S32 form: logical shift right. -/
  | shr (o : Operands)
  /-- SHR_L64 (R203): L64 form of SHR. -/
  | shrL64 (o : Operands)
  /-- SRA (R203): S32 form: arithmetic shift right. -/
  | sra (o : Operands)
  /-- SRA_L64 (R203): L64 form of SRA. -/
  | sraL64 (o : Operands)
  /-- SLT (R203): S32 form: signed set-less-than. -/
  | slt (o : Operands)
  /-- SLT_L64 (R203): L64 form of SLT. -/
  | sltL64 (o : Operands)
  /-- SLTN (R203): S32 form: unsigned set-less-than. -/
  | sltn (o : Operands)
  /-- SLTN_L64 (R203): L64 form of SLTN. -/
  | sltnL64 (o : Operands)
  /-- SEQ (R203): S32 form: set if equal. -/
  | seq (o : Operands)
  /-- SEQ_L64 (R203): L64 form of SEQ. -/
  | seqL64 (o : Operands)
  /-- MIN (R203): S32 form: signed minimum. -/
  | min (o : Operands)
  /-- MIN_L64 (R203): L64 form of MIN. -/
  | minL64 (o : Operands)
  /-- MAX (R203): S32 form: signed maximum. -/
  | max (o : Operands)
  /-- MAX_L64 (R203): L64 form of MAX. -/
  | maxL64 (o : Operands)
  /-- MINN (R203): S32 form: unsigned minimum. -/
  | minn (o : Operands)
  /-- MINN_L64 (R203): L64 form of MINN. -/
  | minnL64 (o : Operands)
  /-- MAXN (R203): S32 form: unsigned maximum. -/
  | maxn (o : Operands)
  /-- MAXN_L64 (R203): L64 form of MAXN. -/
  | maxnL64 (o : Operands)
  /-- MUL (R203): S32 form: low 64 bits of the product. -/
  | mul (o : Operands)
  /-- MUL_L64 (R203): L64 form of MUL. -/
  | mulL64 (o : Operands)
  /-- MULH (R203): High 64 bits of the signed product. -/
  | mulh (o : Operands)
  /-- MULHN (R203): High 64 bits of the unsigned product. -/
  | mulhn (o : Operands)
  /-- DIV (R205): Signed scalar divide, trapping INT_DZ or giving all ones on a zero divisor by icsr.DZS. -/
  | div (o : Operands)
  /-- DIVN (R205): Unsigned scalar divide with the divide-by-zero rule. -/
  | divn (o : Operands)
  /-- REM (R205): Signed scalar remainder with the divide-by-zero rule. -/
  | rem (o : Operands)
  /-- REMN (R205): Unsigned scalar remainder with the divide-by-zero rule. -/
  | remn (o : Operands)
  /-- ROL (R203): Rotate left by sB mod 64. -/
  | rol (o : Operands)
  /-- CLZ (R203): Count leading zero bits of sA. -/
  | clz (o : Operands)
  /-- CTZ (R203): Count trailing zero bits of sA. -/
  | ctz (o : Operands)
  /-- POPC (R203): Count set bits of sA. -/
  | popc (o : Operands)
  /-- LUT3 (R213): Three-input bitwise table lookup on old sd, sA and sB. -/
  | lut3 (o : Operands)
  /-- ADDI (R204): Add a sign-extended immediate. -/
  | addi (o : Operands)
  /-- SUBI (R204): Subtract an immediate. -/
  | subi (o : Operands)
  /-- ANDI (R204): AND with an immediate. -/
  | andi (o : Operands)
  /-- ORI (R204): OR with an immediate. -/
  | ori (o : Operands)
  /-- XORI (R204): XOR with an immediate. -/
  | xori (o : Operands)
  /-- SHLI (R204): Shift left by an immediate 0-63. -/
  | shli (o : Operands)
  /-- SHRI (R204): Logical shift right by an immediate. -/
  | shri (o : Operands)
  /-- SRAI (R204): Arithmetic shift right by an immediate. -/
  | srai (o : Operands)
  /-- SLTI (R204): Signed compare with an immediate. -/
  | slti (o : Operands)
  /-- SLTNI (R204): Unsigned compare with a sign-extended immediate. -/
  | sltni (o : Operands)
  /-- SEQI (R204): Equality with an immediate. -/
  | seqi (o : Operands)
  /-- MINI (R204): Signed minimum with an immediate. -/
  | mini (o : Operands)
  /-- MAXI (R204): Signed maximum with an immediate. -/
  | maxi (o : Operands)
  /-- MINNI (R204): Unsigned minimum with an immediate. -/
  | minni (o : Operands)
  /-- MAXNI (R204): Unsigned maximum with an immediate. -/
  | maxni (o : Operands)
  /-- MULI (R204): Multiply by an immediate. -/
  | muli (o : Operands)
  /-- MULHI (R204): High signed product with an immediate. -/
  | mulhi (o : Operands)
  /-- MULHNI (R204): High unsigned product with an immediate. -/
  | mulhni (o : Operands)
  /-- DIVI (R204): Signed divide by an immediate. -/
  | divi (o : Operands)
  /-- DIVNI (R204): Unsigned divide by an immediate. -/
  | divni (o : Operands)
  /-- REMI (R204): Signed remainder by an immediate. -/
  | remi (o : Operands)
  /-- REMNI (R204): Unsigned remainder by an immediate. -/
  | remni (o : Operands)
  /-- ROLI (R204): Rotate left by an immediate. -/
  | roli (o : Operands)
  /-- LI (R206): Load a sign-extended 32-bit literal into sd. -/
  | li (o : Operands)
  /-- LIH (R206): Replace bits [63:32] of sd with a literal. -/
  | lih (o : Operands)
  /-- EXT (R207): Extract a zero-extended bit field. -/
  | ext (o : Operands)
  /-- INS (R207): Insert a bit field into sd. -/
  | ins (o : Operands)
  /-- SEL (R207): Bitwise select of sA and sB by old sd. -/
  | sel (o : Operands)
  /-- B_EQ (R325): Branch if equal. -/
  | bEq (o : Operands)
  /-- B_NE (R325): Branch if not equal. -/
  | bNe (o : Operands)
  /-- B_LT (R325): Branch if signed less. -/
  | bLt (o : Operands)
  /-- B_GE (R325): Branch if signed greater or equal. -/
  | bGe (o : Operands)
  /-- B_LTN (R325): Branch if unsigned less. -/
  | bLtn (o : Operands)
  /-- B_GEN (R325): Branch if unsigned greater or equal. -/
  | bGen (o : Operands)
  /-- BZ (R325): Branch if zero. -/
  | bz (o : Operands)
  /-- BNZ (R325): Branch if nonzero. -/
  | bnz (o : Operands)
  /-- BP_ANY (R325): Branch if any considered predicate bit is 1. -/
  | bpAny (o : Operands)
  /-- BP_ALL (R325): Branch if every considered predicate bit is 1. -/
  | bpAll (o : Operands)
  /-- BP_NONE (R325): Branch if no considered predicate bit is 1. -/
  | bpNone (o : Operands)
  /-- J (R326): Jump to a parcel offset. -/
  | jump (o : Operands)
  /-- JR (R326): Jump to the address in sA, ALIGN if misaligned. -/
  | jr (o : Operands)
  /-- CALL (R327): Push return address and vector-state word on the s31 stack and jump. -/
  | call (o : Operands)
  /-- CALLR (R327): Register-target call with the stack frame of R327. -/
  | callr (o : Operands)
  /-- RET (R327): Pop the frame, restore vl, ew and mif, and return. -/
  | ret (o : Operands)
  /-- NEST (R330): Start a hardware loop nest over the following body. -/
  | nest (o : Operands)
  /-- NEST_LOOPBACK (R330): Retirement of the body's last instruction advances the nest indices and loops back or falls through. -/
  | nestLoopback
  /-- NEXIT (R330): S32 form: leave the active loop nest. -/
  | nexit (o : Operands)
  /-- NEXIT_L64 (R330): L64 form of NEXIT. -/
  | nexitL64 (o : Operands)
  /-- NEXIT_REG (R330): S32 form: leave the nest when sA is nonzero. -/
  | nexitReg (o : Operands)
  /-- NEXIT_REG_L64 (R330): L64 form of NEXIT sA. -/
  | nexitRegL64 (o : Operands)
  /-- SETVL (R323): Set vl := min(sA, VLMAX(w)), ew := w, and sd := vl. -/
  | setvl (o : Operands)
  /-- VTB (R335): Run one element thread per allowed element over a block, then record stops in pD. -/
  | vtb (o : Operands)
  /-- VTEND (R333): S32 form: end the running element thread. -/
  | vtend (o : Operands)
  /-- VTEND_L64 (R333): L64 form of VTEND. -/
  | vtendL64 (o : Operands)
  /-- VTNEXT (R333): Continue the element thread at a label when its predicate bit is set. -/
  | vtnext (o : Operands)
  /-- FARM (R338): S32 form: bind the strand to a farm record, or unbind. -/
  | farm (o : Operands)
  /-- FARM_L64 (R338): L64 form of FARM. -/
  | farmL64 (o : Operands)
  /-- STRIP (R339): S32 form: atomically claim the next strip of the farm and set vl. -/
  | strip (o : Operands)
  /-- STRIP_L64 (R339): L64 form of STRIP. -/
  | stripL64 (o : Operands)
  /-- FBAR (R340): S32 form: arrive at the farm barrier and wait for its generation to change. -/
  | fbar (o : Operands)
  /-- FBAR_L64 (R340): L64 form of FBAR. -/
  | fbarL64 (o : Operands)
  /-- CBAR (R341): S32 form: barrier over the strands of the core group. -/
  | cbar (o : Operands)
  /-- CBAR_L64 (R341): L64 form of CBAR. -/
  | cbarL64 (o : Operands)
  /-- YIELD (R342): S32 form: end the strand's turn in the issue rotation. -/
  | yield (o : Operands)
  /-- YIELD_L64 (R342): L64 form of YIELD. -/
  | yieldL64 (o : Operands)
  /-- EXIT (R342): S32 form: retire after all stores perform, update the farm record and leave the core. -/
  | exit (o : Operands)
  /-- EXIT_L64 (R342): L64 form of EXIT. -/
  | exitL64 (o : Operands)
  /-- CSRR (R324): Read a control register, serialised after earlier instructions. -/
  | csrr (o : Operands)
  /-- CSRW (R324): Write a control register that has no row of its own. -/
  | csrw (o : Operands)
  /-- CSRW_VL (R169): Write vl clamped to VLMAX(ew), taking the source taint. -/
  | csrwVl (o : Operands)
  /-- CSRW_EW (R169): Write ew and clamp vl to the new VLMAX. -/
  | csrwEw (o : Operands)
  /-- CSRW_VSTART (R169): Write vstart for the next element-loop instruction. -/
  | csrwVstart (o : Operands)
  /-- CSRW_SRSEED (R181): Seed every lane's stochastic rounding state. -/
  | csrwSrseed (o : Operands)
  /-- CSRW_QPCT (R168): Write qpct clamped to 1-65536. -/
  | csrwQpct (o : Operands)
  /-- CSRW_QUOTA_VIEW (R89): Write qlimit, qused or qpool as a .dev store to the viewed domain record. -/
  | csrwQuotaView (o : Operands)
  /-- CSRR_QUOTA_VIEW (R89): Read qlimit, qused or qpool as a .dev load of the viewed domain record. -/
  | csrrQuotaView (o : Operands)
  /-- TRAP (R390): S32 form: take a precise TRAP with tval n. -/
  | trap (o : Operands)
  /-- TRAP_L64 (R390): L64 form of TRAP with code n. -/
  | trapL64 (o : Operands)
  /-- BRK (R390): S32 form: take a BRK trap, or halt under debug mode. -/
  | brk (o : Operands)
  /-- BRK_L64 (R390): L64 form of BRK. -/
  | brkL64 (o : Operands)
  /-- ERET (R391): S32 form: return from trap level n, restoring vstart from vstN. -/
  | eret (o : Operands)
  /-- ERET_L64 (R391): L64 form of ERET. -/
  | eretL64 (o : Operands)
  /-- WFE (R392): S32 form: wait for a record, counter change, mail, time or pre-emption. -/
  | wfe (o : Operands)
  /-- WFE_L64 (R392): L64 form of WFE. -/
  | wfeL64 (o : Operands)
  /-- KILL (R393): S32 form: kill the strand's context with REASON 3. -/
  | kill (o : Operands)
  /-- KILL_L64 (R393): L64 form of KILL. -/
  | killL64 (o : Operands)
  /-- TLBINV (R394): S32 form: remove every cached translation of the function at .dev scope. -/
  | tlbinv (o : Operands)
  /-- TLBINV_L64 (R394): L64 form of TLBINV with form and scope. -/
  | tlbinvL64 (o : Operands)
  /-- FENCE (R107): S32 form: full .dev fence. -/
  | fence (o : Operands)
  /-- FENCE_L64 (R292): L64 form of FENCE with kinds and scope. -/
  | fenceL64 (o : Operands)
  /-- TCLR_S (R107): S32 form: empty the taint set of a scalar register. -/
  | tclrS (o : Operands)
  /-- TCLR_S_L64 (R107): L64 form of TCLR sd. -/
  | tclrSL64 (o : Operands)
  /-- TCLR_V (R107): S32 form: empty the taint set of a vector register. -/
  | tclrV (o : Operands)
  /-- TCLR_V_L64 (R107): L64 form of TCLR vd. -/
  | tclrVL64 (o : Operands)
  /-- TCLR_P (R107): S32 form: empty the taint set of a predicate register. -/
  | tclrP (o : Operands)
  /-- TCLR_P_L64 (R107): L64 form of TCLR pd. -/
  | tclrPL64 (o : Operands)
  /-- TCLR_VL (R107): S32 form: empty the taint set of vl. -/
  | tclrVl (o : Operands)
  /-- TCLR_VL_L64 (R107): L64 form of TCLR vl. -/
  | tclrVlL64 (o : Operands)
  /-- LD (R101): Scalar load at sA plus an immediate offset. -/
  | ld (o : Operands)
  /-- LD_INDEX (R101): Scalar load at sA + sB. -/
  | ldIndex (o : Operands)
  /-- PREF (R102): Prefetch a line into the memory-side and scalar caches; never stops. -/
  | pref (o : Operands)
  /-- ST (R101): Scalar store at sA plus an immediate offset. -/
  | st (o : Operands)
  /-- ST_INDEX (R101): Scalar store at sA + sB. -/
  | stIndex (o : Operands)
  /-- AMO (R105): Scalar atomic read-modify-write with the old value to sd. -/
  | amo (o : Operands)
  /-- LDACQ (R104): Load with the acquire property at a scope. -/
  | ldacq (o : Operands)
  /-- STREL (R104): Store with the release property at a scope. -/
  | strel (o : Operands)
  /-- VADD (R208): Vector integer add, vector, scalar or immediate operand. -/
  | vadd (o : Operands)
  /-- VSUB (R208): Vector integer subtract. -/
  | vsub (o : Operands)
  /-- VMIN (R208): Vector integer minimum. -/
  | vmin (o : Operands)
  /-- VMAX (R208): Vector integer maximum. -/
  | vmax (o : Operands)
  /-- VABS (R208): Vector absolute value of signed elements. -/
  | vabs (o : Operands)
  /-- VSEL (R208): Select elements of va or vb by a predicate. -/
  | vsel (o : Operands)
  /-- VSAT (R209): Clamp elements to an n-bit range. -/
  | vsat (o : Operands)
  /-- VADD_SAT (R208): Saturating vector add. -/
  | vaddSat (o : Operands)
  /-- VSUB_SAT (R208): Saturating vector subtract. -/
  | vsubSat (o : Operands)
  /-- VSHL (R212): Vector shift left. -/
  | vshl (o : Operands)
  /-- VSHR (R212): Vector logical shift right. -/
  | vshr (o : Operands)
  /-- VSRA (R212): Vector arithmetic shift right. -/
  | vsra (o : Operands)
  /-- VFSL (R212): Funnel shift left of a:b. -/
  | vfsl (o : Operands)
  /-- VFSR (R212): Funnel shift right of a:b. -/
  | vfsr (o : Operands)
  /-- VLUT3 (R213): Per-bit three-input table lookup on vd, va, vb. -/
  | vlut3 (o : Operands)
  /-- VCMP (R214): Integer compare writing predicate bits. -/
  | vcmp (o : Operands)
  /-- VPOPC (R215): Per-element population count. -/
  | vpopc (o : Operands)
  /-- VCLZ (R215): Per-element leading zero count. -/
  | vclz (o : Operands)
  /-- VEXTB (R215): Per-element bit-field extract. -/
  | vextb (o : Operands)
  /-- VINSB (R215): Per-element bit-field insert. -/
  | vinsb (o : Operands)
  /-- VMUL (R210): Vector integer multiply. -/
  | vmul (o : Operands)
  /-- VMULH (R210): High half of the vector integer product. -/
  | vmulh (o : Operands)
  /-- VMAC (R210): Vector integer multiply-accumulate. -/
  | vmac (o : Operands)
  /-- VDIV (R210): Vector integer divide with INT_DZ stop or all-ones result. -/
  | vdiv (o : Operands)
  /-- VREM (R210): Vector integer remainder with the divide-by-zero rule. -/
  | vrem (o : Operands)
  /-- VPERM (R217): Permute elements of va by indices in vb; never stops. -/
  | vperm (o : Operands)
  /-- VTBL (R217): Table lookup with indices modulo 2^n. -/
  | vtbl (o : Operands)
  /-- VCOMPRESS (R218): Pack selected elements to the front and set vl := al := count. -/
  | vcompress (o : Operands)
  /-- VEXPAND (R217): Spread leading elements of va to selected positions. -/
  | vexpand (o : Operands)
  /-- VREV (R217): Reverse the first vl elements. -/
  | vrev (o : Operands)
  /-- VZIP (R217): Interleave half of two sources. -/
  | vzip (o : Operands)
  /-- VUNZIP (R217): De-interleave two sources. -/
  | vunzip (o : Operands)
  /-- VSLIDEUP (R219): Slide elements up by k with fill from vb. -/
  | vslideup (o : Operands)
  /-- VSLIDEDN (R219): Slide elements down by k with fill from vb. -/
  | vslidedn (o : Operands)
  /-- PAND (R221): S32 form: predicate AND. -/
  | pand (o : Operands)
  /-- PAND_L64 (R221): L64 guarded form of PAND. -/
  | pandL64 (o : Operands)
  /-- POR (R221): S32 form: predicate OR. -/
  | por (o : Operands)
  /-- POR_L64 (R221): L64 guarded form of POR. -/
  | porL64 (o : Operands)
  /-- PXOR (R221): S32 form: predicate XOR. -/
  | pxor (o : Operands)
  /-- PXOR_L64 (R221): L64 guarded form of PXOR. -/
  | pxorL64 (o : Operands)
  /-- PNOT (R221): S32 form: predicate NOT. -/
  | pnot (o : Operands)
  /-- PNOT_L64 (R221): L64 guarded form of PNOT. -/
  | pnotL64 (o : Operands)
  /-- PSET (R221): S32 form: set every bit i of pd to (i < vl). -/
  | pset (o : Operands)
  /-- PSET_L64 (R221): L64 form of PSET. -/
  | psetL64 (o : Operands)
  /-- PFIRST (R221): S32 form: keep only the lowest active set bit. -/
  | pfirst (o : Operands)
  /-- PFIRST_L64 (R221): L64 guarded form of PFIRST. -/
  | pfirstL64 (o : Operands)
  /-- PCOUNT (R221): S32 form: count active set predicate bits into sd. -/
  | pcount (o : Operands)
  /-- PCOUNT_L64 (R221): L64 guarded form of PCOUNT. -/
  | pcountL64 (o : Operands)
  /-- PMOVS_TO_SCALAR (R221): Move 64 predicate bits to a scalar. -/
  | pmovsToScalar (o : Operands)
  /-- PMOVS_TO_PREDICATE (R221): Move a scalar into 64 predicate bits. -/
  | pmovsToPredicate (o : Operands)
  /-- VEXTS (R220): Extract element sB of va to a scalar. -/
  | vexts (o : Operands)
  /-- VEXTS_IMM (R220): Extract an immediate-indexed element to a scalar. -/
  | vextsImm (o : Operands)
  /-- VINSS (R220): Insert a scalar into element sB. -/
  | vinss (o : Operands)
  /-- VINSS_IMM (R220): Insert a scalar into an immediate-indexed element. -/
  | vinssImm (o : Operands)
  /-- VBCAST (R220): Broadcast a scalar to active elements. -/
  | vbcast (o : Operands)
  /-- VBCAST_IMM (R220): Broadcast an immediate to active elements. -/
  | vbcastImm (o : Operands)
  /-- VID (R220): Write each active element's index. -/
  | vid (o : Operands)
  /-- VIOTA (R220): Write the prefix count of set predicate bits. -/
  | viota (o : Operands)
  /-- VFADD (R225): Vector float add, rounded once. -/
  | vfadd (o : Operands)
  /-- VFSUB (R225): Vector float subtract. -/
  | vfsub (o : Operands)
  /-- VFMUL (R225): Vector float multiply. -/
  | vfmul (o : Operands)
  /-- VFMA (R225): Fused d + a×b, rounded once. -/
  | vfma (o : Operands)
  /-- VFNMA (R225): Fused d − a×b, rounded once. -/
  | vfnma (o : Operands)
  /-- VFDIV (R226): Correctly rounded float divide. -/
  | vfdiv (o : Operands)
  /-- VFSQRT (R226): Correctly rounded square root. -/
  | vfsqrt (o : Operands)
  /-- VFRSQ (R226): Correctly rounded reciprocal square root. -/
  | vfrsq (o : Operands)
  /-- VFEXP2 (R226): Correctly rounded 2^a. -/
  | vfexp2 (o : Operands)
  /-- VFLOG2 (R226): Correctly rounded log2 a. -/
  | vflog2 (o : Operands)
  /-- VFMIN (R229): Float minimum with NaN rules. -/
  | vfmin (o : Operands)
  /-- VFMAX (R229): Float maximum with NaN rules. -/
  | vfmax (o : Operands)
  /-- VFCLASS (R230): Write a one-hot class code per element. -/
  | vfclass (o : Operands)
  /-- VFCMP (R228): Float compare writing predicate bits. -/
  | vfcmp (o : Operands)
  /-- VCVT (R232): Convert elements between any two admitted types. -/
  | vcvt (o : Operands)
  /-- QSCALE (R235): Choose one block scale byte per block. -/
  | qscale (o : Operands)
  /-- VQNT (R237): Quantise elements under block scales, by blocks. -/
  | vqnt (o : Operands)
  /-- VDQNT (R238): Dequantise codes under their scales, by blocks. -/
  | vdqnt (o : Operands)
  /-- VREDSUM (R240): Integer sum reduction with carry. -/
  | vredsum (o : Operands)
  /-- VREDMIN (R240): Integer minimum reduction. -/
  | vredmin (o : Operands)
  /-- VREDMAX (R240): Integer maximum reduction. -/
  | vredmax (o : Operands)
  /-- VREDAND (R240): Integer AND reduction. -/
  | vredand (o : Operands)
  /-- VREDOR (R240): Integer OR reduction. -/
  | vredor (o : Operands)
  /-- VREDXOR (R240): Integer XOR reduction. -/
  | vredxor (o : Operands)
  /-- VSCAN (R240): Integer inclusive scan with carry in and out. -/
  | vscan (o : Operands)
  /-- VFREDSUM (R241): Tree-ordered float sum reduction. -/
  | vfredsum (o : Operands)
  /-- VFREDOSUM (R240): Ascending-order float sum reduction, each step rounded. -/
  | vfredosum (o : Operands)
  /-- VFREDMIN (R240): Float minimum reduction. -/
  | vfredmin (o : Operands)
  /-- VFREDMAX (R240): Float maximum reduction. -/
  | vfredmax (o : Operands)
  /-- VFSCAN (R240): Ascending float scan with carry. -/
  | vfscan (o : Operands)
  /-- VLD (R109): Unit-stride vector load under the element loop. -/
  | vld (o : Operands)
  /-- VST (R111): Unit-stride vector store with prefix visibility. -/
  | vst (o : Operands)
  /-- VLDS (R109): Strided vector load. -/
  | vlds (o : Operands)
  /-- VSTS (R109): Strided vector store. -/
  | vsts (o : Operands)
  /-- VLDX (R109): Indexed vector load. -/
  | vldx (o : Operands)
  /-- VSTX (R109): Indexed vector store. -/
  | vstx (o : Operands)
  /-- VLD2D (R113): Two-dimensional tile load reporting progress in eprog. -/
  | vld2d (o : Operands)
  /-- VST2D (R113): Two-dimensional tile store. -/
  | vst2d (o : Operands)
  /-- VLDC (R114): Decode ZBP blocks up to a byte bound, setting vl and cbytes. -/
  | vldc (o : Operands)
  /-- VBIND (R115): Read a stream record and bind a vector register to it. -/
  | vbind (o : Operands)
  /-- VUNBIND (R118): Write POS back and release a stream binding. -/
  | vunbind (o : Operands)
  /-- WBIND (R119): Snapshot a base and index vector into a gather window. -/
  | wbind (o : Operands)
  /-- WUNBIND (R119): Unbind a gather window. -/
  | wunbind (o : Operands)
  /-- VAMO (R120): Per-element atomics in ascending order with old values to vd. -/
  | vamo (o : Operands)
  /-- VSAVE (R122): Spill a register range, resumable through spr. -/
  | vsave (o : Operands)
  /-- VLOAD (R122): Fill a register range, resumable through spr. -/
  | vload (o : Operands)
  /-- SPLK (R130): Look up the window slot holding a tag, or -1. -/
  | splk (o : Operands)
  /-- SPTAG (R130): Tag a slot, invalidating any other entry with that tag. -/
  | sptag (o : Operands)
  /-- SPINV (R130): Invalidate one slot's tag entry. -/
  | spinv (o : Operands)
  /-- SPINV_ALL (R130): Invalidate every tag entry of the window. -/
  | spinvAll (o : Operands)
  /-- SPLD (R133): Unit-stride scratchpad load. -/
  | spld (o : Operands)
  /-- SPST (R133): Unit-stride scratchpad store. -/
  | spst (o : Operands)
  /-- SPLD_TILE (R133): Scratchpad tile load under a bank-rotation descriptor. -/
  | spldTile (o : Operands)
  /-- SPST_TILE (R133): Scratchpad tile store under a descriptor. -/
  | spstTile (o : Operands)
  /-- SPLDX (R133): Indexed scratchpad load. -/
  | spldx (o : Operands)
  /-- LPLD (R136): Lane-slice load at consecutive per-lane positions. -/
  | lpld (o : Operands)
  /-- LPST (R136): Lane-slice store at consecutive per-lane positions. -/
  | lpst (o : Operands)
  /-- LPLD_INDEX (R136): Indexed lane-slice load. -/
  | lpldIndex (o : Operands)
  /-- LPST_INDEX (R136): Indexed lane-slice store. -/
  | lpstIndex (o : Operands)
  /-- EPUSH (R144): Issue a 128-byte command to an engine port at commit. -/
  | epush (o : Operands)
  /-- EPOP (R146): Pop the oldest completion record, waiting if one is pending, acquiring its writes. -/
  | epop (o : Operands)
  /-- EPOLL (R143): Count records waiting at a port. -/
  | epoll (o : Operands)
  /-- WAITEV (R147): Wait until an event counter reaches sB + n. -/
  | waitev (o : Operands)
  /-- EVRD (R143): Read an event counter. -/
  | evrd (o : Operands)
  /-- EVSET (R147): Set an event counter's value and mode. -/
  | evset (o : Operands)
  /-- MSHAPE (R247): Grant a tile shape and K from an immediate K. -/
  | mshape (o : Operands)
  /-- MSHAPE_REG (R247): Grant a tile shape with K from a register. -/
  | mshapeReg (o : Operands)
  /-- MZERO (R255): Zero the granted tile and empty the matrix taint. -/
  | mzero (o : Operands)
  /-- MACCLD (R256): Load scaled vector elements into the tile. -/
  | maccld (o : Operands)
  /-- MACCST (R256): Store scaled tile elements to a vector. -/
  | maccst (o : Operands)
  /-- MMA (R251): Dense tile multiply-accumulate over k-steps. -/
  | mma (o : Operands)
  /-- MMAS (R254): N:M sparse-A tile multiply-accumulate. -/
  | mmas (o : Operands)
  /-- BFLY (R260): One butterfly stage over each token. -/
  | bfly (o : Operands)
  /-- BCHAIN (R260): A chain of n butterfly stages over each token. -/
  | bchain (o : Operands)
  /-- MTRANS (R261): Register transpose of a rows × vl tile; never stops. -/
  | mtrans (o : Operands)
  /-- MTRANS_SCRATCH (R262): Scratchpad transpose in tile order under the element loop. -/
  | mtransScratch (o : Operands)
  /-- SMLD (R269): Load a small matrix from each lane's slice. -/
  | smld (o : Operands)
  /-- SMST (R269): Store a small matrix to each lane's slice. -/
  | smst (o : Operands)
  /-- SMGET (R269): Move one entry of each lane's matrix to a vector element. -/
  | smget (o : Operands)
  /-- SMPUT (R269): Move a vector element into one entry per lane. -/
  | smput (o : Operands)
  /-- SMMUL (R271): Per-lane small matrix product. -/
  | smmul (o : Operands)
  /-- SMMAC (R271): Per-lane small matrix multiply-accumulate. -/
  | smmac (o : Operands)
  /-- SMADD (R271): Per-lane small matrix add. -/
  | smadd (o : Operands)
  /-- SMSUB (R271): Per-lane small matrix subtract. -/
  | smsub (o : Operands)
  /-- SMTRN (R271): Per-lane small matrix transpose. -/
  | smtrn (o : Operands)
  /-- SMSCAL (R271): Scale each lane's matrix by its vector element. -/
  | smscal (o : Operands)
  /-- SMCHOL (R273): Per-lane Cholesky factorisation with singular handling. -/
  | smchol (o : Operands)
  /-- SMLU (R274): Per-lane pivoted LU factorisation with permutation out. -/
  | smlu (o : Operands)
  /-- SMSOLV (R275): Per-lane triangular or factored solve. -/
  | smsolv (o : Operands)
  /-- MBSEND (R350): Send a 64-byte message to a mailbox as a .sys release. -/
  | mbsend (o : Operands)
  /-- MBRECV (R351): Wait for and take a message as a .sys acquire. -/
  | mbrecv (o : Operands)
  /-- MBPOLL (R351): Count messages in a mailbox ring. -/
  | mbpoll (o : Operands)
  /-- GLAUNCH (R352): Send a LAUNCH message to a queue's control mailbox. -/
  | glaunch (o : Operands)
  /-- GSIG (R353): Atomically signal a waiting graph node with a DONE decrement. -/
  | gsig (o : Operands)
  /-- REGISTER_DROWSY (R160): A resident register unnamed for 4096 clocks enters the drowsy state. -/
  | registerDrowsy (uid reg : Nat)
  /-- ELASTIC_QUEUE_FILL (R151): The stream-load unit decodes one k-step of B into a free queue entry. -/
  | elasticQueueFill (core : Nat)
  /-- STORE_PERFORM (R278): A store reaches its home slice and takes its place in coherence order. -/
  | storePerform (uid index : Nat)
  /-- HELD_ACTIVATE_RELEASE (R61): An older activate leaves the 1 µs window and a held activate issues. -/
  | heldActivateRelease (stack : Nat)
  /-- STACK_REFRESH (R63): The base die refreshes a stack bank on its own. -/
  | stackRefresh (stack bank hint : Nat)
  /-- RETRY_REISSUE (R63): A request that met refresh is reissued after its wait hint. -/
  | retryReissue (stack : Nat)
  /-- PATROL_SCRUB (R67): The scrubber reads and corrects a line in its daily sweep. -/
  | patrolScrub (line : Nat) (finding : ScrubFinding)
  /-- MIGRATION_START (R71): A supervisor hands the migration unit an old and a new frame. -/
  | migrationStart (oldFrame newFrame : Nat)
  /-- MIGRATION_LINE_COPY (R71): Under the line lock, copy one line and set its copy-done bit. -/
  | migrationLineCopy (oldFrame : Nat)
  /-- MIGRATION_COMPLETE (R73): The unit reports that every line of the page is copied. -/
  | migrationComplete (oldFrame : Nat)
  /-- MIGRATION_RELEASE (R73): The supervisor releases the old frame's redirect. -/
  | migrationRelease (oldFrame : Nat)
  /-- COPY6D (R140): Copy-engine command moving a 6-D element array with conversion. -/
  | copy6d (cmd : Nat)
  /-- FILL (R140): Copy-engine command filling a destination with a pattern. -/
  | fillCopy (cmd : Nat)
  /-- SCRATCH_INSTALL (R140): Copy into one scratch slot and tag it on success. -/
  | scratchInstall (cmd : Nat)
  /-- ALLGATHER (R313): Collective gathering every member's contribution. -/
  | allgather (cmd : Nat)
  /-- REDSCAT (R313): Collective reduce-scatter. -/
  | redscat (cmd : Nat)
  /-- ALLRED (R313): Collective all-reduce folded in ascending rank. -/
  | allred (cmd : Nat)
  /-- BCAST (R313): Collective broadcast from a root. -/
  | bcast (cmd : Nat)
  /-- SEND (R313): Collective point-to-point send. -/
  | sendColl (cmd : Nat)
  /-- RECV (R313): Collective point-to-point receive. -/
  | recvColl (cmd : Nat)
  /-- COMMAND_COMPLETION (R145): An engine command ends and delivers its record, counter and node signals. -/
  | commandCompletion (cmd : Nat)
  /-- TIMED_COMMAND_START (R148): A timed command starts when gtime reaches its start time. -/
  | timedCommandStart (cmd : Nat)
  /-- COLLECTIVE_MEMBER_MESSAGE (R315): A member's collective message arrives and is matched by number, kind and sizes. -/
  | collectiveMemberMessage (msg : MemberMessage)
  /-- COLLECTIVE_ABORT (R316): An abort from another member ends the command with PEERABORT. -/
  | collectiveAbort (gid seq : Nat) (sender : AbortFrom)
  /-- COLLECTIVE_TIMEOUT (R316): Not every member joined within TIMEOUT. -/
  | collectiveTimeout (cmd : Nat)
  /-- STRAND_WAIT_END (R319): The awaited event ends a waiting strand's wait. -/
  | strandWaitEnd (uid : Nat)
  /-- DATA_FLIT (R305): Receive a data flit: deliver, drop and request replay, or re-acknowledge. -/
  | dataFlit (port : Nat) (flit : List (BitVec 8))
  /-- ACKNOWLEDGE_FLIT (R304): An ACK frees covered flits from the replay buffer. -/
  | acknowledgeFlit (port : Nat) (flit : List (BitVec 8))
  /-- REPLAY_REQUEST (R305): The sender resends from ACK + 1 in SEQ order. -/
  | replayRequest (port : Nat) (flit : List (BitVec 8))
  /-- REPLAY_TIMEOUT (R305): No ACK progress for 2 µs causes a resend from the oldest flit. -/
  | replayTimeout (port : Nat)
  /-- LANE_REPAIR (R306): A failing lane quiesces the port and retrains on 7 lanes. -/
  | laneRepair (port lane : Nat)
  /-- REPAIR_DRAIN_TIMEOUT (R306): The 10 µs drain limit of a lane repair expires. -/
  | repairDrainTimeout (port : Nat)
  /-- LANE_REPAIR_FLIT (R306): A KIND 5 flit naming the dropped lane is received. -/
  | laneRepairFlit (port : Nat) (flit : List (BitVec 8))
  /-- PORT_DOWN (R307): A second lane loss takes the port down and moves its routes. -/
  | portDown (port : Nat) (routes : List (Nat × Nat))
  /-- END_TO_END_CONFIRM (R308): A confirm releases the origin's ESEQ window. -/
  | endToEndConfirm (port : Nat) (flit : List (BitVec 8))
  /-- CONFIRM_TIMER (R308): Every 2 µs a destination sends a confirm to recent origins. -/
  | confirmTimer (origin : Nat)
  /-- TIME_SYNC_SEND (R309): Every 10 µs a port sends a time-sync flit. -/
  | timeSyncSend (port : Nat)
  /-- TIME_SYNC_FLIT (R310): Compute delay and offset and slew gtime toward the root. -/
  | timeSyncFlit (port : Nat) (flit : List (BitVec 8))
  /-- TSYNC_LOST (R310): No usable sync flit for 10 ms marks the device unsynchronised. -/
  | tsyncLost
  /-- LAUNCH (R356): The walker takes a LAUNCH message and re-arms the node array. -/
  | launchGraph (queue : Nat)
  /-- COMPUTE (R359): A ready COMPUTE node is offered for placement. -/
  | computeNode (queue : Nat) (node : Nat)
  /-- COPY (R359): A ready COPY node pushes its command to the named engine. -/
  | copyNode (queue : Nat) (node : Nat)
  /-- COND (R359): A COND node compares a word and gives DONE or SKIP to its successor groups. -/
  | condNode (queue : Nat) (node : Nat)
  /-- LOOP (R360): A LOOP node re-arms its body or exits. -/
  | loopNode (queue : Nat) (node : Nat)
  /-- SWITCH (R359): A SWITCH node picks one successor by a masked word. -/
  | switchNode (queue : Nat) (node : Nat)
  /-- MAIL (R359): A MAIL node sends a message. -/
  | mailNode (queue : Nat) (node : Nat)
  /-- MAIL_RETRY (R359): A refused MAIL send is retried after 1 µs. -/
  | mailRetry (queue : Nat) (node : Nat)
  /-- WAITMAIL (R359): A WAITMAIL node receives a message into its buffer. -/
  | waitmailNode (queue : Nat) (node : Nat)
  /-- TIMED (R359): A TIMED node completes when gtime reaches T. -/
  | timedNode (queue : Nat) (node : Nat)
  /-- END (R362): An END node ends the graph and may send a reply. -/
  | endNode (queue : Nat) (node : Nat)
  /-- NODE_COMPLETE (R295): A node's strands and commands are done; its successors are decremented. -/
  | nodeComplete (queue : Nat) (node : Nat)
  /-- SCHEDULING_DECISION (R363): Pick and place a candidate by effective priority. -/
  | schedulingDecision
  /-- CANDIDATE_RESERVATION (R364): A candidate waiting 10 ms reserves its mask's cores. -/
  | candidateReservation (queue : Nat)
  /-- BUDGET_OVERRUN (R369): A launch's budget expires; requeue or kill by POLICY. -/
  | budgetOverrun (queue : Nat) (node : Nat)
  /-- QUEUE_ABORT (R362): Setting CTRL.ABORT kills the active graph's strands and ends it. -/
  | queueAbort (queue : Nat)
  /-- PREEMPTION_REQUEST (R378): A pre-emption request becomes pending for a strand. -/
  | preemptionRequest (uid boundary : Nat)
  /-- PREEMPTION_TAKE (R379): A pending request is taken at a boundary and the strand is saved. -/
  | preemptionTake (uid : Nat)
  /-- CONTEXT_KILL (R383): End a strand and its siblings, write the kill record, fail the node. -/
  | contextKill (uid reason : Nat)
  /-- MSGSEND (R398): A host write sends MSGBUF to a mailbox. -/
  | msgsend (vf : Nat) (value : BitVec 64)
  /-- AGENT_CREATE (R400): Create an agent context from its record. -/
  | agentCreate (vf : Nat)
  /-- AGENT_DESTROY (R400): Destroy an agent context. -/
  | agentDestroy (vf : Nat)
  /-- QUEUE_SET (R400): Copy a queue record into the device. -/
  | queueSet (vf : Nat)
  /-- MBOX_SET (R400): Assign a mailbox to an agent or as a queue's control mailbox. -/
  | mboxSet (vf : Nat)
  /-- CTXPOOL (R400): Give a queue its pinned context pool. -/
  | ctxpool (vf : Nat)
  /-- PREEMPT (R400): Raise a pre-emption request for every strand of a queue. -/
  | preemptQueue (vf : Nat)
  /-- DEBUG_OFF (R400): Turn a queue's debug mode off. -/
  | debugOff (vf : Nat)
  /-- DEBUG_ON (R400): Turn a queue's debug mode on. -/
  | debugOn (vf : Nat)
  /-- DEBUG_HALT (R388): Halt a strand, saving it with HALTED set. -/
  | debugHalt (vf : Nat)
  /-- DEBUG_STEP (R400): Place a strand, retire one instruction and halt it again. -/
  | debugStep (vf : Nat)
  /-- LOAD (R407): Check, relocate and load a signed code object and return its generation. -/
  | loadObject (vf : Nat)
  /-- UNLOAD (R408): Start unloading a generation. -/
  | unload (vf : Nat)
  /-- UNLOAD_DONE (R408): All cores have passed the unload; write DONEADDR and signal. -/
  | unloadDone (gen : Nat)
  /-- ASSIGN (R400): Move objects from the physical to a virtual function. -/
  | assignObj (vf : Nat)
  /-- S2ROOT (R400): Set a virtual function's stage-2 root. -/
  | s2root (vf : Nat)
  /-- S2INV (R400): Invalidate a virtual function's stage-2 translations. -/
  | s2inv (vf : Nat)
  /-- FARWIN (R69): Configure a far window. -/
  | farwin (vf : Nat)
  /-- KEYSET (R400): Set or clear a trusted code-signing key slot. -/
  | keyset (vf : Nat)
  /-- PRQREPLY (R402): Answer a page request tag with success or failure. -/
  | prqreply (vf : Nat) (value : BitVec 64)
  /-- PRQHEAD (R402): Host consumes page request entries, freeing ring room. -/
  | prqhead (vf : Nat) (value : BitVec 64)
  /-- REGISTER_WRITE (R397): Write a control page register with no row of its own. -/
  | registerWrite (vf offset : Nat) (value : BitVec 64)
  /-- BAR2_ACCESS (R396): Host access to device memory through the BAR2 aperture. -/
  | bar2Access (vf offset : Nat) (write : Option (List (BitVec 8))) (bytes : Nat)
  /-- GET_VERSION (R411): SPDM request for the supported version. -/
  | getVersion (request : List (BitVec 8))
  /-- GET_CAPABILITIES (R411): SPDM request for capabilities. -/
  | getCapabilities (request : List (BitVec 8))
  /-- NEGOTIATE_ALGORITHMS (R411): SPDM algorithm negotiation. -/
  | negotiateAlgorithms (request : List (BitVec 8))
  /-- GET_DIGESTS (R411): SPDM request for certificate digests. -/
  | getDigests (request : List (BitVec 8))
  /-- GET_CERTIFICATE (R411): SPDM request for the certificate chain. -/
  | getCertificate (request : List (BitVec 8))
  /-- CHALLENGE (R411): SPDM challenge signed with the identity key. -/
  | challenge (request : List (BitVec 8))
  /-- GET_MEASUREMENTS (R411): SPDM request for the four measurements. -/
  | getMeasurements (request : List (BitVec 8))
  /-- DEVICE_RESET (R421): Reset runs the bring-up sequence. -/
  | deviceReset
  /-- ARBITER_REDIVISION (R412): Every 10 µs the arbiter re-divides the power budget. -/
  | arbiterRedivision (demand : PowerDemand)
  /-- GOVERNOR_CLAMP (R415): A fast current rise clamps a core's issue. -/
  | governorClamp (core : Nat)
  /-- GOVERNOR_CLAMP_END (R415): A clamp ends and the core's grant applies again. -/
  | governorClampEnd (core : Nat)
  /-- MONITOR_SAMPLE (R417): An event sample is added to a monitor unit. -/
  | monitorSample (unit : Nat) (sample : Nat)
  /-- MONITOR_COUNT_SAMPLE (R418): Each 1 µs a count quantity's sample is added. -/
  | monitorCountSample (unit : Nat) (sample : Nat)
  /-- SNAP (R416): Freeze a unit's values for reading, then clear and restart. -/
  | snapMonitor (unit : Nat)
  /-- CORE_FAILURE (R420): Management contains a failed core, saves or kills its strands and removes it. -/
  | coreFailure (core : Nat) (failing : List Nat)
  /-- RESUME (R388): A resume clears HALTED on a halted strand and places it again, applying the debugger's writes. -/
  | resumeStrand (uid : Nat)
  /-- WFE_WAIT_END_BY_DEVICE (R392): The device ends a WFE wait at any moment of its own, with no awaited event. -/
  | wfeWaitEndByDevice (uid : Nat)
deriving DecidableEq, Repr

/-- The fields of an encoded instruction; an event has none. -/
def Instr.ops : Instr → Option Operands
  | .add o => some o
  | .addL64 o => some o
  | .sub o => some o
  | .subL64 o => some o
  | .and_ o => some o
  | .andL64 o => some o
  | .or_ o => some o
  | .orL64 o => some o
  | .xor_ o => some o
  | .xorL64 o => some o
  | .shl o => some o
  | .shlL64 o => some o
  | .shr o => some o
  | .shrL64 o => some o
  | .sra o => some o
  | .sraL64 o => some o
  | .slt o => some o
  | .sltL64 o => some o
  | .sltn o => some o
  | .sltnL64 o => some o
  | .seq o => some o
  | .seqL64 o => some o
  | .min o => some o
  | .minL64 o => some o
  | .max o => some o
  | .maxL64 o => some o
  | .minn o => some o
  | .minnL64 o => some o
  | .maxn o => some o
  | .maxnL64 o => some o
  | .mul o => some o
  | .mulL64 o => some o
  | .mulh o => some o
  | .mulhn o => some o
  | .div o => some o
  | .divn o => some o
  | .rem o => some o
  | .remn o => some o
  | .rol o => some o
  | .clz o => some o
  | .ctz o => some o
  | .popc o => some o
  | .lut3 o => some o
  | .addi o => some o
  | .subi o => some o
  | .andi o => some o
  | .ori o => some o
  | .xori o => some o
  | .shli o => some o
  | .shri o => some o
  | .srai o => some o
  | .slti o => some o
  | .sltni o => some o
  | .seqi o => some o
  | .mini o => some o
  | .maxi o => some o
  | .minni o => some o
  | .maxni o => some o
  | .muli o => some o
  | .mulhi o => some o
  | .mulhni o => some o
  | .divi o => some o
  | .divni o => some o
  | .remi o => some o
  | .remni o => some o
  | .roli o => some o
  | .li o => some o
  | .lih o => some o
  | .ext o => some o
  | .ins o => some o
  | .sel o => some o
  | .bEq o => some o
  | .bNe o => some o
  | .bLt o => some o
  | .bGe o => some o
  | .bLtn o => some o
  | .bGen o => some o
  | .bz o => some o
  | .bnz o => some o
  | .bpAny o => some o
  | .bpAll o => some o
  | .bpNone o => some o
  | .jump o => some o
  | .jr o => some o
  | .call o => some o
  | .callr o => some o
  | .ret o => some o
  | .nest o => some o
  | .nestLoopback => none
  | .nexit o => some o
  | .nexitL64 o => some o
  | .nexitReg o => some o
  | .nexitRegL64 o => some o
  | .setvl o => some o
  | .vtb o => some o
  | .vtend o => some o
  | .vtendL64 o => some o
  | .vtnext o => some o
  | .farm o => some o
  | .farmL64 o => some o
  | .strip o => some o
  | .stripL64 o => some o
  | .fbar o => some o
  | .fbarL64 o => some o
  | .cbar o => some o
  | .cbarL64 o => some o
  | .yield o => some o
  | .yieldL64 o => some o
  | .exit o => some o
  | .exitL64 o => some o
  | .csrr o => some o
  | .csrw o => some o
  | .csrwVl o => some o
  | .csrwEw o => some o
  | .csrwVstart o => some o
  | .csrwSrseed o => some o
  | .csrwQpct o => some o
  | .csrwQuotaView o => some o
  | .csrrQuotaView o => some o
  | .trap o => some o
  | .trapL64 o => some o
  | .brk o => some o
  | .brkL64 o => some o
  | .eret o => some o
  | .eretL64 o => some o
  | .wfe o => some o
  | .wfeL64 o => some o
  | .kill o => some o
  | .killL64 o => some o
  | .tlbinv o => some o
  | .tlbinvL64 o => some o
  | .fence o => some o
  | .fenceL64 o => some o
  | .tclrS o => some o
  | .tclrSL64 o => some o
  | .tclrV o => some o
  | .tclrVL64 o => some o
  | .tclrP o => some o
  | .tclrPL64 o => some o
  | .tclrVl o => some o
  | .tclrVlL64 o => some o
  | .ld o => some o
  | .ldIndex o => some o
  | .pref o => some o
  | .st o => some o
  | .stIndex o => some o
  | .amo o => some o
  | .ldacq o => some o
  | .strel o => some o
  | .vadd o => some o
  | .vsub o => some o
  | .vmin o => some o
  | .vmax o => some o
  | .vabs o => some o
  | .vsel o => some o
  | .vsat o => some o
  | .vaddSat o => some o
  | .vsubSat o => some o
  | .vshl o => some o
  | .vshr o => some o
  | .vsra o => some o
  | .vfsl o => some o
  | .vfsr o => some o
  | .vlut3 o => some o
  | .vcmp o => some o
  | .vpopc o => some o
  | .vclz o => some o
  | .vextb o => some o
  | .vinsb o => some o
  | .vmul o => some o
  | .vmulh o => some o
  | .vmac o => some o
  | .vdiv o => some o
  | .vrem o => some o
  | .vperm o => some o
  | .vtbl o => some o
  | .vcompress o => some o
  | .vexpand o => some o
  | .vrev o => some o
  | .vzip o => some o
  | .vunzip o => some o
  | .vslideup o => some o
  | .vslidedn o => some o
  | .pand o => some o
  | .pandL64 o => some o
  | .por o => some o
  | .porL64 o => some o
  | .pxor o => some o
  | .pxorL64 o => some o
  | .pnot o => some o
  | .pnotL64 o => some o
  | .pset o => some o
  | .psetL64 o => some o
  | .pfirst o => some o
  | .pfirstL64 o => some o
  | .pcount o => some o
  | .pcountL64 o => some o
  | .pmovsToScalar o => some o
  | .pmovsToPredicate o => some o
  | .vexts o => some o
  | .vextsImm o => some o
  | .vinss o => some o
  | .vinssImm o => some o
  | .vbcast o => some o
  | .vbcastImm o => some o
  | .vid o => some o
  | .viota o => some o
  | .vfadd o => some o
  | .vfsub o => some o
  | .vfmul o => some o
  | .vfma o => some o
  | .vfnma o => some o
  | .vfdiv o => some o
  | .vfsqrt o => some o
  | .vfrsq o => some o
  | .vfexp2 o => some o
  | .vflog2 o => some o
  | .vfmin o => some o
  | .vfmax o => some o
  | .vfclass o => some o
  | .vfcmp o => some o
  | .vcvt o => some o
  | .qscale o => some o
  | .vqnt o => some o
  | .vdqnt o => some o
  | .vredsum o => some o
  | .vredmin o => some o
  | .vredmax o => some o
  | .vredand o => some o
  | .vredor o => some o
  | .vredxor o => some o
  | .vscan o => some o
  | .vfredsum o => some o
  | .vfredosum o => some o
  | .vfredmin o => some o
  | .vfredmax o => some o
  | .vfscan o => some o
  | .vld o => some o
  | .vst o => some o
  | .vlds o => some o
  | .vsts o => some o
  | .vldx o => some o
  | .vstx o => some o
  | .vld2d o => some o
  | .vst2d o => some o
  | .vldc o => some o
  | .vbind o => some o
  | .vunbind o => some o
  | .wbind o => some o
  | .wunbind o => some o
  | .vamo o => some o
  | .vsave o => some o
  | .vload o => some o
  | .splk o => some o
  | .sptag o => some o
  | .spinv o => some o
  | .spinvAll o => some o
  | .spld o => some o
  | .spst o => some o
  | .spldTile o => some o
  | .spstTile o => some o
  | .spldx o => some o
  | .lpld o => some o
  | .lpst o => some o
  | .lpldIndex o => some o
  | .lpstIndex o => some o
  | .epush o => some o
  | .epop o => some o
  | .epoll o => some o
  | .waitev o => some o
  | .evrd o => some o
  | .evset o => some o
  | .mshape o => some o
  | .mshapeReg o => some o
  | .mzero o => some o
  | .maccld o => some o
  | .maccst o => some o
  | .mma o => some o
  | .mmas o => some o
  | .bfly o => some o
  | .bchain o => some o
  | .mtrans o => some o
  | .mtransScratch o => some o
  | .smld o => some o
  | .smst o => some o
  | .smget o => some o
  | .smput o => some o
  | .smmul o => some o
  | .smmac o => some o
  | .smadd o => some o
  | .smsub o => some o
  | .smtrn o => some o
  | .smscal o => some o
  | .smchol o => some o
  | .smlu o => some o
  | .smsolv o => some o
  | .mbsend o => some o
  | .mbrecv o => some o
  | .mbpoll o => some o
  | .glaunch o => some o
  | .gsig o => some o
  | .registerDrowsy _ _ => none
  | .elasticQueueFill _ => none
  | .storePerform _ _ => none
  | .heldActivateRelease _ => none
  | .stackRefresh _ _ _ => none
  | .retryReissue _ => none
  | .patrolScrub _ _ => none
  | .migrationStart _ _ => none
  | .migrationLineCopy _ => none
  | .migrationComplete _ => none
  | .migrationRelease _ => none
  | .copy6d _ => none
  | .fillCopy _ => none
  | .scratchInstall _ => none
  | .allgather _ => none
  | .redscat _ => none
  | .allred _ => none
  | .bcast _ => none
  | .sendColl _ => none
  | .recvColl _ => none
  | .commandCompletion _ => none
  | .timedCommandStart _ => none
  | .collectiveMemberMessage _ => none
  | .collectiveAbort _ _ _ => none
  | .collectiveTimeout _ => none
  | .strandWaitEnd _ => none
  | .dataFlit _ _ => none
  | .acknowledgeFlit _ _ => none
  | .replayRequest _ _ => none
  | .replayTimeout _ => none
  | .laneRepair _ _ => none
  | .repairDrainTimeout _ => none
  | .laneRepairFlit _ _ => none
  | .portDown _ _ => none
  | .endToEndConfirm _ _ => none
  | .confirmTimer _ => none
  | .timeSyncSend _ => none
  | .timeSyncFlit _ _ => none
  | .tsyncLost => none
  | .launchGraph _ => none
  | .computeNode _ _ => none
  | .copyNode _ _ => none
  | .condNode _ _ => none
  | .loopNode _ _ => none
  | .switchNode _ _ => none
  | .mailNode _ _ => none
  | .mailRetry _ _ => none
  | .waitmailNode _ _ => none
  | .timedNode _ _ => none
  | .endNode _ _ => none
  | .nodeComplete _ _ => none
  | .schedulingDecision => none
  | .candidateReservation _ => none
  | .budgetOverrun _ _ => none
  | .queueAbort _ => none
  | .preemptionRequest _ _ => none
  | .preemptionTake _ => none
  | .contextKill _ _ => none
  | .msgsend _ _ => none
  | .agentCreate _ => none
  | .agentDestroy _ => none
  | .queueSet _ => none
  | .mboxSet _ => none
  | .ctxpool _ => none
  | .preemptQueue _ => none
  | .debugOff _ => none
  | .debugOn _ => none
  | .debugHalt _ => none
  | .debugStep _ => none
  | .loadObject _ => none
  | .unload _ => none
  | .unloadDone _ => none
  | .assignObj _ => none
  | .s2root _ => none
  | .s2inv _ => none
  | .farwin _ => none
  | .keyset _ => none
  | .prqreply _ _ => none
  | .prqhead _ _ => none
  | .registerWrite _ _ _ => none
  | .bar2Access _ _ _ _ => none
  | .getVersion _ => none
  | .getCapabilities _ => none
  | .negotiateAlgorithms _ => none
  | .getDigests _ => none
  | .getCertificate _ => none
  | .challenge _ => none
  | .getMeasurements _ => none
  | .deviceReset => none
  | .arbiterRedivision _ => none
  | .governorClamp _ => none
  | .governorClampEnd _ => none
  | .monitorSample _ _ => none
  | .monitorCountSample _ _ => none
  | .snapMonitor _ => none
  | .coreFailure _ _ => none
  | .resumeStrand _ => none
  | .wfeWaitEndByDevice _ => none

end Sys2Proof
end

