-- ==== Sys2Proof/Machine/State.lean ====
section
/-! DEFINITION. The state of the machine: the strand that issues, the other strands, the device, and the agenda of what
happens next. Everything is plain data. Large files are sparse stores: lists of (key, value), keys strictly rising, no
entry equal to what an unlisted key reads as (zero). -/

namespace Sys2Proof.Machine

/-- Sparse storage of words of w bits: key and value, keys rising, no zero value. -/
abbrev Store (w : Nat) := List (Nat × BitVec w)

/-- Registers by class, for taint (R163, R283) and for what a convoy has written (R54). -/
inductive RegId where
  | s (n : Nat) | v (n : Nat) | p (n : Nat) | acc (n : Nat) | m (n : Nat) | vl | mat | sm | win (n : Nat)
deriving DecidableEq, Repr

/-- A taint set (R284): distinct load tags, and ALL with the tag below which it covers every load (0: no ALL). -/
structure Taint where
  tags : List Nat
  all : Nat
deriving DecidableEq, Repr

/-- One bank of trap registers (R373). -/
structure Bank where
  epc : Word
  cause : BitVec 8
  tval : Word
  vst : BitVec 32
  stat : BitVec 2
deriving DecidableEq, Repr

/-- The control registers below 0x800 that a strand holds (R167), under the manual's names. bs and li hold bs0-bs7 and
li0-li5 by index. -/
structure Csrs where
  vl : BitVec 32
  vstart : BitVec 32
  ew : BitVec 2
  mif : BitVec 3
  rows : BitVec 32
  pitch : Word
  fcsr : Word
  icsr : Word
  bcfg : BitVec 1
  qpct : BitVec 17
  dmap : Word
  spr : Word
  srseed : BitVec 16
  bs : Store 32
  al : BitVec 32
  gvl : BitVec 13
  trim : Word
  ar : BitVec 32
  ac : BitVec 32
  eprog : BitVec 32
  tm : BitVec 32
  tn : BitVec 32
  tk : BitVec 32
  cbytes : Word
  smflag : Word
  li : Store 32
  level : BitVec 2
deriving DecidableEq, Repr

/-- The supervisor registers that a strand holds (R167, R372, R373). pre is status.PRE. -/
structure Sups where
  tlevel : BitVec 2
  tvec : Word
  tframe : Word
  pre : Bool
  bank1 : Bank
  bank2 : Bank
  s1root : Word
  asid : BitVec 16
  qdom : BitVec 8
deriving DecidableEq, Repr

/-- The register files (R152). s: by number. v: byte b of v r at 16384 r + b, bytes in slot order (R155, R157). p: the
4 gvl bits of p n as one word. acc: element (row, column) of acc n at 3072 n + 64 row + column. m: entry (r, c) of m n
in lane l at 288 l + 36 n + 6 r + c. slice: offset o of lane l at 16384 l + o. sigma: by lane. sliceBad: keys of
bytes of poisoned 64-byte groups that nothing has written since (R129). -/
structure Regs where
  s : Store 64
  v : Store 8
  p : Store 16384
  acc : Store 32
  m : Store 64
  slice : Store 8
  sliceBad : List Nat
  sigma : Store 16
deriving DecidableEq, Repr

/-- The open convoy: slots used by class, registers written (R53, R54) and vector registers named (R158). -/
structure Convoy where
  isOpen : Bool
  mem : Nat
  arith : Nat
  cross : Nat
  red : Nat
  mat : Nat
  sm : Nat
  written : List RegId
  named : List Nat
deriving DecidableEq, Repr

/-- The loop nest (R330): first instruction of the body, address after it, counts, and the tlevel it belongs to. -/
structure Nest where
  active : Bool
  start : Word
  stop : Word
  n : Nat
  d : Nat
  counts : List Nat
  level : BitVec 2
deriving DecidableEq, Repr

/-- An event counter (R147): its value and, in mode 1, the value the last EVSET wrote and the signalling commands pushed
since, in push order, with whether each has completed. -/
structure EvCtr where
  val : Word
  mode : Bool
  base : Word
  run : List (Nat × Bool)
deriving DecidableEq, Repr

/-- A stream binding (R115, R116): the register, the record's address and its fields. reads: the sets that the reads of the
consuming instruction under way have taken (R287), if it has read the stream. -/
structure Binding where
  reg : Nat
  addr : Word
  base : Word
  scale : Word
  band : Word
  total : Word
  pos : Word
  rowlen : BitVec 32
  pitch : BitVec 32
  fmt : BitVec 8
  reads : Option Taint
deriving DecidableEq, Repr

/-- A gather window (R93, R119). -/
structure Window where
  w : Nat
  base : Word
  esz : Nat
  idx : List Nat
deriving DecidableEq, Repr

/-- A store of the strand that has not performed (R278, R282): physical address, bytes, the lines it makes whole (R67),
for a store under .u the number of its instruction, whose elements perform in any order (R111), and the sets of its data
and address (R287). -/
structure PendStore where
  pa : Nat
  bytes : List Byte
  cleans : List Nat
  u : Option Nat
  taint : Taint
deriving DecidableEq, Repr

/-- What a waiting strand waits for (R319), with what ending the wait writes. -/
inductive Wait where
  | epop (port vd : Nat)
  | waitev (ev target : Nat)
  | fbar (gen : Nat)
  | cbar
  | mbrecv (mbox vd ticket : Nat)
  | wfe (until_ : Word)
  | push (port : Nat) (cmd : BitVec 1024)
deriving DecidableEq, Repr

/-- The state of a strand (R319, R388). absent: no strand. A wait holds the address after the waiting instruction. -/
inductive Status where
  | absent
  | running
  | waiting (w : Wait) (next : Word)
  | parked
  | preempted (w : Option (Wait × Word))
  | halted (w : Option (Wait × Word))
  | exited
  | killed
deriving DecidableEq, Repr

/-- What a strand has from its kernel table entry and its launch (R405). -/
structure Kern where
  gvl : Nat
  strands : Nat
  scratch : Nat
  slice : Nat
  gen : Nat
deriving DecidableEq, Repr

/-- A strand. uid is the model's number for it. backing: the physical address of its register backing area (R157);
fileDirty: the vector registers written since they were last loaded from it (R158). group names its node's scratch window
on its core (R124, R341). later: the loads every later store waits for (R286). preempt: a pre-emption request; some 0 is
pending, some n becomes pending after n more boundaries. offered: the gtime at which it became offerable (R363). step1: it
is to retire one instruction and halt (R400); stepDone: it has, at the end of a wait. leaving: it has left the issue of its
core and waits to be saved, parked or halted (R150). dying: it is killed, and keeps its core slot until its running commands
have completed: the REASON and the kill record that is written then, no bytes for a sibling (R383). -/
structure Strand where
  uid : Nat
  queue : Nat
  agent : Nat
  vf : Nat
  core : Nat
  slot : Nat
  node : Word
  kern : Kern
  status : Status
  pc : Word
  csr : Csrs
  sup : Sups
  regs : Regs
  ctxDirty : Word
  taint : List (RegId × Taint)
  nextTag : Nat
  outTags : List Nat
  later : Taint
  convoy : Convoy
  nest : Nest
  farm : Word
  ev : List (Nat × EvCtr)
  recs : List (Nat × BitVec 256)
  binds : List Binding
  wins : List Window
  preempt : Option Nat
  buf : List PendStore
  group : Nat
  matUsed : Bool
  smUsed : Bool
  pageTags : List Nat
  ctxArea : Option Nat
  backing : Nat
  fileDirty : Word
  caps : List Word
  offered : Nat
  step1 : Bool
  stepDone : Bool
  leaving : Option (Bool × Bool)
  dying : Option (Nat × List Byte)
deriving DecidableEq, Repr

/-- A translation kept in a core's TLB (R85): the function, address space, page and its size in bits, the frame's
physical address, the address of the leaf's entry, and the leaf's attributes. -/
structure TlbEntry where
  core : Nat
  vf : Nat
  asid : Nat
  page : Nat
  shift : Nat
  phys : Nat
  leaf : Nat
  r : Bool
  w : Bool
  x : Bool
  u : Bool
  g : Bool
  d : Bool
deriving DecidableEq, Repr

/-- A scratch window (R124, R130): the group it belongs to, its core, first physical slot and slot count; its bytes,
tags, the slots written since it was allocated (R150) and, of poisoned 64-byte groups, the bytes that nothing has written
since (R129). live: held on its core now; false while saved, in the context area of the strand saver. -/
structure Scratch where
  group : Nat
  core : Nat
  base : Nat
  slots : Nat
  bytes : Store 8
  tags : List (Nat × Word)
  written : List Nat
  bad : List Nat
  live : Bool
  saver : Nat
deriving DecidableEq, Repr

/-- An agent context (R343): its owner and the physical address of its record. -/
structure Agent where
  vf : Nat
  addr : Nat
deriving DecidableEq, Repr

/-- Whose mailbox it is (R345). -/
inductive MboxOwner where
  | unassigned | agent (n : Nat) | control (q : Nat)
deriving DecidableEq, Repr

/-- A mailbox: its ring, oldest first, of messages with sender words (R345, R346). -/
structure Mbox where
  owner : MboxOwner
  ring : List (BitVec 512 × BitVec 32)
deriving DecidableEq, Repr

/-- A decrement (R361). -/
inductive Decr where
  | done | skip | fail
deriving DecidableEq, Repr

/-- What the walker knows of a node of the active graph that the node record does not hold: the decrements received, the
time it became ready, how often it has run; for a running COMPUTE node its strands, budget count and requeues, and whether
an overrun's pre-emption of its strands is under way; for a
waiting receiver its ticket and mailbox. -/
structure NodeRun where
  node : Nat
  got : List Decr
  readyAt : Nat
  offered : Bool
  strands : List Nat
  ran : Nat
  requeues : Nat
  launched : Bool
  runs : Nat
  overran : Bool
  failedStrand : Bool
  ticket : Nat
  mbox : Nat
deriving DecidableEq, Repr

/-- A queue: its record (R354), its walker's graph (R356) and the queue's context pool and debug mode (R400). offer: its
candidate's kind (0 a strand, 1 a node) and number, and since when it is offered (R364). aborting: an ABORT has ended the
active graph and waits for the running commands of its strands (R362, R383). -/
structure Queue where
  vf : Nat
  agent : Nat
  prio : Nat
  cmbox : Nat
  requeueKill : Bool
  ovrmax : Nat
  pause : Bool
  abort : Bool
  budget : Nat
  mask : BitVec 192
  status : Nat
  active : Bool
  nodes : Nat
  ncount : Nat
  ndone : Nat
  nfail : Nat
  lastfail : Nat
  gstate : Nat
  runs : List NodeRun
  poolBase : Nat
  poolSize : Nat
  poolUsed : Nat
  debug : Bool
  reserved : Bool
  offer : Option (Nat × Nat × Nat)
  aborting : Bool
deriving DecidableEq, Repr

/-- How far an engine command has come (R141, R145). ended: it has done its work, with status, progress and failing
address. held: it has completed, and its record waits for room in its pusher's queue. -/
inductive CmdState where
  | pushed
  | started
  | ended (status progress addr : Nat)
  | held (status progress addr : Nat)
deriving DecidableEq, Repr

/-- An engine command (R138): who pushed it, where, its 32 words, and the context it runs in (R141). id is the
model's push order. drop: its pusher was killed, so its record is discarded (R148). node: the COPY node that pushed it, or
0. gid, seq: its collective group and its number there (R315); limit: the ns its members have to join, or 0 (R312); own:
the message it has sent its group, once it has begun. pushedAt: the time of its push (R317). -/
structure Cmd where
  id : Nat
  uid : Nat
  queue : Nat
  core : Nat
  port : Nat
  words : BitVec 1024
  vf : Nat
  agent : Nat
  asid : BitVec 16
  s1root : Word
  tlevel : BitVec 2
  group : Nat
  slot : Nat
  node : Nat
  gid : Nat
  seq : Nat
  limit : Nat
  state : CmdState
  drop : Bool
  joinedAt : Nat
  own : Option MemberMessage
  pushedAt : Nat
deriving DecidableEq, Repr

/-- A collective group this device takes part in (R315): the next number to give, the device numbers by rank, messages and
aborts heard and sent; pairs: the next number of a SEND or RECV, by kind, peer and tag (log entry 97). -/
structure CollGroup where
  gid : Nat
  next : Nat
  members : List Nat
  heard : List MemberMessage
  aborts : List MemberAbort
  sent : List MemberMessage
  sentAborts : List MemberAbort
  pairs : List (Nat × Nat × Nat × Nat)
deriving DecidableEq, Repr

/-- A resident vector register (R157, R158, R160). -/
structure Resid where
  uid : Nat
  reg : Nat
  last : Nat
  drowsy : Bool
deriving DecidableEq, Repr

/-- A function control page (R397). -/
structure FuncPage where
  msgbuf : List (Nat × Word)
  msgstat : Word
  admbuf : List (Nat × Word)
  admbusy : Bool
  admstat : Nat
  prqbase : Word
  prqtail : Word
  prqhead : Word
  apbase : Word
deriving DecidableEq, Repr

/-- A page request (R88): the function it belongs to, its entry, the strand that asked; for a kill record (R382) its kind,
the virtual address of element k, and the address and vstart of the instruction that met the miss, if one did; and whether
it has entered the ring. -/
structure PageReq where
  vf : Nat
  tag : Nat
  entry : BitVec 128
  uid : Nat
  gpage : Nat
  kind : Nat
  va : Word
  at_ : Option (Word × Nat)
  written : Bool
deriving DecidableEq, Repr

/-- A loaded code object (R408). -/
structure Loaded where
  gen : Nat
  level : Nat
  vf : Nat
  unloading : Bool
deriving DecidableEq, Repr

/-- An unload in progress (R408). -/
structure Unload where
  gen : Nat
  u : Nat
  vf : Nat
  doneAddr : Nat
deriving DecidableEq, Repr

/-- A page under move (R71): frames by number, lines copied so far, and whether the unit has reported completion. -/
structure Mig where
  old : Nat
  new : Nat
  copied : Nat
  reported : Bool
deriving DecidableEq, Repr

/-- A stack's controller (R61 to R63): actlim, times in ns of the activates of the window, requests held, and hints of
requests that met refresh. -/
structure Stack where
  actlim : Nat
  acts : List Nat
  held : Nat
  refreshing : List (Nat × Nat)
  retries : List Nat
deriving DecidableEq, Repr

/-- A link port (R302 to R310); flits are kept as their 256 bytes. replay: by SEQ, oldest first. laneErrs: lane and time
of the failures attributed. repairing: the lane under repair, since repairAt; named: the other end has named it; dropped:
the lane a repair has dropped. lastAck: time of the last progress. ltx, lrx: TTX of the last sync flit received and when.
queue: data flits held back. out: what the port has sent. -/
structure Port where
  up : Bool
  lanes : Nat
  nextSeq : Nat
  replay : List (Nat × List Byte)
  expected : Nat
  asked : Bool
  laneErrs : List (Nat × Nat)
  repairing : Option Nat
  draining : Bool
  repairAt : Nat
  named : Bool
  lastAck : Nat
  dropped : Option Nat
  ltx : Nat
  lrx : Nat
  queue : List (List Byte)
  out : List (List Byte)
  syncDepth : Nat
  syncRoot : Nat
deriving DecidableEq, Repr

/-- The end-to-end state for one other device (R308). To it: the next ESEQ, the ESEQ after the last confirmed, and the
class and payload of flits held back. From it: enext, held flits, deliveries since the last confirm, and the time of the
last. -/
structure Ese where
  dev : Nat
  next : Nat
  confirmed : Nat
  waiting : List (Nat × List Byte)
  enext : Nat
  held : List (Nat × List Byte)
  sinceConfirm : Nat
  lastDelivery : Option Nat
deriving DecidableEq, Repr

/-- The values of a monitor unit (R416, R417). -/
structure MonVals where
  low : Int
  high : Int
  count : Nat
  sum : Int
  bins : List (Nat × Nat)
deriving DecidableEq, Repr

/-- A monitor unit (R416, R417), and the values the last SNAP froze. last: where the unit's count stood at its last
sample. -/
structure Monitor where
  cfg : Word
  param : Word
  now : MonVals
  frozen : MonVals
  last : Nat
deriving DecidableEq, Repr

/-- An event record (R419). -/
structure EventRec where
  source : BitVec 32
  seq : BitVec 32
  gtime : Word
  kind : BitVec 16
  payload : BitVec 112
deriving DecidableEq, Repr

/-- Time synchronisation of the device (R309, R310): the hops from the root, the root, the pending slew 2θ in ns, 2θ
at the last sync, the last usable flit, the flag tsync_lost. -/
structure Sync where
  depth : Nat
  root : Nat
  slew : Int
  twice : Int
  lastUsable : Nat
  lost : Bool
deriving DecidableEq, Repr

/-- Everything of the device that is not a strand. cyc: core clocks since reset (R167). gtime: ns (R309). free: the free
values drawn. hostMem: bytes that the device has written to host memory (R402). unreachable: devices whose last route was
lost (R307). crcErrs, replays: flits that failed their CRC and flits resent, by port (R317). waits: the waits that have ended and that a monitor quantity
counts, oldest first: quantity, instance, ns (R74, R317). phase: the part of a nanosecond, in ninths, that the core clocks
since reset have passed beyond a whole one (R414). dumps: what has been dumped of
failed cores (R420). broughtUp: the steps of the bring-up that have been completed, and sideband: the steps that failed
(R421). due: a scheduling decision is to be taken (R363). rr: for each effective priority the queue that last launched
(R364). limits, floors and clamps of R412 to R415 in mW; ltHr is LTHR (R306). -/
structure Device where
  mem : List Host.Cell
  poison : List Nat
  tlb : List TlbEntry
  scratch : List Scratch
  agents : List (Nat × Agent)
  queues : List (Nat × Queue)
  mboxes : List (Nat × Mbox)
  qOwner : List (Nat × Nat)
  aOwner : List (Nat × Nat)
  mOwner : List (Nat × Nat)
  fOwner : List (Nat × Nat)
  cmds : List Cmd
  groups : List CollGroup
  resid : List Resid
  matOwner : List (Nat × Nat)
  smOwner : List (Nat × Nat)
  elastic : List (Nat × Nat)
  fpages : List (Nat × FuncPage)
  prqs : List PageReq
  s2roots : List (Nat × Nat)
  farwins : List (Nat × Nat × Nat)
  keys : List (Nat × BitVec 256 × BitVec 64)
  nextGen : Nat
  loaded : List Loaded
  unloads : List Unload
  migs : List Mig
  migErr : Bool
  stks : List (Nat × Stack)
  scrubbed : List (Nat × Nat)
  hbmCorr : List (Nat × Nat)
  hbmPoison : List (Nat × Nat)
  ports : List (Nat × Port)
  eses : List Ese
  routes : List (Nat × Nat)
  devId : Nat
  linkProto : List (Nat × Nat)
  linkLost : Nat
  unreachable : List Nat
  crcErrs : List (Nat × Nat)
  replays : List (Nat × Nat)
  waits : List (Nat × Nat × Nat)
  ltHr : Nat
  sync : Sync
  coreGrant : List (Nat × Nat)
  stackGrant : List (Nat × Nat)
  portGrant : List (Nat × Nat)
  redivided : Bool
  clamped : List Nat
  monitors : List (Nat × Monitor)
  events : List EventRec
  evSeq : List (Nat × Nat)
  msix : List (Nat × Nat)
  failed : List Nat
  dumps : List (Nat × Nat × List Byte)
  spdm : List Byte
  bar2 : List (Nat × List Byte)
  hostMem : Store 8
  hostUp : Bool
  broughtUp : Nat
  sideband : List Nat
  resets : Nat
  cyc : Word
  gtime : Word
  phase : Nat
  free : Nat
  nextUid : Nat
  nextCmd : Nat
  nextTicket : Nat
  nextGroup : Nat
  nextPrTag : Nat
  nextUGroup : Nat
  rr : List (Nat × Nat)
  due : Bool
deriving DecidableEq, Repr

/-- What happens to the device beside the rows of the opcode table (log entry 88): an access finds an error in a line, or
a pool reports its poison (R66 to R68); an uncorrectable error strikes a scratchpad byte of a group's window, a slice byte,
or a dirty line (R129, R384); a stack activates a row (R61); another device writes a byte of its own memory that this one can
reach (R289); and management sets a monitor register (R416), LTHR (R306),
the device's identifier and its routes (R302, R421), or the time at bring-up (R309). -/
inductive Happening where
  | lineError (line : Nat) (finding : ScrubFinding)
  | poolPoison (line : Nat)
  | dirtyLineError (line : Nat)
  | scratchError (group at_ : Nat)
  | sliceError (uid lane at_ : Nat)
  | activate (stack : Nat)
  | remoteWrite (pa : Nat) (value : Byte)
  | monitorWrite (number : Nat) (value : Word)
  | laneThreshold (n : Nat)
  | identify (dev : Nat) (routes : List (Nat × Nat))
  | bringTime (root : Nat) (time : Word)
deriving DecidableEq, Repr

/-- Who moves next (log entry 1): an event of the outside world or of a unit of the device happens, or the strand of a
number has the turn. -/
inductive Turn where
  | event (e : Instr)
  | happens (h : Happening)
  | strand (uid : Nat)
deriving DecidableEq, Repr

/-- The machine. cur is the strand whose turn it is; agenda: what moves next, in order; where it is empty, cur moves. -/
structure State where
  cur : Strand
  others : List Strand
  dev : Device
  agenda : List Turn
deriving DecidableEq, Repr

/-- Why a step stops. The manual stops the machine nowhere: every stop of it is a next state. -/
inductive Fault where
  /-- Raised by no meaning (log entry 14): kept so that the type is not empty. Safe. -/
  | unreachable
deriving DecidableEq, Repr

/-- Why a step has no meaning. -/
inductive Refusal where
  /-- An instruction of the opcode table that has no meaning yet. Raised by an arm of exec only. Safe. -/
  | notModelled (mnemonic : String)
deriving DecidableEq, Repr

/-! ### Reset -/

def Taint.empty : Taint := ⟨[], 0⟩

def Bank.reset : Bank := ⟨0, 0, 0, 0, 0⟩

/-- Every control register at its value in R167; gvl and level, which a grant and the loader set, as log entry 3 says. -/
def Csrs.reset : Csrs :=
  { vl := 0, vstart := 0, ew := 2, mif := 0, rows := 0, pitch := 0, fcsr := 0, icsr := 0, bcfg := 0, qpct := 65536,
    dmap := 0, spr := 0, srseed := 0, bs := [], al := 0, gvl := 256, trim := 0, ar := 0, ac := 0, eprog := 0, tm := 0,
    tn := 0, tk := 0, cbytes := 0, smflag := 0, li := [], level := 2 }

/-- The trap registers at their values in R372 and R373; those the agent record gives at launch as log entry 3 says. -/
def Sups.reset : Sups :=
  { tlevel := 0, tvec := 0, tframe := 0, pre := false, bank1 := .reset, bank2 := .reset, s1root := 0, asid := 0,
    qdom := 0 }

/-- The stochastic rounding state of lane l under a seed (R181). -/
def sigmaSeed (seed : BitVec 16) (l : Nat) : BitVec 16 :=
  let x := seed ^^^ BitVec.ofNat 16 (0x0101 * l)
  if x = 0 then 0xFFFF else x

/-- All sixty-four states under a seed. -/
def sigmaAll (seed : BitVec 16) : Store 16 := (List.range 64).map fun l => (l, sigmaSeed seed l)

def Regs.reset : Regs :=
  { s := [], v := [], p := [], acc := [], m := [], slice := [], sliceBad := [], sigma := sigmaAll 0 }

def Convoy.closed : Convoy := ⟨false, 0, 0, 0, 0, 0, 0, [], []⟩

def Nest.none : Nest := ⟨false, 0, 0, 0, 0, [], 0⟩

/-- A strand with every register at its value at launch (R167, R318) and no identity. -/
def Strand.reset : Strand :=
  { uid := 0, queue := 0, agent := 0, vf := 0, core := 0, slot := 0, node := 0, kern := ⟨256, 1, 0, 0, 0⟩,
    status := .absent, pc := 0, csr := .reset, sup := .reset, regs := .reset, ctxDirty := 0, taint := [],
    nextTag := 0, outTags := [], later := .empty, convoy := .closed, nest := .none, farm := 0, ev := [], recs := [],
    binds := [], wins := [], preempt := Option.none, buf := [], group := 0, matUsed := false, smUsed := false,
    pageTags := [], ctxArea := Option.none, backing := 0, fileDirty := 0, caps := [], offered := 0, step1 := false,
    stepDone := false, leaving := Option.none, dying := Option.none }

/-- The device after the bring-up of R421: every queue, agent and mailbox belongs to the physical function, no line is
poisoned, every actlim is 4096 (R62), every port is up on eight lanes (log entry 5). Lists are sparse: an object not
listed holds its reset value. -/
def Device.reset : Device :=
  { mem := [], poison := [], tlb := [], scratch := [], agents := [], queues := [], mboxes := [], qOwner := [],
    aOwner := [], mOwner := [], fOwner := [], cmds := [], groups := [], resid := [], matOwner := [], smOwner := [],
    elastic := [], fpages := [], prqs := [], s2roots := [], farwins := [], keys := [], nextGen := 1, loaded := [],
    unloads := [], migs := [], migErr := false, stks := [], scrubbed := [], hbmCorr := [], hbmPoison := [], ports := [],
    eses := [], routes := [], devId := 0, linkProto := [], linkLost := 0, unreachable := [], crcErrs := [], replays := [],
    waits := [], ltHr := 8, sync := ⟨0xFFFF, 0, 0, 0, 0, true⟩, coreGrant := [],
    stackGrant := [], portGrant := [], redivided := false, clamped := [], monitors := [], events := [], evSeq := [],
    msix := [], failed := [], dumps := [], spdm := [], bar2 := [], hostMem := [], hostUp := true,
    broughtUp := 6, sideband := [], resets := 0, cyc := 0, gtime := 0,
    phase := 0, free := 0, nextUid := 1, nextCmd := 0, nextTicket := 0, nextGroup := 1, nextPrTag := 0, nextUGroup := 0, rr := [],
    due := false }

/-- The machine right after reset: no strand exists. -/
def State.reset : State := { cur := .reset, others := [], dev := .reset, agenda := [] }

end Sys2Proof.Machine
end

