-- ==== Sys2Proof/Machine/Store.lean ====
section
/-! DEFINITION. Operations of sparse tables: lists of (key, value), keys rising, no value equal to the default. -/

namespace Sys2Proof.Machine

/-- The value at a key; the default where the table lists none. -/
def Tab.get {α : Type} (d : α) : List (Nat × α) → Nat → α
  | [], _ => d
  | (k, v) :: t, q => if k = q then v else Tab.get d t q

/-- Drop a key. -/
def Tab.erase {α : Type} : List (Nat × α) → Nat → List (Nat × α)
  | [], _ => []
  | (k, v) :: t, q => if k = q then Tab.erase t q else (k, v) :: Tab.erase t q

/-- Put an entry before the first larger key. -/
def Tab.insert {α : Type} : List (Nat × α) → Nat → α → List (Nat × α)
  | [], q, x => [(q, x)]
  | (k, v) :: t, q, x => if q < k then (q, x) :: (k, v) :: t else (k, v) :: Tab.insert t q x

/-- Set the value at a key; the default value removes the entry, which keeps the form canonical. -/
def Tab.set {α : Type} [DecidableEq α] (d : α) (l : List (Nat × α)) (q : Nat) (x : α) : List (Nat × α) :=
  if x = d then Tab.erase l q else Tab.insert (Tab.erase l q) q x

/-- Keys strictly rising. -/
def Tab.rising {α : Type} : List (Nat × α) → Bool
  | [] => true
  | (k, _) :: t => t.all (fun e => decide (k < e.1)) && Tab.rising t

/-- The canonical form: keys strictly rising, no entry equal to the default. -/
def Tab.wf {α : Type} [DecidableEq α] (d : α) (l : List (Nat × α)) : Bool :=
  Tab.rising l && l.all (fun e => decide (e.2 ≠ d))

abbrev Store.get {w : Nat} (l : Store w) (k : Nat) : BitVec w := Tab.get 0 l k
abbrev Store.set {w : Nat} (l : Store w) (k : Nat) (x : BitVec w) : Store w := Tab.set 0 l k x
abbrev Store.wf {w : Nat} (l : Store w) : Bool := Tab.wf 0 l

/-- Count n more, or one more, at a key. -/
def countBy (l : List (Nat × Nat)) (k n : Nat) : List (Nat × Nat) := Tab.set 0 l k (Tab.get 0 l k + n)
def countUp (l : List (Nat × Nat)) (k : Nat) : List (Nat × Nat) := countBy l k 1

/-- n consecutive bytes, little-endian, from key k. -/
def Store.getLE (l : Store 8) (k : Nat) : Nat → Nat
  | 0 => 0
  | n + 1 => (l.get k).toNat + 256 * Store.getLE l (k + 1) n

/-- Write the low n bytes of x, little-endian, at key k. -/
def Store.setLE (l : Store 8) (k : Nat) : Nat → Nat → Store 8
  | 0, _ => l
  | n + 1, x => Store.setLE (l.set k (BitVec.ofNat 8 x)) (k + 1) n (x / 256)

/-- The canonical form of memory. -/
abbrev Memory.wf (m : List Host.Cell) : Bool := Tab.wf (0 : BitVec 8) m

end Sys2Proof.Machine
end

