-- ==== Sys2Proof/Machine/Mem.lean ====
section
/-! DEFINITION. Main memory and address translation: the physical space (R26, R57, R69), poison (R67), pages under move
(R72), the walks of both stages (R75 to R95) with demand-zero pages (R91), and accesses by virtual address. All of it
acts on the device alone; a strand's own unperformed stores are in Ops. -/

namespace Sys2Proof.Machine

/-- The causes of R371. -/
inductive Cause where
  | none | ill | illRsv | illLevel | illConvoy | illBlock | priv | tfLoad | tfStore | tfExec | tpLoad | tpStore | tpExec
  | quota | align | fpInv | fpDz | fpOvf | fpUnf | fpInx | intDz | smSing | winRange | preempt | poison | blockBudget
  | streamEnd | trap | brk | kill
deriving DecidableEq, Repr

/-- The codes of R371. -/
abbrev causeCode : Cause → Nat
  | .none => 0x00 | .ill => 0x01 | .illRsv => 0x02 | .illLevel => 0x03 | .illConvoy => 0x04 | .illBlock => 0x05
  | .priv => 0x06 | .tfLoad => 0x08 | .tfStore => 0x09 | .tfExec => 0x0A | .tpLoad => 0x0B | .tpStore => 0x0C
  | .tpExec => 0x0D | .quota => 0x0E | .align => 0x0F | .fpInv => 0x10 | .fpDz => 0x11 | .fpOvf => 0x12
  | .fpUnf => 0x13 | .fpInx => 0x14 | .intDz => 0x15 | .smSing => 0x16 | .winRange => 0x17 | .preempt => 0x18
  | .poison => 0x19 | .blockBudget => 0x1A | .streamEnd => 0x1B | .trap => 0x20 | .brk => 0x21 | .kill => 0x3F

/-- Why an access or an element stops. s2: a stage-2 miss (R84), with the translation cause of the access, the KIND,
guest page and PERM of a page request (R88), and the virtual address. before: a pre-emption is taken before the
instruction (R172). lost: a register swap-in has read poison, which kills the context (R384). -/
inductive Stop where
  | cause (c : Cause) (tval : Word)
  | s2 (c : Cause) (kind gpage : Nat) (perm : Bool) (va : Word)
  | before
  | lost
deriving DecidableEq, Repr

/-- Kinds of access (R79). loader: a write of LOAD, at supervisor privilege with W ignored (R407). -/
inductive Acc where
  | load | store | atomic | fetch | loader
deriving DecidableEq, Repr

abbrev Acc.tf : Acc → Cause
  | .load => .tfLoad
  | .fetch => .tfExec
  | _ => .tfStore

abbrev Acc.tp : Acc → Cause
  | .load => .tpLoad
  | .fetch => .tpExec
  | _ => .tpStore

/-- KIND of R88. -/
def Acc.kind : Acc → Nat
  | .load => 0
  | .fetch => 2
  | _ => 1

/-- A step of the device that answers a value or a stop; what it changed stays changed (R80, R91). -/
abbrev DevM (α : Type) := EStateM Stop Device α

namespace DevM

def stop {α : Type} (e : Stop) : DevM α := fun d => .error e d

/-- The answer, or none where the step stops. -/
def attempt {α : Type} (m : DevM α) : DevM (Option α) := fun d =>
  match m d with
  | .ok x d' => .ok (some x) d'
  | .error _ d' => .ok none d'

/-- What the step leaves of the device, and its answer if it has one. -/
def on {α : Type} (m : DevM α) (d : Device) : Option α × Device :=
  match m d with
  | .ok x d' => (some x, d')
  | .error _ d' => (none, d')

end DevM

/-! ### The physical space -/

/-- HBM, or inside a far window (R26, R69). -/
def Device.backed (d : Device) (pa : Nat) : Bool :=
  decide (pa < 0xC000000000) || d.farwins.any fun (_, b, n) => decide (b ≤ pa) && decide (pa < b + n)

/-- The current copy of a byte of a page under move (R72). -/
def Device.resolve (d : Device) (pa : Nat) : Nat :=
  match d.migs.find? fun m => m.old == pa / 4096 || m.new == pa / 4096 with
  | some m => (if pa % 4096 / 64 < m.copied then m.new else m.old) * 4096 + pa % 4096
  | none => pa

def Device.readByte (d : Device) (pa : Nat) : Byte := Store.get d.mem (d.resolve pa)

def Device.writeByte (d : Device) (pa : Nat) (x : Byte) : Device :=
  { d with mem := Store.set d.mem (d.resolve pa) x }

/-- n bytes from pa, little-endian. -/
def Device.readLE (d : Device) (pa : Nat) : Nat → Nat
  | 0 => 0
  | n + 1 => (d.readByte pa).toNat + 256 * d.readLE (pa + 1) n

def Device.writeBytes (d : Device) (pa : Nat) : List Byte → Device
  | [] => d
  | b :: bs => (d.writeByte pa b).writeBytes (pa + 1) bs

/-- The low n bytes of x, lowest first. -/
def bytesLE : Nat → Nat → List Byte
  | 0, _ => []
  | n + 1, x => BitVec.ofNat 8 x :: bytesLE n (x / 256)

def natLE : List Byte → Nat
  | [] => 0
  | b :: bs => b.toNat + 256 * natLE bs

def Device.writeLE (d : Device) (pa n x : Nat) : Device := d.writeBytes pa (bytesLE n x)

/-- Does an address reach the memory of a device that no route reaches any more (R307, log entry 110)? -/
def Device.remoteLost (d : Device) (pa : Nat) : Bool :=
  !d.backed pa && d.unreachable.any fun k => Config.remoteHome pa == some k

/-- Is the line of a byte poisoned (R67), or its device lost (R307)? -/
def Device.poisoned (d : Device) (pa : Nat) : Bool := d.poison.contains (d.resolve pa / 64) || d.remoteLost pa

def insertSorted (l : List Nat) (k : Nat) : List Nat :=
  match l with
  | [] => [k]
  | x :: xs => if k < x then k :: x :: xs else if k = x then x :: xs else x :: insertSorted xs k

def Device.setPoison (d : Device) (line : Nat) (on : Bool) : Device :=
  { d with poison := if on then insertSorted d.poison line else d.poison.filter (· != line) }

/-- Whole-line writes clean the current copies of their lines (R67, R68, R72). -/
def Device.cleanLines (d : Device) (lines : List Nat) : Device :=
  let ls := lines.map fun l => d.resolve (64 * l) / 64
  { d with poison := d.poison.filter fun l => !(ls.contains l) }

/-- The lines whose 64 bytes a list of written addresses covers. -/
def wholeLines (addrs : List Nat) : List Nat :=
  ((addrs.map (· / 64)).eraseDups).filter fun l => (List.range 64).all fun k => addrs.contains (64 * l + k)

/-! ### Ranges of physical memory -/

/-- Does a page of the range stand in a move? -/
def Device.movesIn (d : Device) (pa n : Nat) : Bool :=
  d.migs.any fun m => [m.old, m.new].any fun f => decide (4096 * f < pa + n) && decide (pa < 4096 * f + 4096)

/-- The nonzero bytes of a range: offset and byte, offsets rising. -/
def Device.cellsIn (d : Device) (pa n : Nat) : Store 8 :=
  if d.movesIn pa n then
    (List.range n).filterMap fun k => if d.readByte (pa + k) == 0 then none else some (k, d.readByte (pa + k))
  else (d.mem.filter fun c => decide (pa ≤ c.1) && decide (c.1 < pa + n)).map fun c => (c.1 - pa, c.2)

/-- Zero a range of whole lines; they become clean (R67). -/
def Device.clearRange (d : Device) (pa n : Nat) : Device :=
  if d.movesIn pa n then (d.writeBytes pa (List.replicate n 0)).cleanLines ((List.range (n / 64)).map (pa / 64 + ·))
  else { d with mem := d.mem.filter fun c => !(decide (pa ≤ c.1) && decide (c.1 < pa + n))
                poison := d.poison.filter fun l => !(decide (pa ≤ 64 * l) && decide (64 * l < pa + n)) }

/-- Is a line of a range poisoned? -/
def Device.poisonIn (d : Device) (pa n : Nat) : Bool :=
  if d.movesIn pa n then (List.range ((n + 63) / 64)).any fun k => d.poisoned (pa + 64 * k)
  else d.poison.any fun l => decide (pa < 64 * l + 64) && decide (64 * l < pa + n)

/-! ### Page table entries (R77, R78) -/

structure Pte where
  raw : Nat
deriving DecidableEq, Repr

abbrev Pte.bitAt (e : Pte) (n : Nat) : Bool := e.raw / 2 ^ n % 2 == 1
abbrev Pte.v (e : Pte) : Bool := e.bitAt 0
abbrev Pte.r (e : Pte) : Bool := e.bitAt 1
abbrev Pte.w (e : Pte) : Bool := e.bitAt 2
abbrev Pte.x (e : Pte) : Bool := e.bitAt 3
abbrev Pte.u (e : Pte) : Bool := e.bitAt 4
abbrev Pte.a (e : Pte) : Bool := e.bitAt 5
abbrev Pte.d (e : Pte) : Bool := e.bitAt 6
abbrev Pte.g (e : Pte) : Bool := e.bitAt 7
abbrev Pte.c (e : Pte) : Bool := e.bitAt 8
abbrev Pte.z (e : Pte) : Bool := e.bitAt 10
abbrev Pte.frame (e : Pte) : Nat := e.raw / 4096 % 2 ^ 40
abbrev Pte.qdom (e : Pte) : Nat := e.raw / 2 ^ 52 % 256

/-- Reserved bits: [63:60] and [11]; for stage 2 also [59:52]. -/
def Pte.reserved (e : Pte) (stage2 : Bool) : Bool :=
  e.raw / 2 ^ 60 != 0 || e.bitAt 11 || (stage2 && e.raw / 2 ^ 52 % 256 != 0)

inductive PteClass where
  | demandZero | pointer | leaf | bad
deriving DecidableEq, Repr

/-- R78; stage 2 has no demand-zero class (R84). -/
def Pte.classify (e : Pte) (lvl : Nat) (stage2 : Bool) : PteClass :=
  let any := e.r || e.w || e.x
  if !e.v then
    if e.z && !stage2 && lvl == 0 && !e.c && !e.reserved false && any && !(e.w && !e.r) then .demandZero else .bad
  else if e.reserved stage2 || (e.w && !e.r) then .bad
  else if e.z && (lvl != 0 || e.c) then .bad
  else if !any then (if lvl == 0 then .bad else .pointer)
  else if lvl == 3 then .bad
  else if lvl != 0 && e.frame % 2 ^ (9 * lvl) != 0 then .bad
  else .leaf

/-- The physical address a leaf gives (R81, R83), and the size in bits it maps. -/
def Pte.phys (e : Pte) (lvl va : Nat) : Nat × Nat :=
  if lvl == 0 && e.c then ((e.frame / 16 * 16) * 4096 + va % 65536, 16)
  else (e.frame * 4096 + va % 2 ^ (12 + 9 * lvl), 12 + 9 * lvl)

/-! ### Stage 2 (R84) -/

/-- What a stage-2 walk is for: the access's own cause, KIND and address, or a table walk (KIND 3). -/
structure S2Why where
  cause : Cause
  kind : Nat
  va : Word
deriving DecidableEq, Repr

/-- One level of the stage-2 walk of a guest physical address, over a table; a leaf sets A, and D where dirty, for a write that
commits (R80). next: the walk of the table below. DESIGN CHOICE (log entry 101): bits 48 and up of the address index no
table. -/
def s2step (why : S2Why) (gpa : Nat) (rd wr ex dirty : Bool) (lvl table : Nat) (next : Nat → DevM Nat) : DevM Nat := do
  let ea := table + 8 * (gpa / 2 ^ (12 + 9 * lvl) % 512)
  let miss := fun perm => DevM.stop (.s2 why.cause why.kind (gpa / 4096) perm why.va)
  let d ← get
  if !d.backed ea then miss false
  else if d.poisoned ea then DevM.stop (.cause .poison why.va)
  else
    let e : Pte := ⟨d.readLE ea 8⟩
    match e.classify lvl true with
    | .pointer => next (e.frame * 4096)
    | .leaf =>
      if (rd && !e.r) || (wr && !e.w) || (ex && !e.x) then miss true
      else do
        let raw := e.raw ||| 0x20 ||| (if dirty then 0x40 else 0)
        set (if raw == e.raw then d else d.writeLE ea 8 raw)
        return (e.phys lvl gpa).1
    | _ => miss false

/-- The walk from a level's table; an entry of level 0 is no pointer (R78). -/
def s2walk (why : S2Why) (gpa : Nat) (rd wr ex dirty : Bool) : Nat → Nat → DevM Nat
  | 0, table => s2step why gpa rd wr ex dirty 0 table fun _ => DevM.stop (.s2 why.cause why.kind (gpa / 4096) false why.va)
  | l + 1, table => s2step why gpa rd wr ex dirty (l + 1) table (s2walk why gpa rd wr ex dirty l)

/-- A guest physical address made physical: the identity for function 0, the stage-2 table for another; a function
without a root misses (R84, R399). -/
def guestPhys (vf : Nat) (why : S2Why) (gpa : Nat) (rd wr ex dirty : Bool) : DevM Nat := do
  if vf == 0 then return gpa
  else
    let d ← get
    match d.s2roots.find? (·.1 == vf) with
    | none => DevM.stop (.s2 why.cause why.kind (gpa / 4096) false why.va)
    | some (_, root) => s2walk why gpa rd wr ex dirty 3 (root * 4096)

/-! ### Demand-zero pages (R89 to R92) -/

/-- A created agent of a function (R89). -/
def Device.agentOf (d : Device) (n vf : Nat) : Option Agent :=
  match d.agents.find? (·.1 == n) with
  | some (_, a) => if a.vf == vf then some a else none
  | none => none

/-- DemandZero (R91): the installed entry. gea, ea: the entry's guest and physical address. The write of the entry is
checked by stage 2 before anything is taken (R84). The descriptor, the array and the domain record are read and written
whether or not they are backed or poisoned (log entry 79). DESIGN CHOICE (log entry 107): the domain charged is the entry's,
also for a command whose pusher has another. -/
def demandZero (vf : Nat) (acc : Acc) (va : Word) (gea ea : Nat) (e : Pte) : DevM Pte := do
  let why : S2Why := ⟨acc.tf, 3, va⟩
  let d ← get
  match d.agentOf e.qdom vf with
  | none => DevM.stop (.cause acc.tf va)
  | some ag =>
    let used := d.readLE (ag.addr + 0x24) 4
    if used ≥ d.readLE (ag.addr + 0x20) 4 then DevM.stop (.cause .quota va)
    else do
      let pool ← guestPhys vf why (d.readLE (ag.addr + 0x28) 8 / 16 % 2 ^ 48 * 16) true true false true
      let d ← get
      let count := d.readLE pool 4
      if count == 0 then DevM.stop (.cause acc.tf va)
      else do
        let slot ← guestPhys vf why (d.readLE (pool + 8) 8 + 8 * (count - 1)) true false false false
        let _ ← guestPhys vf why gea true true false true
        let d ← get
        let f := d.readLE slot 8 / 4096 % 2 ^ 40
        let raw := e.raw % 4096 ||| 0x21 ||| (f * 4096) ||| (e.raw / 2 ^ 52 * 2 ^ 52)
        set (((d.writeLE pool 4 (count - 1)).writeLE (ag.addr + 0x24) 4 (used + 1)).writeLE ea 8 raw)
        return ⟨raw⟩

/-! ### The walk (R83) and the TLB (R85) -/

/-- A translation context (R76, R141): function, address space, root and privilege, and whose TLB it uses. -/
structure Ctx where
  core : Nat
  vf : Nat
  asid : Nat
  root : Nat
  super : Bool
deriving DecidableEq, Repr

/-- Does a leaf grant the access (R79)? -/
def grants (acc : Acc) (super r w x u : Bool) : Bool :=
  (match acc with
    | .load => r
    | .store => w
    | .atomic => r && w
    | .fetch => x && !(super && u)
    | .loader => true) && (super || u)

/-- The translation of a walk: physical address, page size in bits, the entry's address, and the entry as it stands. -/
structure Walked where
  phys : Nat
  shift : Nat
  leaf : Nat
  e : Pte
deriving DecidableEq, Repr

/-- A leaf that the walk has found: its rights, and A and D (R79, R80). gea, ea: its guest and physical address. -/
def walkLeaf (c : Ctx) (acc : Acc) (setD : Bool) (va : Word) (lvl gea ea : Nat) (e : Pte) : DevM Walked := do
  if !grants acc c.super e.r e.w e.x e.u then DevM.stop (.cause acc.tp va)
  else
    let raw := e.raw ||| 0x20 ||| (if setD then 0x40 else 0)
    let pa := e.phys lvl va.toNat
    if raw == e.raw then return ⟨pa.1, pa.2, gea, e⟩
    else do
      let _ ← guestPhys c.vf ⟨acc.tf, 3, va⟩ gea true true false true
      modify fun d => d.writeLE ea 8 raw
      return ⟨pa.1, pa.2, gea, ⟨raw⟩⟩

/-- One level of Walk1 and the nested walk (R83, R84), over a table. setD: the access is a store that commits (R80). next:
the walk of the table below. -/
def walkStep (c : Ctx) (acc : Acc) (setD : Bool) (va : Word) (lvl table : Nat) (next : Nat → DevM Walked) :
    DevM Walked := do
  let gea := table + 8 * (va.toNat / 2 ^ (12 + 9 * lvl) % 512)
  let ea ← guestPhys c.vf ⟨acc.tf, 3, va⟩ gea true false false false
  let d ← get
  if !d.backed ea then DevM.stop (.cause acc.tf va)
  else if d.poisoned ea then DevM.stop (.cause .poison va)
  else
    let e : Pte := ⟨d.readLE ea 8⟩
    match e.classify lvl false with
    | .demandZero => do
      let e' ← demandZero c.vf acc va gea ea e
      walkLeaf c acc setD va lvl gea ea e'
    | .pointer => next (e.frame * 4096)
    | .leaf => walkLeaf c acc setD va lvl gea ea e
    | .bad => DevM.stop (.cause acc.tf va)

/-- The walk from a level's table; an entry of level 0 is no pointer (R78). -/
def walkFrom (c : Ctx) (acc : Acc) (setD : Bool) (va : Word) : Nat → Nat → DevM Walked
  | 0, table => walkStep c acc setD va 0 table fun _ => DevM.stop (.cause acc.tf va)
  | l + 1, table => walkStep c acc setD va (l + 1) table (walkFrom c acc setD va l)

/-- The TLB entry that covers an address (R85). -/
def Device.tlbHit (d : Device) (c : Ctx) (va : Nat) : Option TlbEntry :=
  d.tlb.find? fun t => t.core == c.core && t.vf == c.vf && (t.g || t.asid == c.asid) && va / 2 ^ t.shift == t.page

/-- Keep a translation in the TLB, in place of one of the same page; that of a contiguous group also in place of those of
its pages (R81). -/
def Device.tlbKeep (d : Device) (t : TlbEntry) : Device :=
  let same := fun (o : TlbEntry) => (o.page == t.page && o.shift == t.shift) ||
    (t.shift == 16 && o.shift == 12 && o.page / 16 == t.page)
  { d with tlb := t :: d.tlb.filter fun o => !(o.core == t.core && o.vf == t.vf && o.asid == t.asid && same o) }

/-- D is set in the entry that a cached group of sixteen came from (R80, R81), if it is still a leaf; the group keeps its
translation. -/
def groupDirty (c : Ctx) (acc : Acc) (va : Word) (t : TlbEntry) : DevM Unit := do
  let ea ← guestPhys c.vf ⟨acc.tf, 3, va⟩ t.leaf true true false true
  modify fun d =>
    let e : Pte := ⟨d.readLE ea 8⟩
    (if e.classify 0 false == .leaf then d.writeLE ea 8 (e.raw ||| 0x60) else d).tlbKeep { t with d := true }

/-- The physical address a leaf gives, made physical through stage 2 and checked to exist, here or at another device (R26,
R84, log entry 110). -/
def finish (c : Ctx) (acc : Acc) (setD : Bool) (va : Word) (gpa : Nat) : DevM Nat := do
  let pa ← guestPhys c.vf ⟨acc.tf, acc.kind, va⟩ gpa (acc == .load || acc == .atomic)
    (acc == .store || acc == .atomic || acc == .loader) (acc == .fetch) setD
  let d ← get
  if d.backed pa || (Config.remoteHome pa).isSome then return pa else DevM.stop (.cause acc.tp va)

/-- Walk the tables, keep the leaf, and finish. -/
def walk (c : Ctx) (acc : Acc) (setD : Bool) (va : Word) : DevM Nat := do
  let a := va.toNat
  let wk ← walkFrom c acc setD va 3 (c.root * 4096)
  modify (·.tlbKeep ⟨c.core, c.vf, c.asid, a / 2 ^ wk.shift, wk.shift, wk.phys - a % 2 ^ wk.shift, wk.leaf, wk.e.r, wk.e.w,
    wk.e.x, wk.e.u, wk.e.g, wk.e.d⟩)
  finish c acc setD va wk.phys

/-- One translation (R75 to R93 but for the windows): the physical address, or a stop. A leaf found is kept in the TLB and
used until an invalidation removes it (log entry 8). setD: a store that commits. -/
def translateOnce (c : Ctx) (acc : Acc) (setD : Bool) (va : Word) : DevM Nat := do
  let a := va.toNat
  if a ≥ 2 ^ 48 then DevM.stop (.cause acc.tf va)
  else if 0x7F0000000000 ≤ a && a < 0x7F1000000000 then DevM.stop (.cause acc.tf va)
  else
    let d ← get
    match d.tlbHit c a with
    | some t =>
      if !grants acc c.super t.r t.w t.x t.u then DevM.stop (.cause acc.tp va)
      else if setD && !t.d && t.shift != 16 then walk c acc setD va
      else do
        if setD && !t.d then groupDirty c acc va t else pure ()
        finish c acc setD va (t.phys + a % 2 ^ t.shift)
    | none => walk c acc setD va

/-- Translate an access. D is set for a store that commits, so only once the access is known to meet no stop (R80). -/
def translate (c : Ctx) (acc : Acc) (setD : Bool) (va : Word) : DevM Nat := do
  let pa ← translateOnce c acc false va
  if setD then translateOnce c acc true va else return pa

/-! ### Accesses by virtual address of agents that have no store buffer -/

/-- Read n bytes; POISON where a line is poisoned. Each byte's page is translated. -/
def vread (c : Ctx) (va : Word) : Nat → DevM (List Byte)
  | 0 => pure []
  | n + 1 => do
    let pa ← translate c .load false va
    let d ← get
    if d.poisoned pa then DevM.stop (.cause .poison va)
    else do
      let bs ← vread c (va + 1) n
      return d.readByte pa :: bs

/-- Check a write of the given length, byte by byte, without writing: the physical addresses. setD: it commits. -/
def vcheckW (c : Ctx) (setD : Bool) (va : Word) : Nat → DevM (List Nat)
  | 0 => pure []
  | n + 1 => do
    let pa ← translate c .store setD va
    let ps ← vcheckW c setD (va + 1) n
    return pa :: ps

/-- Write bytes at physical addresses; lines made whole are clean. What goes to a lost device is dropped and counted
(R307). -/
def Device.scatter (d : Device) (ps : List Nat) (bs : List Byte) : Device :=
  let d := if ps.any d.remoteLost then { d with linkLost := d.linkLost + 1 } else d
  ((ps.zip bs).foldl (fun d (pa, b) => if d.remoteLost pa then d else d.writeByte pa b) d).cleanLines (wholeLines ps)

/-- Write bytes: nothing is written if some byte stops. -/
def vwrite (c : Ctx) (va : Word) (bs : List Byte) : DevM Unit := do
  let _ ← vcheckW c false va bs.length
  let ps ← vcheckW c true va bs.length
  modify fun d => d.scatter ps bs

def vreadNat (c : Ctx) (va : Word) (n : Nat) : DevM Nat := do
  let bs ← vread c va n
  return natLE bs

def vwriteNat (c : Ctx) (va : Word) (n x : Nat) : DevM Unit := vwrite c va (bytesLE n x)

/-! ### Accesses by the guest physical addresses that a function supplies (R399) -/

def gpread (vf gpa : Nat) : Nat → DevM (List Byte)
  | 0 => pure []
  | n + 1 => do
    let pa ← guestPhys vf ⟨.tfLoad, 0, 0⟩ gpa true false false false
    let d ← get
    if !d.backed pa then DevM.stop (.cause .tpLoad 0)
    else if d.poisoned pa then DevM.stop (.cause .poison 0)
    else do
      let bs ← gpread vf (gpa + 1) n
      return d.readByte pa :: bs

def gpcheckW (vf : Nat) (setD : Bool) (gpa : Nat) : Nat → DevM (List Nat)
  | 0 => pure []
  | n + 1 => do
    let pa ← guestPhys vf ⟨.tfStore, 1, 0⟩ gpa false true false setD
    let d ← get
    if !d.backed pa then DevM.stop (.cause .tpStore 0)
    else do
      let ps ← gpcheckW vf setD (gpa + 1) n
      return pa :: ps

def gpwrite (vf gpa : Nat) (bs : List Byte) : DevM Unit := do
  let _ ← gpcheckW vf false gpa bs.length
  let ps ← gpcheckW vf true gpa bs.length
  modify fun d => d.scatter ps bs

/-! ### Invalidation (R94) -/

/-- Remove the TLB entries that a predicate names, on one core or on all. -/
def Device.tlbDrop (d : Device) (core : Option Nat) (p : TlbEntry → Bool) : Device :=
  { d with tlb := d.tlb.filter fun t =>
      !((match core with
          | some c => t.core == c
          | none => true) && p t) }

end Sys2Proof.Machine
end

