-- ==== Sys2Proof/Machine/Crypto.lean ====
section
/-! DEFINITION. What R406, R409 and R411 take from the two standards they name: the digest of FIPS 180-4 (SHA-256) and the
verification of FIPS 186-5 (ECDSA on P-256), from the standards' own text (log entry 12). -/

namespace Sys2Proof.Machine

/-! ### SHA-256 -/

abbrev W32 := BitVec 32

/-- The largest number of at most k more bits above acc whose power does not exceed x. -/
def rootOf (pow x : Nat) : Nat → Nat → Nat
  | 0, acc => acc
  | k + 1, acc => if (acc + 2 ^ k) ^ pow ≤ x then rootOf pow x k (acc + 2 ^ k) else rootOf pow x k acc

/-- The first 32 bits of the fraction of a root of n. -/
def rootFraction (pow n : Nat) : W32 := BitVec.ofNat 32 (rootOf pow (n * 2 ^ (32 * pow)) 38 0)

/-- The first sixty-four primes. -/
def smallPrimes : List Nat := (List.range 312).filter fun n => decide (2 ≤ n) && (List.range n).all fun k => decide (k < 2) || n % k != 0

/-- The round constants, from cube roots. -/
def shaConstants : List W32 := smallPrimes.map (rootFraction 3)

/-- The eight words of a digest under way. -/
structure Sha where
  a : W32
  b : W32
  c : W32
  d : W32
  e : W32
  f : W32
  g : W32
  h : W32
deriving DecidableEq, Repr

/-- The words at the start, from square roots. -/
def Sha.start : Sha :=
  let w := fun (k : Nat) => rootFraction 2 (smallPrimes.getD k 0)
  ⟨w 0, w 1, w 2, w 3, w 4, w 5, w 6, w 7⟩

def Sha.sum (x y : Sha) : Sha :=
  ⟨x.a + y.a, x.b + y.b, x.c + y.c, x.d + y.d, x.e + y.e, x.f + y.f, x.g + y.g, x.h + y.h⟩

/-- One round, with a round constant and a word of the schedule. -/
def Sha.round (x : Sha) (k w : W32) : Sha :=
  let s1 := x.e.rotateRight 6 ^^^ x.e.rotateRight 11 ^^^ x.e.rotateRight 25
  let t1 := x.h + s1 + ((x.e &&& x.f) ^^^ (~~~x.e &&& x.g)) + k + w
  let s0 := x.a.rotateRight 2 ^^^ x.a.rotateRight 13 ^^^ x.a.rotateRight 22
  ⟨t1 + s0 + ((x.a &&& x.b) ^^^ (x.a &&& x.c) ^^^ (x.b &&& x.c)), x.a, x.b, x.c, x.d + t1, x.e, x.f, x.g⟩

/-- n more words of a schedule, of which the newest sixteen are given, newest first. -/
def shaExtend : Nat → List W32 → List W32
  | 0, ws => ws
  | n + 1, ws =>
    let w := fun (k : Nat) => ws.getD k 0
    let s0 := (w 14).rotateRight 7 ^^^ (w 14).rotateRight 18 ^^^ (w 14) >>> 3
    let s1 := (w 1).rotateRight 17 ^^^ (w 1).rotateRight 19 ^^^ (w 1) >>> 10
    shaExtend n ((s1 + w 6 + s0 + w 15) :: ws)

/-- A big-endian number of bytes. -/
def natBE (bs : List Byte) : Nat := natLE bs.reverse

/-- One block of 64 bytes. -/
def Sha.block (x : Sha) (bs : List Byte) : Sha :=
  let ws := (shaExtend 48 ((List.range 16).map fun k => BitVec.ofNat 32 (natBE ((bs.drop (4 * k)).take 4))).reverse).reverse
  ((shaConstants.zip ws).foldl (fun s e => s.round e.1 e.2) x).sum x

def Sha.blocks : Nat → List Byte → Sha → Sha
  | 0, _, x => x
  | n + 1, bs, x => Sha.blocks n (bs.drop 64) (x.block (bs.take 64))

/-- The 32 bytes of the digest. -/
def Sha.bytes (x : Sha) : List Byte :=
  ([x.a, x.b, x.c, x.d, x.e, x.f, x.g, x.h]).flatMap fun w => (bytesLE 4 w.toNat).reverse

/-- SHA-256 of a byte string: its bytes in order. -/
def sha256 (bs : List Byte) : List Byte :=
  let padded := bs ++ 0x80#8 :: List.replicate ((119 - bs.length % 64) % 64) 0 ++ (bytesLE 8 (8 * bs.length)).reverse
  (Sha.blocks (padded.length / 64) padded .start).bytes

/-- A digest as 32 bytes of memory hold it. -/
def shaWord (bs : List Byte) : BitVec 256 := BitVec.ofNat 256 (natLE (sha256 bs))

/-! ### P-256: y² = x³ - 3 x + b modulo p; G has order n -/

abbrev ecP : Nat := 0xffffffff00000001000000000000000000000000ffffffffffffffffffffffff
abbrev ecN : Nat := 0xffffffff00000000ffffffffffffffffbce6faada7179e84f3b9cac2fc632551
abbrev ecB : Nat := 0x5ac635d8aa3a93e7b3ebbd55769886bc651d06b0cc53b0f63bce3c3e27d2604b
abbrev ecG : Nat × Nat :=
  (0x6b17d1f2e12c4247f8bce6e563a440f277037d812deb33a0f4a13945d898c296,
    0x4fe342e2fe1a7f9b8ee7eb4a7c0f9e162bce33576b315ececbb6406837bf51f5)

/-- b to the power e modulo m, for e of at most so many bits. -/
def powMod (m b e : Nat) : Nat → Nat
  | 0 => 1
  | k + 1 =>
    let h := powMod m (b * b % m) (e / 2) k
    if e % 2 = 1 then b * h % m else h

/-- The inverse modulo a prime of 256 bits. -/
def invMod (m x : Nat) : Nat := powMod m x (m - 2) 256

/-- x - y modulo m, of residues. -/
def subMod (m x y : Nat) : Nat := (x + (m - y)) % m

/-- A point of the curve; none is the point at infinity. -/
abbrev Point := Option (Nat × Nat)

/-- The third point of the line of a slope through two points, reflected. -/
def chord (l : Nat) (p q : Nat × Nat) : Point :=
  let x := subMod ecP (subMod ecP (l * l % ecP) p.1) q.1
  some (x, subMod ecP (l * subMod ecP p.1 x % ecP) p.2)

def ecAdd (p q : Point) : Point :=
  match p, q with
  | none, q => q
  | p, none => p
  | some p, some q =>
    if p.1 ≠ q.1 then chord (subMod ecP q.2 p.2 * invMod ecP (subMod ecP q.1 p.1) % ecP) p q
    else if (p.2 + q.2) % ecP = 0 then none
    else chord ((3 * p.1 * p.1 + (ecP - 3)) * invMod ecP (2 * p.2) % ecP) p q

/-- k p, for k of at most so many bits. -/
def ecMul (k : Nat) (p : Point) : Nat → Point
  | 0 => none
  | n + 1 =>
    let h := ecMul (k / 2) (ecAdd p p) n
    if k % 2 = 1 then ecAdd p h else h

/-- The points of the curve with an abscissa. -/
def pointsAt (x : Nat) : List (Nat × Nat) :=
  let z := (x * x * x + (ecP - 3) * x + ecB) % ecP
  let y := powMod ecP z ((ecP + 1) / 4) 256
  if ecP ≤ x ∨ y * y % ecP ≠ z then [] else [(x, y), (x, (ecP - y) % ecP)]

/-- The bytes of a public key in uncompressed SEC1 form (R406). -/
def sec1 (q : Nat × Nat) : List Byte := 0x04#8 :: ((bytesLE 32 q.1).reverse ++ (bytesLE 32 q.2).reverse)

/-- The public keys under which a signature of a digest verifies: those Q with x (u₁ G + u₂ Q) ≡ r modulo n, for u₁ = z / s
and u₂ = r / s. -/
def keysOf (digest : List Byte) (r s : Nat) : List (Nat × Nat) :=
  if r = 0 ∨ ecN ≤ r ∨ s = 0 ∨ ecN ≤ s then []
  else
    let w := invMod ecN r
    let zg := ecMul ((ecN - natBE digest % ecN) * w % ecN) (some ecG) 256
    ([r, r + ecN].flatMap pointsAt).filterMap fun p => ecAdd (ecMul (s * w % ecN) (some p) 256) zg

/-- Does a signature of a byte string verify under the key of an identifier (R406)? -/
def ecdsaVerify (keyId : BitVec 256) (signed : List Byte) (r s : Nat) : Bool :=
  (keysOf (sha256 signed) r s).any fun q => shaWord (sec1 q) == keyId

end Sys2Proof.Machine
end

