-- ==== Sys2Proof/Decode.lean ====
section
/-! DEFINITION. The decoder and the encoder, from the encoding tables of 03_encoding.md and of the instruction
chapters. A row of the table gives, for one instruction in one operand form, the values of OP and FN, the forms it
admits, its feature level, its convoy class and what each field must hold. Decoding takes the checks of R51 in order. -/

namespace Sys2Proof

/-! ### Types (R41) -/

def Ty.code : Ty → BitVec 4
  | .i8 => 0 | .i16 => 1 | .i32 => 2 | .i64 => 3 | .n8 => 4 | .n16 => 5 | .n32 => 6 | .n64 => 7
  | .f64 => 8 | .f32 => 9 | .bf16 => 10 | .f16 => 11 | .e4m3 => 12 | .e5m2 => 13 | .e2m1 => 14 | .sf4 => 15

def Ty.ofCode (c : BitVec 4) : Ty :=
  match c.toNat with
  | 0 => .i8 | 1 => .i16 | 2 => .i32 | 3 => .i64 | 4 => .n8 | 5 => .n16 | 6 => .n32 | 7 => .n64
  | 8 => .f64 | 9 => .f32 | 10 => .bf16 | 11 => .f16 | 12 => .e4m3 | 13 => .e5m2 | 14 => .e2m1 | _ => .sf4

/-- Width code of a type, the ew value it must match (R41). -/
def Ty.width : Ty → Nat
  | .i8 | .n8 | .e4m3 | .e5m2 | .e2m1 | .sf4 => 0
  | .i16 | .n16 | .bf16 | .f16 => 1
  | .i32 | .n32 | .f32 => 2
  | .i64 | .n64 | .f64 => 3

/-- Bits of the register element that holds a value of the type: 8, 16, 32 or 64. -/
def Ty.bits (t : Ty) : Nat := 8 * 2 ^ t.width

/-- Bytes of the register element. -/
def Ty.bytes (t : Ty) : Nat := 2 ^ t.width

def Ty.signed : Ty → Bool
  | .i8 | .i16 | .i32 | .i64 => true
  | _ => false

def Ty.ints : List Ty := [.i8, .i16, .i32, .i64, .n8, .n16, .n32, .n64]
def Ty.nats : List Ty := [.n8, .n16, .n32, .n64]
def Ty.floats : List Ty := [.f64, .f32, .bf16, .f16]
def Ty.moves : List Ty := [.i8, .i16, .i32, .i64, .n8, .n16, .n32, .n64, .f64, .f32, .bf16, .f16, .e4m3, .e5m2]
def Ty.notSf4 : List Ty := .e2m1 :: Ty.moves
def Ty.amos : List Ty := [.i32, .n32, .i64, .n64, .f32, .n8]
def Ty.qsrc : List Ty := [.f32, .bf16, .f16]
def Ty.qdst : List Ty := [.e4m3, .e5m2, .e2m1, .sf4]
def Ty.mats : List Ty := [.e4m3, .e5m2, .bf16, .f16, .e2m1, .sf4]

/-! ### Fields -/

/-- Parcels of a form (R31). -/
def Form.parcels : Form → Nat
  | .s32 => 1 | .l64 => 2 | .x96 => 3

/-- Bits [lo + n - 1 : lo] of the immediate. -/
def Operands.im (o : Operands) (lo n : Nat) : Nat := o.imm.toNat / 2 ^ lo % 2 ^ n

/-- Bits [lo + n - 1 : lo] of FN. -/
def Operands.fnBits (o : Operands) (lo n : Nat) : Nat := o.fn.toNat / 2 ^ lo % 2 ^ n

/-- Bits [lo + n - 1 : lo] of AUX10. -/
def Operands.auxBits (o : Operands) (lo n : Nat) : Nat := o.aux.toNat / 2 ^ lo % 2 ^ n

/-- The immediate, sign-extended to 64 bits from the 12 bits of L64 or the 32 bits of X96 (R37, R48). -/
def Operands.simm (o : Operands) : Word :=
  match o.form with
  | .x96 => o.imm.signExtend 64
  | _ => (o.imm.truncate 12).signExtend 64

/-- pos and len of a bit-field instruction (R207, R215). -/
def Operands.imPos (o : Operands) : Nat := o.im 0 6
def Operands.imLen (o : Operands) : Nat := o.im 6 6 + 1

/-- The subfields of an engine instruction: IMM12 in L64, AUX10 in X96 (R143). -/
def Operands.eng (o : Operands) (lo n : Nat) : Nat :=
  match o.form with
  | .x96 => o.auxBits lo n
  | _ => o.im lo n

/-- The field rule of R143: only the bits of mask in the subfields; in X96 LIT32 is free for WAITEV alone. -/
def Operands.engOk (o : Operands) (mask : Nat) (free : Bool) : Bool :=
  match o.form with
  | .x96 => (o.aux.toNat &&& (0x3FF ^^^ mask)) == 0 && (free || o.imm == 0)
  | _ => (o.imm.toNat &&& (0xFFF ^^^ mask)) == 0 && o.aux == 0

/-- TYPEs each atomic operation accepts (R105). -/
def amoTypes : Nat → List Ty
  | 0 | 1 | 2 | 3 | 8 | 9 => [.i32, .n32, .i64, .n64]
  | 4 | 5 => [.i32, .i64]
  | 6 | 7 => [.n32, .n64]
  | 10 => [.f32]
  | 11 => [.n8]
  | _ => []

/-- SCOPE and AOP of an atomic (R103, R105). -/
def Operands.amoOk (o : Operands) : Bool := o.fnBits 4 2 != 3 && (amoTypes (o.fnBits 0 4)).contains o.ty

/-- The data register of a VAMO.CAS: even, or a multiple of 4 with a 64-bit type (R120). -/
def Operands.vamoDOk (o : Operands) (r : BitVec 6) : Bool :=
  o.fnBits 0 4 != 9 || r.toNat % (if o.ty.width == 3 then 4 else 2) == 0

/-- The register range of VSAVE and VLOAD (R121). -/
def Operands.rangeOk (o : Operands) (r : BitVec 6) : Bool :=
  decide (r.toNat + o.im 0 6 + 1 ≤ 64) && (o.ty.width != 3 || (r.toNat % 2 == 0 && o.im 0 6 % 2 == 1))

/-- The second type of a conversion or quantiser, FN[3:0] (R231, R234). -/
def Operands.dty (o : Operands) : Ty := Ty.ofCode (BitVec.ofNat 4 (o.fnBits 0 4))

/-- SAT as R233 admits it for a destination. -/
def satAdmitted (dt : Ty) (sat : Nat) : Bool :=
  match sat with
  | 0 => true
  | 1 => !(Ty.floats.contains dt)
  | 2 => dt == .e4m3 || dt == .e5m2
  | _ => false

def Operands.cvtOk (o : Operands) : Bool :=
  o.fnBits 6 2 == 0 && o.dty != .sf4 && o.dty != o.ty && satAdmitted o.dty (o.fnBits 4 2)

/-- R234: SF4 needs AUX10 and so X96; any other format has AUX10 = 0; no directly named overlap. -/
def Operands.quantOk (o : Operands) (f : Ty) : Bool :=
  (if f == .sf4 then o.form == .x96 else o.aux == 0) &&
    (o.xd || ((o.xa || o.d != o.a) && (f == .sf4 && o.fnBits 4 4 == 2 || o.fnBits 4 4 == 0 || o.d != o.b)))

def Operands.qscaleOk (o : Operands) : Bool := Ty.qdst.contains o.dty && o.quantOk o.dty
def Operands.vqntOk (o : Operands) : Bool :=
  Ty.qdst.contains o.dty && o.quantOk o.dty && (o.imm == 0 || o.dty == .e4m3 || o.dty == .e5m2)
def Operands.vdqntOk (o : Operands) : Bool :=
  Ty.qsrc.contains o.dty && o.quantOk o.ty && (o.ty != .sf4 || o.b == 0)

/-- R248: descriptors only for scratchpad operands, the form they need, .xb and SF4. -/
def Operands.mmaOk (o : Operands) : Bool :=
  let ak := o.fnBits 0 1; let bk := o.fnBits 1 1
  o.fnBits 3 5 == 0 &&
  (ak == 1 || o.auxBits 0 5 == 0) && (bk == 1 || o.auxBits 5 5 == 0) &&
  (if ak == 0 && bk == 0 then o.form == .l64 else o.form == .x96 && o.imm == 0) && o.imm == 0 &&
  (o.fnBits 2 1 == 0 || o.ty == .e4m3 || o.ty == .e5m2) && (o.ty != .sf4 || (ak == 1 && bk == 1)) &&
  (!o.xa || ak == 0)

/-- R248, R253. -/
def Operands.mmasOk (o : Operands) : Bool :=
  let ak := o.fnBits 0 1; let bk := o.fnBits 1 1
  o.fnBits 6 2 == 0 &&
  (ak == 1 || o.im 0 5 == 0) && (bk == 1 || o.im 5 5 == 0) &&
  (o.fnBits 2 1 == 0 || o.ty == .e4m3 || o.ty == .e5m2) && (o.ty != .sf4 || (ak == 1 && bk == 1)) &&
  (!o.xa || ak == 0) &&
  decide (o.fnBits 3 3 ≤ if o.ty == .bf16 || o.ty == .f16 then 3 else 5)

/-- Row and column counts of a small-matrix instruction, at most 6 (R267). -/
def Operands.smShape (o : Operands) : Bool := o.fnBits 6 2 == 0 && decide (o.fnBits 3 3 ≤ 5) && decide (o.fnBits 0 3 ≤ 5)

/-! ### The table -/

/-- What a register field names (R38). vfn: a vector whose type is the second type in FN; fnA, fnB: a scalar when FN[0],
FN[1] is 1 and a vector otherwise (R248). -/
inductive RegK where
  | z | s | v | vfn | p | acc | m | fnA | fnB
deriving DecidableEq, Repr

/-- What the TYPE field must hold. -/
inductive TyK where
  | zero | of (l : List Ty)
deriving DecidableEq, Repr

/-- RM: zero, read, or 0 or 7 and ignored (R44). -/
inductive RmK where
  | zero | reads | ignored
deriving DecidableEq, Repr

/-- The immediate: zero; any; only the bits of a mask; the cross-lane subfields of R202 and the bits of a mask. -/
inductive ImmK where
  | zero | any | sub (mask : Nat) | cross (mask : Nat)
deriving DecidableEq, Repr

inductive AuxK where
  | zero | any | sub (mask : Nat)
deriving DecidableEq, Repr

/-- Rows that share OP, FN and form are told apart by the immediate: a register number, the form of SPINV, or OPC; second:
the second type in FN is one of the table's (R234). -/
inductive Sel where
  | all | within (l : List Nat) | outside (l : List Nat) | opc (n : Nat) | second (l : List Ty)
deriving DecidableEq, Repr

/-- Convoy classes (R49). mem2 takes both memory slots. -/
inductive Cls where
  | none | mem | mem2 | arith | cross | red | mat | sm
deriving DecidableEq, Repr

/-- The registers that R54 counts as written: those D names, none, the tile at D or at IMM12[2:0], the range of VLOAD,
or D and B. -/
inductive Dst where
  | d | none | tile | tileImm | range | dAndB
deriving DecidableEq, Repr

/-- The encoded instructions by name, in the order of the opcode table. -/
inductive Mnem where
  | add | addL64 | sub | subL64 | and_ | andL64 | or_ | orL64 | xor_ | xorL64
  | shl | shlL64 | shr | shrL64 | sra | sraL64 | slt | sltL64 | sltn | sltnL64
  | seq | seqL64 | min | minL64 | max | maxL64 | minn | minnL64 | maxn | maxnL64
  | mul | mulL64 | mulh | mulhn | div | divn | rem | remn | rol | clz
  | ctz | popc | lut3 | addi | subi | andi | ori | xori | shli | shri
  | srai | slti | sltni | seqi | mini | maxi | minni | maxni | muli | mulhi
  | mulhni | divi | divni | remi | remni | roli | li | lih | ext | ins
  | sel | bEq | bNe | bLt | bGe | bLtn | bGen | bz | bnz | bpAny
  | bpAll | bpNone | jump | jr | call | callr | ret | nest | nexit | nexitL64
  | nexitReg | nexitRegL64 | setvl | vtb | vtend | vtendL64 | vtnext | farm | farmL64 | strip
  | stripL64 | fbar | fbarL64 | cbar | cbarL64 | yield | yieldL64 | exit | exitL64 | csrr
  | csrw | csrwVl | csrwEw | csrwVstart | csrwSrseed | csrwQpct | csrwQuotaView | csrrQuotaView | trap | trapL64
  | brk | brkL64 | eret | eretL64 | wfe | wfeL64 | kill | killL64 | tlbinv | tlbinvL64
  | fence | fenceL64 | tclrS | tclrSL64 | tclrV | tclrVL64 | tclrP | tclrPL64 | tclrVl | tclrVlL64
  | ld | ldIndex | pref | st | stIndex | amo | ldacq | strel | vadd | vsub
  | vmin | vmax | vabs | vsel | vsat | vaddSat | vsubSat | vshl | vshr | vsra
  | vfsl | vfsr | vlut3 | vcmp | vpopc | vclz | vextb | vinsb | vmul | vmulh
  | vmac | vdiv | vrem | vperm | vtbl | vcompress | vexpand | vrev | vzip | vunzip
  | vslideup | vslidedn | pand | pandL64 | por | porL64 | pxor | pxorL64 | pnot | pnotL64
  | pset | psetL64 | pfirst | pfirstL64 | pcount | pcountL64 | pmovsToScalar | pmovsToPredicate | vexts | vextsImm
  | vinss | vinssImm | vbcast | vbcastImm | vid | viota | vfadd | vfsub | vfmul | vfma
  | vfnma | vfdiv | vfsqrt | vfrsq | vfexp2 | vflog2 | vfmin | vfmax | vfclass | vfcmp
  | vcvt | qscale | vqnt | vdqnt | vredsum | vredmin | vredmax | vredand | vredor | vredxor
  | vscan | vfredsum | vfredosum | vfredmin | vfredmax | vfscan | vld | vst | vlds | vsts
  | vldx | vstx | vld2d | vst2d | vldc | vbind | vunbind | wbind | wunbind | vamo
  | vsave | vload | splk | sptag | spinv | spinvAll | spld | spst | spldTile | spstTile
  | spldx | lpld | lpst | lpldIndex | lpstIndex | epush | epop | epoll | waitev | evrd
  | evset | mshape | mshapeReg | mzero | maccld | maccst | mma | mmas | bfly | bchain
  | mtrans | mtransScratch | smld | smst | smget | smput | smmul | smmac | smadd | smsub
  | smtrn | smscal | smchol | smlu | smsolv | mbsend | mbrecv | mbpoll | glaunch | gsig
deriving DecidableEq, Repr

/-- The instruction of a name and its fields. (Not compiled: Lean's runtime has no more than 244 constructors with
fields; the kernel evaluates it.) -/
noncomputable def Mnem.instr (m : Mnem) (o : Operands) : Instr :=
  match m with
  | .add => .add o
  | .addL64 => .addL64 o
  | .sub => .sub o
  | .subL64 => .subL64 o
  | .and_ => .and_ o
  | .andL64 => .andL64 o
  | .or_ => .or_ o
  | .orL64 => .orL64 o
  | .xor_ => .xor_ o
  | .xorL64 => .xorL64 o
  | .shl => .shl o
  | .shlL64 => .shlL64 o
  | .shr => .shr o
  | .shrL64 => .shrL64 o
  | .sra => .sra o
  | .sraL64 => .sraL64 o
  | .slt => .slt o
  | .sltL64 => .sltL64 o
  | .sltn => .sltn o
  | .sltnL64 => .sltnL64 o
  | .seq => .seq o
  | .seqL64 => .seqL64 o
  | .min => .min o
  | .minL64 => .minL64 o
  | .max => .max o
  | .maxL64 => .maxL64 o
  | .minn => .minn o
  | .minnL64 => .minnL64 o
  | .maxn => .maxn o
  | .maxnL64 => .maxnL64 o
  | .mul => .mul o
  | .mulL64 => .mulL64 o
  | .mulh => .mulh o
  | .mulhn => .mulhn o
  | .div => .div o
  | .divn => .divn o
  | .rem => .rem o
  | .remn => .remn o
  | .rol => .rol o
  | .clz => .clz o
  | .ctz => .ctz o
  | .popc => .popc o
  | .lut3 => .lut3 o
  | .addi => .addi o
  | .subi => .subi o
  | .andi => .andi o
  | .ori => .ori o
  | .xori => .xori o
  | .shli => .shli o
  | .shri => .shri o
  | .srai => .srai o
  | .slti => .slti o
  | .sltni => .sltni o
  | .seqi => .seqi o
  | .mini => .mini o
  | .maxi => .maxi o
  | .minni => .minni o
  | .maxni => .maxni o
  | .muli => .muli o
  | .mulhi => .mulhi o
  | .mulhni => .mulhni o
  | .divi => .divi o
  | .divni => .divni o
  | .remi => .remi o
  | .remni => .remni o
  | .roli => .roli o
  | .li => .li o
  | .lih => .lih o
  | .ext => .ext o
  | .ins => .ins o
  | .sel => .sel o
  | .bEq => .bEq o
  | .bNe => .bNe o
  | .bLt => .bLt o
  | .bGe => .bGe o
  | .bLtn => .bLtn o
  | .bGen => .bGen o
  | .bz => .bz o
  | .bnz => .bnz o
  | .bpAny => .bpAny o
  | .bpAll => .bpAll o
  | .bpNone => .bpNone o
  | .jump => .jump o
  | .jr => .jr o
  | .call => .call o
  | .callr => .callr o
  | .ret => .ret o
  | .nest => .nest o
  | .nexit => .nexit o
  | .nexitL64 => .nexitL64 o
  | .nexitReg => .nexitReg o
  | .nexitRegL64 => .nexitRegL64 o
  | .setvl => .setvl o
  | .vtb => .vtb o
  | .vtend => .vtend o
  | .vtendL64 => .vtendL64 o
  | .vtnext => .vtnext o
  | .farm => .farm o
  | .farmL64 => .farmL64 o
  | .strip => .strip o
  | .stripL64 => .stripL64 o
  | .fbar => .fbar o
  | .fbarL64 => .fbarL64 o
  | .cbar => .cbar o
  | .cbarL64 => .cbarL64 o
  | .yield => .yield o
  | .yieldL64 => .yieldL64 o
  | .exit => .exit o
  | .exitL64 => .exitL64 o
  | .csrr => .csrr o
  | .csrw => .csrw o
  | .csrwVl => .csrwVl o
  | .csrwEw => .csrwEw o
  | .csrwVstart => .csrwVstart o
  | .csrwSrseed => .csrwSrseed o
  | .csrwQpct => .csrwQpct o
  | .csrwQuotaView => .csrwQuotaView o
  | .csrrQuotaView => .csrrQuotaView o
  | .trap => .trap o
  | .trapL64 => .trapL64 o
  | .brk => .brk o
  | .brkL64 => .brkL64 o
  | .eret => .eret o
  | .eretL64 => .eretL64 o
  | .wfe => .wfe o
  | .wfeL64 => .wfeL64 o
  | .kill => .kill o
  | .killL64 => .killL64 o
  | .tlbinv => .tlbinv o
  | .tlbinvL64 => .tlbinvL64 o
  | .fence => .fence o
  | .fenceL64 => .fenceL64 o
  | .tclrS => .tclrS o
  | .tclrSL64 => .tclrSL64 o
  | .tclrV => .tclrV o
  | .tclrVL64 => .tclrVL64 o
  | .tclrP => .tclrP o
  | .tclrPL64 => .tclrPL64 o
  | .tclrVl => .tclrVl o
  | .tclrVlL64 => .tclrVlL64 o
  | .ld => .ld o
  | .ldIndex => .ldIndex o
  | .pref => .pref o
  | .st => .st o
  | .stIndex => .stIndex o
  | .amo => .amo o
  | .ldacq => .ldacq o
  | .strel => .strel o
  | .vadd => .vadd o
  | .vsub => .vsub o
  | .vmin => .vmin o
  | .vmax => .vmax o
  | .vabs => .vabs o
  | .vsel => .vsel o
  | .vsat => .vsat o
  | .vaddSat => .vaddSat o
  | .vsubSat => .vsubSat o
  | .vshl => .vshl o
  | .vshr => .vshr o
  | .vsra => .vsra o
  | .vfsl => .vfsl o
  | .vfsr => .vfsr o
  | .vlut3 => .vlut3 o
  | .vcmp => .vcmp o
  | .vpopc => .vpopc o
  | .vclz => .vclz o
  | .vextb => .vextb o
  | .vinsb => .vinsb o
  | .vmul => .vmul o
  | .vmulh => .vmulh o
  | .vmac => .vmac o
  | .vdiv => .vdiv o
  | .vrem => .vrem o
  | .vperm => .vperm o
  | .vtbl => .vtbl o
  | .vcompress => .vcompress o
  | .vexpand => .vexpand o
  | .vrev => .vrev o
  | .vzip => .vzip o
  | .vunzip => .vunzip o
  | .vslideup => .vslideup o
  | .vslidedn => .vslidedn o
  | .pand => .pand o
  | .pandL64 => .pandL64 o
  | .por => .por o
  | .porL64 => .porL64 o
  | .pxor => .pxor o
  | .pxorL64 => .pxorL64 o
  | .pnot => .pnot o
  | .pnotL64 => .pnotL64 o
  | .pset => .pset o
  | .psetL64 => .psetL64 o
  | .pfirst => .pfirst o
  | .pfirstL64 => .pfirstL64 o
  | .pcount => .pcount o
  | .pcountL64 => .pcountL64 o
  | .pmovsToScalar => .pmovsToScalar o
  | .pmovsToPredicate => .pmovsToPredicate o
  | .vexts => .vexts o
  | .vextsImm => .vextsImm o
  | .vinss => .vinss o
  | .vinssImm => .vinssImm o
  | .vbcast => .vbcast o
  | .vbcastImm => .vbcastImm o
  | .vid => .vid o
  | .viota => .viota o
  | .vfadd => .vfadd o
  | .vfsub => .vfsub o
  | .vfmul => .vfmul o
  | .vfma => .vfma o
  | .vfnma => .vfnma o
  | .vfdiv => .vfdiv o
  | .vfsqrt => .vfsqrt o
  | .vfrsq => .vfrsq o
  | .vfexp2 => .vfexp2 o
  | .vflog2 => .vflog2 o
  | .vfmin => .vfmin o
  | .vfmax => .vfmax o
  | .vfclass => .vfclass o
  | .vfcmp => .vfcmp o
  | .vcvt => .vcvt o
  | .qscale => .qscale o
  | .vqnt => .vqnt o
  | .vdqnt => .vdqnt o
  | .vredsum => .vredsum o
  | .vredmin => .vredmin o
  | .vredmax => .vredmax o
  | .vredand => .vredand o
  | .vredor => .vredor o
  | .vredxor => .vredxor o
  | .vscan => .vscan o
  | .vfredsum => .vfredsum o
  | .vfredosum => .vfredosum o
  | .vfredmin => .vfredmin o
  | .vfredmax => .vfredmax o
  | .vfscan => .vfscan o
  | .vld => .vld o
  | .vst => .vst o
  | .vlds => .vlds o
  | .vsts => .vsts o
  | .vldx => .vldx o
  | .vstx => .vstx o
  | .vld2d => .vld2d o
  | .vst2d => .vst2d o
  | .vldc => .vldc o
  | .vbind => .vbind o
  | .vunbind => .vunbind o
  | .wbind => .wbind o
  | .wunbind => .wunbind o
  | .vamo => .vamo o
  | .vsave => .vsave o
  | .vload => .vload o
  | .splk => .splk o
  | .sptag => .sptag o
  | .spinv => .spinv o
  | .spinvAll => .spinvAll o
  | .spld => .spld o
  | .spst => .spst o
  | .spldTile => .spldTile o
  | .spstTile => .spstTile o
  | .spldx => .spldx o
  | .lpld => .lpld o
  | .lpst => .lpst o
  | .lpldIndex => .lpldIndex o
  | .lpstIndex => .lpstIndex o
  | .epush => .epush o
  | .epop => .epop o
  | .epoll => .epoll o
  | .waitev => .waitev o
  | .evrd => .evrd o
  | .evset => .evset o
  | .mshape => .mshape o
  | .mshapeReg => .mshapeReg o
  | .mzero => .mzero o
  | .maccld => .maccld o
  | .maccst => .maccst o
  | .mma => .mma o
  | .mmas => .mmas o
  | .bfly => .bfly o
  | .bchain => .bchain o
  | .mtrans => .mtrans o
  | .mtransScratch => .mtransScratch o
  | .smld => .smld o
  | .smst => .smst o
  | .smget => .smget o
  | .smput => .smput o
  | .smmul => .smmul o
  | .smmac => .smmac o
  | .smadd => .smadd o
  | .smsub => .smsub o
  | .smtrn => .smtrn o
  | .smscal => .smscal o
  | .smchol => .smchol o
  | .smlu => .smlu o
  | .smsolv => .smsolv o
  | .mbsend => .mbsend o
  | .mbrecv => .mbrecv o
  | .mbpoll => .mbpoll o
  | .glaunch => .glaunch o
  | .gsig => .gsig o

structure Row where
  mn : Mnem
  fnVal : Nat
  fnMask : Nat := 0xFF
  s : Bool := false
  l : Bool := true
  x : Bool := false
  level : Nat := 1
  cls : Cls := .none
  d : RegK := .z
  a : RegK := .z
  b : RegK := .z
  g : Bool := false
  ty : TyK := .zero
  rm : RmK := .zero
  u : Bool := false
  xd : Bool := false
  xa : Bool := false
  imm : ImmK := .zero
  aux : AuxK := .zero
  sel : Sel := .all
  dst : Dst := .d
  fnTy : Bool := false
  chk : Operands → Bool := fun _ => true

/-- The instructions of opcode 0x01 (R49). -/
def rows01 : List Row := [
  { mn := .add, fnVal := 0x00, s := true, l := false, d := .s, a := .s, b := .s },
  { mn := .addL64, fnVal := 0x00, d := .s, a := .s, b := .s },
  { mn := .sub, fnVal := 0x01, s := true, l := false, d := .s, a := .s, b := .s },
  { mn := .subL64, fnVal := 0x01, d := .s, a := .s, b := .s },
  { mn := .and_, fnVal := 0x02, s := true, l := false, d := .s, a := .s, b := .s },
  { mn := .andL64, fnVal := 0x02, d := .s, a := .s, b := .s },
  { mn := .or_, fnVal := 0x03, s := true, l := false, d := .s, a := .s, b := .s },
  { mn := .orL64, fnVal := 0x03, d := .s, a := .s, b := .s },
  { mn := .xor_, fnVal := 0x04, s := true, l := false, d := .s, a := .s, b := .s },
  { mn := .xorL64, fnVal := 0x04, d := .s, a := .s, b := .s },
  { mn := .shl, fnVal := 0x05, s := true, l := false, d := .s, a := .s, b := .s },
  { mn := .shlL64, fnVal := 0x05, d := .s, a := .s, b := .s },
  { mn := .shr, fnVal := 0x06, s := true, l := false, d := .s, a := .s, b := .s },
  { mn := .shrL64, fnVal := 0x06, d := .s, a := .s, b := .s },
  { mn := .sra, fnVal := 0x07, s := true, l := false, d := .s, a := .s, b := .s },
  { mn := .sraL64, fnVal := 0x07, d := .s, a := .s, b := .s },
  { mn := .slt, fnVal := 0x08, s := true, l := false, d := .s, a := .s, b := .s },
  { mn := .sltL64, fnVal := 0x08, d := .s, a := .s, b := .s },
  { mn := .sltn, fnVal := 0x09, s := true, l := false, d := .s, a := .s, b := .s },
  { mn := .sltnL64, fnVal := 0x09, d := .s, a := .s, b := .s },
  { mn := .seq, fnVal := 0x0A, s := true, l := false, d := .s, a := .s, b := .s },
  { mn := .seqL64, fnVal := 0x0A, d := .s, a := .s, b := .s },
  { mn := .min, fnVal := 0x0B, s := true, l := false, d := .s, a := .s, b := .s },
  { mn := .minL64, fnVal := 0x0B, d := .s, a := .s, b := .s },
  { mn := .max, fnVal := 0x0C, s := true, l := false, d := .s, a := .s, b := .s },
  { mn := .maxL64, fnVal := 0x0C, d := .s, a := .s, b := .s },
  { mn := .minn, fnVal := 0x0D, s := true, l := false, d := .s, a := .s, b := .s },
  { mn := .minnL64, fnVal := 0x0D, d := .s, a := .s, b := .s },
  { mn := .maxn, fnVal := 0x0E, s := true, l := false, d := .s, a := .s, b := .s },
  { mn := .maxnL64, fnVal := 0x0E, d := .s, a := .s, b := .s },
  { mn := .mul, fnVal := 0x0F, s := true, l := false, d := .s, a := .s, b := .s },
  { mn := .mulL64, fnVal := 0x0F, d := .s, a := .s, b := .s },
  { mn := .mulh, fnVal := 0x10, d := .s, a := .s, b := .s },
  { mn := .mulhn, fnVal := 0x11, d := .s, a := .s, b := .s },
  { mn := .div, fnVal := 0x12, d := .s, a := .s, b := .s },
  { mn := .divn, fnVal := 0x13, d := .s, a := .s, b := .s },
  { mn := .rem, fnVal := 0x14, d := .s, a := .s, b := .s },
  { mn := .remn, fnVal := 0x15, d := .s, a := .s, b := .s },
  { mn := .rol, fnVal := 0x16, d := .s, a := .s, b := .s },
  { mn := .clz, fnVal := 0x17, d := .s, a := .s },
  { mn := .ctz, fnVal := 0x18, d := .s, a := .s },
  { mn := .popc, fnVal := 0x19, d := .s, a := .s },
  { mn := .lut3, fnVal := 0x1A, d := .s, a := .s, b := .s, imm := .sub 0xFF } ]

/-- The instructions of opcode 0x02 (R49). -/
def rows02 : List Row := [
  { mn := .addi, fnVal := 0x00, x := true, d := .s, a := .s, imm := .any },
  { mn := .subi, fnVal := 0x01, x := true, d := .s, a := .s, imm := .any },
  { mn := .andi, fnVal := 0x02, x := true, d := .s, a := .s, imm := .any },
  { mn := .ori, fnVal := 0x03, x := true, d := .s, a := .s, imm := .any },
  { mn := .xori, fnVal := 0x04, x := true, d := .s, a := .s, imm := .any },
  { mn := .shli, fnVal := 0x05, x := true, d := .s, a := .s, imm := .any, chk := fun o => o.imm.toNat < 64 },
  { mn := .shri, fnVal := 0x06, x := true, d := .s, a := .s, imm := .any, chk := fun o => o.imm.toNat < 64 },
  { mn := .srai, fnVal := 0x07, x := true, d := .s, a := .s, imm := .any, chk := fun o => o.imm.toNat < 64 },
  { mn := .slti, fnVal := 0x08, x := true, d := .s, a := .s, imm := .any },
  { mn := .sltni, fnVal := 0x09, x := true, d := .s, a := .s, imm := .any },
  { mn := .seqi, fnVal := 0x0A, x := true, d := .s, a := .s, imm := .any },
  { mn := .mini, fnVal := 0x0B, x := true, d := .s, a := .s, imm := .any },
  { mn := .maxi, fnVal := 0x0C, x := true, d := .s, a := .s, imm := .any },
  { mn := .minni, fnVal := 0x0D, x := true, d := .s, a := .s, imm := .any },
  { mn := .maxni, fnVal := 0x0E, x := true, d := .s, a := .s, imm := .any },
  { mn := .muli, fnVal := 0x0F, x := true, d := .s, a := .s, imm := .any },
  { mn := .mulhi, fnVal := 0x10, x := true, d := .s, a := .s, imm := .any },
  { mn := .mulhni, fnVal := 0x11, x := true, d := .s, a := .s, imm := .any },
  { mn := .divi, fnVal := 0x12, x := true, d := .s, a := .s, imm := .any },
  { mn := .divni, fnVal := 0x13, x := true, d := .s, a := .s, imm := .any },
  { mn := .remi, fnVal := 0x14, x := true, d := .s, a := .s, imm := .any },
  { mn := .remni, fnVal := 0x15, x := true, d := .s, a := .s, imm := .any },
  { mn := .roli, fnVal := 0x16, x := true, d := .s, a := .s, imm := .any, chk := fun o => o.imm.toNat < 64 } ]

/-- The instructions of opcode 0x03 (R49). -/
def rows03 : List Row := [
  { mn := .li, fnVal := 0x00, x := true, d := .s, imm := .any },
  { mn := .lih, fnVal := 0x01, x := true, d := .s, imm := .any } ]

/-- The instructions of opcode 0x04 (R49). -/
def rows04 : List Row := [
  { mn := .ext, fnVal := 0x00, x := true, d := .s, a := .s, imm := .sub 0xFFF, chk := fun o => o.imPos + o.imLen ≤ 64 },
  { mn := .ins, fnVal := 0x01, x := true, d := .s, a := .s, imm := .sub 0xFFF, chk := fun o => o.imPos + o.imLen ≤ 64 },
  { mn := .sel, fnVal := 0x02, x := true, d := .s, a := .s, b := .s } ]

/-- The instructions of opcode 0x10 (R49). -/
def rows10 : List Row := [
  { mn := .bEq, fnVal := 0x00, x := true, a := .s, b := .s, imm := .any },
  { mn := .bNe, fnVal := 0x01, x := true, a := .s, b := .s, imm := .any },
  { mn := .bLt, fnVal := 0x02, x := true, a := .s, b := .s, imm := .any },
  { mn := .bGe, fnVal := 0x03, x := true, a := .s, b := .s, imm := .any },
  { mn := .bLtn, fnVal := 0x04, x := true, a := .s, b := .s, imm := .any },
  { mn := .bGen, fnVal := 0x05, x := true, a := .s, b := .s, imm := .any },
  { mn := .bz, fnVal := 0x06, x := true, a := .s, imm := .any },
  { mn := .bnz, fnVal := 0x07, x := true, a := .s, imm := .any },
  { mn := .bpAny, fnVal := 0x08, x := true, a := .p, imm := .any },
  { mn := .bpAll, fnVal := 0x09, x := true, a := .p, imm := .any },
  { mn := .bpNone, fnVal := 0x0A, x := true, a := .p, imm := .any } ]

/-- The instructions of opcode 0x11 (R49). -/
def rows11 : List Row := [
  { mn := .jump, fnVal := 0x00, x := true, imm := .any },
  { mn := .jr, fnVal := 0x01, a := .s },
  { mn := .call, fnVal := 0x02, x := true, imm := .any },
  { mn := .callr, fnVal := 0x03, a := .s },
  { mn := .ret, fnVal := 0x04 } ]

/-- The instructions of opcode 0x12 (R49). -/
def rows12 : List Row := [
  { mn := .nest, fnVal := 0x00, a := .v, imm := .sub 0xFF, xa := true, chk := fun o => o.im 0 3 ≤ 5 },
  { mn := .nexit, fnVal := 0x01, s := true, l := false },
  { mn := .nexitL64, fnVal := 0x01 },
  { mn := .nexitReg, fnVal := 0x02, s := true, l := false, a := .s },
  { mn := .nexitRegL64, fnVal := 0x02, a := .s } ]

/-- The instructions of opcode 0x13 (R49). -/
def rows13 : List Row := [
  { mn := .setvl, fnVal := 0x00, d := .s, a := .s, imm := .sub 3 } ]

/-- The instructions of opcode 0x14 (R49). -/
def rows14 : List Row := [
  { mn := .vtb, fnVal := 0x00, x := true, level := 2, d := .p, imm := .any },
  { mn := .vtend, fnVal := 0x01, s := true, l := false, level := 2 },
  { mn := .vtendL64, fnVal := 0x01, level := 2 },
  { mn := .vtnext, fnVal := 0x02, x := true, level := 2, a := .p, imm := .any } ]

/-- The instructions of opcode 0x15 (R49). -/
def rows15 : List Row := [
  { mn := .farm, fnVal := 0x00, s := true, l := false, a := .s },
  { mn := .farmL64, fnVal := 0x00, a := .s },
  { mn := .strip, fnVal := 0x01, s := true, l := false, d := .s },
  { mn := .stripL64, fnVal := 0x01, d := .s },
  { mn := .fbar, fnVal := 0x02, s := true, l := false },
  { mn := .fbarL64, fnVal := 0x02 },
  { mn := .cbar, fnVal := 0x03, s := true, l := false },
  { mn := .cbarL64, fnVal := 0x03 },
  { mn := .yield, fnVal := 0x04, s := true, l := false },
  { mn := .yieldL64, fnVal := 0x04 },
  { mn := .exit, fnVal := 0x05, s := true, l := false },
  { mn := .exitL64, fnVal := 0x05 } ]

/-- The instructions of opcode 0x18 (R49). -/
def rows18 : List Row := [
  { mn := .csrrQuotaView, fnVal := 0x00, d := .s, imm := .any, sel := .within [0x841, 0x842, 0x843] },
  { mn := .csrr, fnVal := 0x00, d := .s, imm := .any, sel := .outside [0x841, 0x842, 0x843] },
  { mn := .csrwVl, fnVal := 0x01, a := .s, imm := .any, sel := .within [0] },
  { mn := .csrwVstart, fnVal := 0x01, a := .s, imm := .any, sel := .within [1] },
  { mn := .csrwEw, fnVal := 0x01, a := .s, imm := .any, sel := .within [2] },
  { mn := .csrwQpct, fnVal := 0x01, a := .s, imm := .any, sel := .within [9] },
  { mn := .csrwSrseed, fnVal := 0x01, a := .s, imm := .any, sel := .within [12] },
  { mn := .csrwQuotaView, fnVal := 0x01, a := .s, imm := .any, sel := .within [0x841, 0x842, 0x843] },
  { mn := .csrw, fnVal := 0x01, a := .s, imm := .any, sel := .outside [0, 1, 2, 9, 0xC, 0x841, 0x842, 0x843] } ]

/-- TLBINV (R394): SCOPE 0 or 1; a form that names no asid has B zero, and one that names no address has A zero (R38). -/
def tlbinvOk (o : Operands) : Bool :=
  decide (o.im 4 2 ≤ 1) && (o.im 0 2 == 2 || o.a == 0) && (o.im 0 2 == 1 || o.im 0 2 == 2 || o.b == 0)

/-- The instructions of opcode 0x19 (R49). -/
def rows19 : List Row := [
  { mn := .trap, fnVal := 0x00, s := true, l := false },
  { mn := .trapL64, fnVal := 0x00, imm := .any },
  { mn := .brk, fnVal := 0x01, s := true, l := false },
  { mn := .brkL64, fnVal := 0x01, imm := .any },
  { mn := .eret, fnVal := 0x02, s := true, l := false },
  { mn := .eretL64, fnVal := 0x02 },
  { mn := .wfe, fnVal := 0x03, s := true, l := false, a := .s },
  { mn := .wfeL64, fnVal := 0x03, a := .s },
  { mn := .kill, fnVal := 0x04, s := true, l := false },
  { mn := .killL64, fnVal := 0x04, imm := .any },
  { mn := .tlbinv, fnVal := 0x05, s := true, l := false },
  { mn := .tlbinvL64, fnVal := 0x05, a := .s, b := .s, imm := .sub 0x33, chk := tlbinvOk } ]

/-- The instructions of opcode 0x1A (R49). -/
def rows1A : List Row := [
  { mn := .fence, fnVal := 0x00, s := true, l := false },
  { mn := .fenceL64, fnVal := 0x00, imm := .sub 0x3F, chk := fun o => o.im 4 2 != 3 },
  { mn := .tclrS, fnVal := 0x01, s := true, l := false, d := .s },
  { mn := .tclrSL64, fnVal := 0x01, d := .s },
  { mn := .tclrV, fnVal := 0x02, s := true, l := false, d := .v, dst := .none },
  { mn := .tclrVL64, fnVal := 0x02, d := .v, dst := .none, xd := true },
  { mn := .tclrP, fnVal := 0x03, s := true, l := false, d := .p, dst := .none },
  { mn := .tclrPL64, fnVal := 0x03, d := .p, dst := .none },
  { mn := .tclrVl, fnVal := 0x04, s := true, l := false },
  { mn := .tclrVlL64, fnVal := 0x04 } ]

/-- The instructions of opcode 0x20 (R49). -/
def rows20 : List Row := [
  { mn := .ld, fnVal := 0x00, x := true, d := .s, a := .s, ty := .of Ty.ints, imm := .any },
  { mn := .ldIndex, fnVal := 0x01, d := .s, a := .s, b := .s, ty := .of Ty.ints },
  { mn := .pref, fnVal := 0x02, x := true, a := .s, imm := .any } ]

/-- The instructions of opcode 0x21 (R49). -/
def rows21 : List Row := [
  { mn := .st, fnVal := 0x00, x := true, d := .s, a := .s, ty := .of Ty.ints, imm := .any },
  { mn := .stIndex, fnVal := 0x01, d := .s, a := .s, b := .s, ty := .of Ty.ints } ]

/-- The instructions of opcode 0x22 (R49). -/
def rows22 : List Row := [
  { mn := .amo, fnVal := 0x00, fnMask := 0xC0, d := .s, a := .s, b := .s, ty := .of Ty.amos, chk := Operands.amoOk },
  { mn := .ldacq, fnVal := 0x40, fnMask := 0xCF, d := .s, a := .s, ty := .of Ty.ints, chk := fun o => o.fnBits 4 2 != 3 },
  { mn := .strel, fnVal := 0x80, fnMask := 0xCF, d := .s, a := .s, ty := .of Ty.ints, chk := fun o => o.fnBits 4 2 != 3 } ]

/-- The instructions of opcode 0x28 (R49). -/
def rows28 : List Row := [
  { mn := .vadd, fnVal := 0x00, cls := .arith, d := .v, a := .v, b := .v, ty := .of Ty.ints, imm := .cross 0, g := true, xd := true, xa := true },
  { mn := .vsub, fnVal := 0x01, cls := .arith, d := .v, a := .v, b := .v, ty := .of Ty.ints, imm := .cross 0, g := true, xd := true, xa := true },
  { mn := .vmin, fnVal := 0x02, cls := .arith, d := .v, a := .v, b := .v, ty := .of Ty.ints, imm := .cross 0, g := true, xd := true, xa := true },
  { mn := .vmax, fnVal := 0x03, cls := .arith, d := .v, a := .v, b := .v, ty := .of Ty.ints, imm := .cross 0, g := true, xd := true, xa := true },
  { mn := .vaddSat, fnVal := 0x08, cls := .arith, d := .v, a := .v, b := .v, ty := .of Ty.ints, imm := .cross 0, g := true, xd := true, xa := true },
  { mn := .vsubSat, fnVal := 0x09, cls := .arith, d := .v, a := .v, b := .v, ty := .of Ty.ints, imm := .cross 0, g := true, xd := true, xa := true },
  { mn := .vabs, fnVal := 0x04, cls := .arith, d := .v, a := .v, ty := .of [.i8, .i16, .i32, .i64], g := true, xd := true, xa := true },
  { mn := .vsel, fnVal := 0x05, cls := .arith, d := .v, a := .v, b := .v, ty := .of Ty.moves, imm := .cross 0x1C0, g := true, xd := true, xa := true } ]

/-- The instructions of opcode 0x29 (R49). -/
def rows29 : List Row := [
  { mn := .vadd, fnVal := 0x00, x := true, cls := .arith, d := .v, a := .v, b := .s, ty := .of Ty.ints, g := true, xd := true, xa := true },
  { mn := .vadd, fnVal := 0x80, x := true, cls := .arith, d := .v, a := .v, ty := .of Ty.ints, imm := .any, g := true, xd := true, xa := true },
  { mn := .vsub, fnVal := 0x01, x := true, cls := .arith, d := .v, a := .v, b := .s, ty := .of Ty.ints, g := true, xd := true, xa := true },
  { mn := .vsub, fnVal := 0x81, x := true, cls := .arith, d := .v, a := .v, ty := .of Ty.ints, imm := .any, g := true, xd := true, xa := true },
  { mn := .vmin, fnVal := 0x02, x := true, cls := .arith, d := .v, a := .v, b := .s, ty := .of Ty.ints, g := true, xd := true, xa := true },
  { mn := .vmin, fnVal := 0x82, x := true, cls := .arith, d := .v, a := .v, ty := .of Ty.ints, imm := .any, g := true, xd := true, xa := true },
  { mn := .vmax, fnVal := 0x03, x := true, cls := .arith, d := .v, a := .v, b := .s, ty := .of Ty.ints, g := true, xd := true, xa := true },
  { mn := .vmax, fnVal := 0x83, x := true, cls := .arith, d := .v, a := .v, ty := .of Ty.ints, imm := .any, g := true, xd := true, xa := true },
  { mn := .vaddSat, fnVal := 0x08, x := true, cls := .arith, d := .v, a := .v, b := .s, ty := .of Ty.ints, g := true, xd := true, xa := true },
  { mn := .vaddSat, fnVal := 0x88, x := true, cls := .arith, d := .v, a := .v, ty := .of Ty.ints, imm := .any, g := true, xd := true, xa := true },
  { mn := .vsubSat, fnVal := 0x09, x := true, cls := .arith, d := .v, a := .v, b := .s, ty := .of Ty.ints, g := true, xd := true, xa := true },
  { mn := .vsubSat, fnVal := 0x89, x := true, cls := .arith, d := .v, a := .v, ty := .of Ty.ints, imm := .any, g := true, xd := true, xa := true },
  { mn := .vsat, fnVal := 0x86, x := true, cls := .arith, d := .v, a := .v, ty := .of Ty.ints, imm := .any, g := true, xd := true, xa := true, chk := fun o => decide (1 ≤ o.simm.toInt) && decide (o.simm.toInt ≤ o.ty.bits) } ]

/-- The instructions of opcode 0x2A (R49). -/
def rows2A : List Row := [
  { mn := .vshl, fnVal := 0x00, cls := .arith, d := .v, a := .v, b := .v, ty := .of Ty.ints, imm := .cross 0, g := true, xd := true, xa := true },
  { mn := .vshl, fnVal := 0x40, x := true, cls := .arith, d := .v, a := .v, b := .s, ty := .of Ty.ints, g := true, xd := true, xa := true },
  { mn := .vshl, fnVal := 0x80, x := true, cls := .arith, d := .v, a := .v, ty := .of Ty.ints, imm := .any, g := true, xd := true, xa := true, chk := fun o => o.imm.toNat < o.ty.bits },
  { mn := .vshr, fnVal := 0x01, cls := .arith, d := .v, a := .v, b := .v, ty := .of Ty.ints, imm := .cross 0, g := true, xd := true, xa := true },
  { mn := .vshr, fnVal := 0x41, x := true, cls := .arith, d := .v, a := .v, b := .s, ty := .of Ty.ints, g := true, xd := true, xa := true },
  { mn := .vshr, fnVal := 0x81, x := true, cls := .arith, d := .v, a := .v, ty := .of Ty.ints, imm := .any, g := true, xd := true, xa := true, chk := fun o => o.imm.toNat < o.ty.bits },
  { mn := .vsra, fnVal := 0x02, cls := .arith, d := .v, a := .v, b := .v, ty := .of Ty.ints, imm := .cross 0, g := true, xd := true, xa := true },
  { mn := .vsra, fnVal := 0x42, x := true, cls := .arith, d := .v, a := .v, b := .s, ty := .of Ty.ints, g := true, xd := true, xa := true },
  { mn := .vsra, fnVal := 0x82, x := true, cls := .arith, d := .v, a := .v, ty := .of Ty.ints, imm := .any, g := true, xd := true, xa := true, chk := fun o => o.imm.toNat < o.ty.bits },
  { mn := .vfsl, fnVal := 0x83, x := true, cls := .arith, d := .v, a := .v, b := .v, ty := .of Ty.ints, imm := .any, g := true, xd := true, xa := true, chk := fun o => o.imm.toNat ≤ o.ty.bits },
  { mn := .vfsr, fnVal := 0x84, x := true, cls := .arith, d := .v, a := .v, b := .v, ty := .of Ty.ints, imm := .any, g := true, xd := true, xa := true, chk := fun o => o.imm.toNat ≤ o.ty.bits } ]

/-- The instructions of opcode 0x2B (R49). -/
def rows2B : List Row := [
  { mn := .vlut3, fnVal := 0x00, cls := .arith, d := .v, a := .v, b := .v, ty := .of Ty.ints, imm := .sub 0xFF, g := true, xd := true, xa := true } ]

/-- The instructions of opcode 0x2C (R49). -/
def rows2C : List Row := [
  { mn := .vcmp, fnVal := 0x00, fnMask := 0xF8, cls := .arith, d := .p, a := .v, b := .v, ty := .of Ty.ints, imm := .cross 0, g := true, xa := true, chk := fun o => o.fnBits 0 3 < 6 },
  { mn := .vcmp, fnVal := 0x40, fnMask := 0xF8, x := true, cls := .arith, d := .p, a := .v, b := .s, ty := .of Ty.ints, g := true, xa := true, chk := fun o => o.fnBits 0 3 < 6 },
  { mn := .vcmp, fnVal := 0x80, fnMask := 0xF8, x := true, cls := .arith, d := .p, a := .v, ty := .of Ty.ints, imm := .any, g := true, xa := true, chk := fun o => o.fnBits 0 3 < 6 } ]

/-- The instructions of opcode 0x2D (R49). -/
def rows2D : List Row := [
  { mn := .vpopc, fnVal := 0x00, x := true, cls := .arith, d := .v, a := .v, ty := .of Ty.ints, g := true, xd := true, xa := true },
  { mn := .vclz, fnVal := 0x01, x := true, cls := .arith, d := .v, a := .v, ty := .of Ty.ints, g := true, xd := true, xa := true },
  { mn := .vextb, fnVal := 0x02, x := true, cls := .arith, d := .v, a := .v, ty := .of Ty.ints, imm := .sub 0xFFF, g := true, xd := true, xa := true, chk := fun o => o.imPos + o.imLen ≤ o.ty.bits },
  { mn := .vinsb, fnVal := 0x03, x := true, cls := .arith, d := .v, a := .v, ty := .of Ty.ints, imm := .sub 0xFFF, g := true, xd := true, xa := true, chk := fun o => o.imPos + o.imLen ≤ o.ty.bits } ]

/-- The instructions of opcode 0x2E (R49). -/
def rows2E : List Row := [
  { mn := .vmul, fnVal := 0x00, cls := .arith, d := .v, a := .v, b := .v, ty := .of Ty.ints, imm := .cross 0, g := true, xd := true, xa := true },
  { mn := .vmulh, fnVal := 0x01, cls := .arith, d := .v, a := .v, b := .v, ty := .of Ty.ints, imm := .cross 0, g := true, xd := true, xa := true },
  { mn := .vmac, fnVal := 0x02, cls := .arith, d := .v, a := .v, b := .v, ty := .of Ty.ints, imm := .cross 0, g := true, xd := true, xa := true },
  { mn := .vdiv, fnVal := 0x03, cls := .arith, d := .v, a := .v, b := .v, ty := .of Ty.ints, imm := .cross 0, g := true, xd := true, xa := true },
  { mn := .vrem, fnVal := 0x04, cls := .arith, d := .v, a := .v, b := .v, ty := .of Ty.ints, imm := .cross 0, g := true, xd := true, xa := true } ]

/-- The instructions of opcode 0x30 (R49). -/
def rows30 : List Row := [
  { mn := .vperm, fnVal := 0x00, x := true, cls := .cross, d := .v, a := .v, b := .v, ty := .of Ty.moves, g := true, xd := true, xa := true },
  { mn := .vtbl, fnVal := 0x01, x := true, cls := .cross, d := .v, a := .v, b := .v, ty := .of Ty.moves, imm := .any, g := true, xd := true, xa := true, chk := fun o => decide (1 ≤ o.imm.toNat) && decide (o.imm.toNat ≤ 12) },
  { mn := .vcompress, fnVal := 0x02, x := true, cls := .cross, d := .v, a := .v, b := .p, ty := .of Ty.moves, g := true, xd := true, xa := true },
  { mn := .vexpand, fnVal := 0x03, x := true, cls := .cross, d := .v, a := .v, b := .p, ty := .of Ty.moves, g := true, xd := true, xa := true },
  { mn := .vrev, fnVal := 0x04, x := true, cls := .cross, d := .v, a := .v, ty := .of Ty.moves, g := true, xd := true, xa := true },
  { mn := .vzip, fnVal := 0x05, x := true, cls := .cross, d := .v, a := .v, b := .v, ty := .of Ty.moves, imm := .any, g := true, xd := true, xa := true, chk := fun o => o.imm.toNat ≤ 1 },
  { mn := .vunzip, fnVal := 0x06, x := true, cls := .cross, d := .v, a := .v, b := .v, ty := .of Ty.moves, imm := .any, g := true, xd := true, xa := true, chk := fun o => o.imm.toNat ≤ 1 } ]

/-- The instructions of opcode 0x31 (R49). -/
def rows31 : List Row := [
  { mn := .vslideup, fnVal := 0x00, x := true, cls := .cross, d := .v, a := .v, b := .v, ty := .of Ty.moves, imm := .any, g := true, xd := true, xa := true, chk := fun o => decide (0 ≤ o.simm.toInt) },
  { mn := .vslideup, fnVal := 0x02, l := false, x := true, cls := .cross, d := .v, a := .v, b := .v, ty := .of Ty.moves, aux := .sub 0x1F, g := true, xd := true, xa := true },
  { mn := .vslidedn, fnVal := 0x01, x := true, cls := .cross, d := .v, a := .v, b := .v, ty := .of Ty.moves, imm := .any, g := true, xd := true, xa := true, chk := fun o => decide (0 ≤ o.simm.toInt) },
  { mn := .vslidedn, fnVal := 0x03, l := false, x := true, cls := .cross, d := .v, a := .v, b := .v, ty := .of Ty.moves, aux := .sub 0x1F, g := true, xd := true, xa := true } ]

/-- The instructions of opcode 0x32 (R49). -/
def rows32 : List Row := [
  { mn := .pand, fnVal := 0x00, s := true, l := false, cls := .arith, d := .p, a := .p, b := .p },
  { mn := .pandL64, fnVal := 0x00, cls := .arith, d := .p, a := .p, b := .p, g := true },
  { mn := .por, fnVal := 0x01, s := true, l := false, cls := .arith, d := .p, a := .p, b := .p },
  { mn := .porL64, fnVal := 0x01, cls := .arith, d := .p, a := .p, b := .p, g := true },
  { mn := .pxor, fnVal := 0x02, s := true, l := false, cls := .arith, d := .p, a := .p, b := .p },
  { mn := .pxorL64, fnVal := 0x02, cls := .arith, d := .p, a := .p, b := .p, g := true },
  { mn := .pnot, fnVal := 0x03, s := true, l := false, cls := .arith, d := .p, a := .p },
  { mn := .pnotL64, fnVal := 0x03, cls := .arith, d := .p, a := .p, g := true },
  { mn := .pset, fnVal := 0x04, s := true, l := false, cls := .arith, d := .p },
  { mn := .psetL64, fnVal := 0x04, cls := .arith, d := .p },
  { mn := .pfirst, fnVal := 0x05, s := true, l := false, cls := .arith, d := .p, a := .p },
  { mn := .pfirstL64, fnVal := 0x05, cls := .arith, d := .p, a := .p, g := true },
  { mn := .pcount, fnVal := 0x06, s := true, l := false, cls := .arith, d := .s, a := .p },
  { mn := .pcountL64, fnVal := 0x06, cls := .arith, d := .s, a := .p, g := true },
  { mn := .pmovsToScalar, fnVal := 0x07, cls := .arith, d := .s, a := .p, imm := .any },
  { mn := .pmovsToPredicate, fnVal := 0x08, cls := .arith, d := .p, a := .s, imm := .any } ]

/-- The instructions of opcode 0x33 (R49). -/
def rows33 : List Row := [
  { mn := .vexts, fnVal := 0x00, x := true, cls := .arith, d := .s, a := .v, b := .s, ty := .of Ty.moves, xa := true },
  { mn := .vextsImm, fnVal := 0x01, x := true, cls := .arith, d := .s, a := .v, ty := .of Ty.moves, imm := .sub 0xFFF, xa := true },
  { mn := .vinss, fnVal := 0x02, x := true, cls := .arith, d := .v, a := .s, b := .s, ty := .of Ty.moves, xd := true },
  { mn := .vinssImm, fnVal := 0x03, x := true, cls := .arith, d := .v, a := .s, ty := .of Ty.moves, imm := .sub 0xFFF, xd := true },
  { mn := .vbcast, fnVal := 0x04, x := true, cls := .arith, d := .v, a := .s, ty := .of Ty.moves, g := true, xd := true },
  { mn := .vbcastImm, fnVal := 0x05, x := true, cls := .arith, d := .v, ty := .of Ty.moves, imm := .any, g := true, xd := true },
  { mn := .vid, fnVal := 0x06, x := true, cls := .arith, d := .v, ty := .of Ty.ints, g := true, xd := true },
  { mn := .viota, fnVal := 0x07, x := true, cls := .arith, d := .v, a := .p, ty := .of Ty.ints, g := true, xd := true } ]

/-- The instructions of opcode 0x40 (R49). -/
def rows40 : List Row := [
  { mn := .vfadd, fnVal := 0x00, cls := .arith, d := .v, a := .v, b := .v, ty := .of Ty.floats, rm := .reads, imm := .cross 0, g := true, xd := true, xa := true },
  { mn := .vfadd, fnVal := 0x80, cls := .arith, d := .v, a := .v, b := .s, ty := .of Ty.floats, rm := .reads, g := true, xd := true, xa := true },
  { mn := .vfsub, fnVal := 0x01, cls := .arith, d := .v, a := .v, b := .v, ty := .of Ty.floats, rm := .reads, imm := .cross 0, g := true, xd := true, xa := true },
  { mn := .vfsub, fnVal := 0x81, cls := .arith, d := .v, a := .v, b := .s, ty := .of Ty.floats, rm := .reads, g := true, xd := true, xa := true },
  { mn := .vfmul, fnVal := 0x02, cls := .arith, d := .v, a := .v, b := .v, ty := .of Ty.floats, rm := .reads, imm := .cross 0, g := true, xd := true, xa := true },
  { mn := .vfmul, fnVal := 0x82, cls := .arith, d := .v, a := .v, b := .s, ty := .of Ty.floats, rm := .reads, g := true, xd := true, xa := true } ]

/-- The instructions of opcode 0x41 (R49). -/
def rows41 : List Row := [
  { mn := .vfma, fnVal := 0x00, cls := .arith, d := .v, a := .v, b := .v, ty := .of Ty.floats, rm := .reads, imm := .cross 0, g := true, xd := true, xa := true },
  { mn := .vfma, fnVal := 0x80, cls := .arith, d := .v, a := .v, b := .s, ty := .of Ty.floats, rm := .reads, g := true, xd := true, xa := true },
  { mn := .vfnma, fnVal := 0x01, cls := .arith, d := .v, a := .v, b := .v, ty := .of Ty.floats, rm := .reads, imm := .cross 0, g := true, xd := true, xa := true },
  { mn := .vfnma, fnVal := 0x81, cls := .arith, d := .v, a := .v, b := .s, ty := .of Ty.floats, rm := .reads, g := true, xd := true, xa := true } ]

/-- The instructions of opcode 0x42 (R49). -/
def rows42 : List Row := [
  { mn := .vfdiv, fnVal := 0x00, cls := .arith, d := .v, a := .v, b := .v, ty := .of Ty.floats, rm := .reads, imm := .cross 0, g := true, xd := true, xa := true },
  { mn := .vfdiv, fnVal := 0x80, cls := .arith, d := .v, a := .v, b := .s, ty := .of Ty.floats, rm := .reads, g := true, xd := true, xa := true },
  { mn := .vfsqrt, fnVal := 0x01, cls := .arith, d := .v, a := .v, ty := .of Ty.floats, rm := .reads, g := true, xd := true, xa := true },
  { mn := .vfrsq, fnVal := 0x02, cls := .arith, d := .v, a := .v, ty := .of Ty.floats, rm := .reads, g := true, xd := true, xa := true },
  { mn := .vfexp2, fnVal := 0x03, cls := .arith, d := .v, a := .v, ty := .of Ty.floats, rm := .reads, g := true, xd := true, xa := true },
  { mn := .vflog2, fnVal := 0x04, cls := .arith, d := .v, a := .v, ty := .of Ty.floats, rm := .reads, g := true, xd := true, xa := true } ]

/-- The instructions of opcode 0x43 (R49). -/
def rows43 : List Row := [
  { mn := .vfmin, fnVal := 0x00, cls := .arith, d := .v, a := .v, b := .v, ty := .of Ty.floats, rm := .ignored, imm := .cross 0, g := true, xd := true, xa := true },
  { mn := .vfmin, fnVal := 0x80, cls := .arith, d := .v, a := .v, b := .s, ty := .of Ty.floats, rm := .ignored, g := true, xd := true, xa := true },
  { mn := .vfmax, fnVal := 0x08, cls := .arith, d := .v, a := .v, b := .v, ty := .of Ty.floats, rm := .ignored, imm := .cross 0, g := true, xd := true, xa := true },
  { mn := .vfmax, fnVal := 0x88, cls := .arith, d := .v, a := .v, b := .s, ty := .of Ty.floats, rm := .ignored, g := true, xd := true, xa := true },
  { mn := .vfclass, fnVal := 0x10, cls := .arith, d := .v, a := .v, ty := .of Ty.floats, rm := .ignored, g := true, xd := true, xa := true },
  { mn := .vfcmp, fnVal := 0x18, fnMask := 0xF8, cls := .arith, d := .p, a := .v, b := .v, ty := .of Ty.floats, rm := .ignored, imm := .cross 0, g := true, xa := true },
  { mn := .vfcmp, fnVal := 0x98, fnMask := 0xF8, cls := .arith, d := .p, a := .v, b := .s, ty := .of Ty.floats, rm := .ignored, g := true, xa := true } ]

/-- The instructions of opcode 0x44 (R49). -/
def rows44 : List Row := [
  { mn := .vcvt, fnVal := 0x00, fnMask := 0x00, cls := .arith, d := .vfn, a := .v, ty := .of Ty.notSf4, rm := .reads, g := true, xd := true, xa := true, chk := Operands.cvtOk, fnTy := true } ]

/-- The instructions of opcode 0x45 (R49). -/
def rows45 : List Row := [
  { mn := .qscale, fnVal := 0x00, fnMask := 0xF0, x := true, level := 2, cls := .arith, d := .v, a := .v, ty := .of Ty.qsrc, rm := .ignored, aux := .sub 0x1F, sel := .second Ty.qdst, g := true, xd := true, xa := true, chk := Operands.qscaleOk },
  { mn := .vqnt, fnVal := 0x10, fnMask := 0xF0, x := true, level := 2, cls := .arith, d := .v, a := .v, b := .v, ty := .of Ty.qsrc, rm := .reads, imm := .sub 1, aux := .sub 0x1F, sel := .second Ty.qdst, g := true, xd := true, xa := true, chk := Operands.vqntOk },
  { mn := .vdqnt, fnVal := 0x20, fnMask := 0xF0, x := true, level := 2, cls := .arith, d := .v, a := .v, b := .v, ty := .of Ty.qdst, rm := .reads, aux := .sub 0x1F, sel := .second Ty.qsrc, g := true, xd := true, xa := true, chk := Operands.vdqntOk } ]

/-- The instructions of opcode 0x50 (R49). -/
def rows50 : List Row := [
  { mn := .vredsum, fnVal := 0x00, cls := .red, d := .s, a := .v, b := .s, ty := .of Ty.ints, g := true, xa := true },
  { mn := .vredmin, fnVal := 0x01, cls := .red, d := .s, a := .v, b := .s, ty := .of Ty.ints, g := true, xa := true },
  { mn := .vredmax, fnVal := 0x02, cls := .red, d := .s, a := .v, b := .s, ty := .of Ty.ints, g := true, xa := true },
  { mn := .vredand, fnVal := 0x03, cls := .red, d := .s, a := .v, b := .s, ty := .of Ty.ints, g := true, xa := true },
  { mn := .vredor, fnVal := 0x04, cls := .red, d := .s, a := .v, b := .s, ty := .of Ty.ints, g := true, xa := true },
  { mn := .vredxor, fnVal := 0x05, cls := .red, d := .s, a := .v, b := .s, ty := .of Ty.ints, g := true, xa := true },
  { mn := .vscan, fnVal := 0x10, fnMask := 0xF8, cls := .red, d := .v, a := .v, b := .s, ty := .of Ty.ints, g := true, xd := true, xa := true, chk := fun o => o.fnBits 0 3 < 6 } ]

/-- The instructions of opcode 0x51 (R49). -/
def rows51 : List Row := [
  { mn := .vfredsum, fnVal := 0x00, cls := .red, d := .s, a := .v, b := .s, ty := .of Ty.floats, rm := .reads, g := true, xa := true },
  { mn := .vfredosum, fnVal := 0x01, cls := .red, d := .s, a := .v, b := .s, ty := .of Ty.floats, rm := .reads, g := true, xa := true },
  { mn := .vfredmin, fnVal := 0x02, cls := .red, d := .s, a := .v, b := .s, ty := .of Ty.floats, rm := .ignored, g := true, xa := true },
  { mn := .vfredmax, fnVal := 0x03, cls := .red, d := .s, a := .v, b := .s, ty := .of Ty.floats, rm := .ignored, g := true, xa := true },
  { mn := .vfscan, fnVal := 0x04, cls := .red, d := .v, a := .v, b := .s, ty := .of Ty.floats, rm := .reads, g := true, xd := true, xa := true } ]

/-- The instructions of opcode 0x58 (R49). -/
def rows58 : List Row := [
  { mn := .vld, fnVal := 0x00, cls := .mem, d := .v, a := .s, ty := .of Ty.notSf4, g := true, xd := true },
  { mn := .vst, fnVal := 0x01, cls := .mem, d := .v, a := .s, ty := .of Ty.notSf4, dst := .none, g := true, u := true, xd := true } ]

/-- The instructions of opcode 0x59 (R49). -/
def rows59 : List Row := [
  { mn := .vlds, fnVal := 0x00, cls := .mem, d := .v, a := .s, b := .s, ty := .of Ty.moves, g := true, xd := true },
  { mn := .vsts, fnVal := 0x01, cls := .mem, d := .v, a := .s, b := .s, ty := .of Ty.moves, dst := .none, g := true, u := true, xd := true } ]

/-- The instructions of opcode 0x5A (R49). -/
def rows5A : List Row := [
  { mn := .vldx, fnVal := 0x00, cls := .mem, d := .v, a := .s, b := .v, ty := .of Ty.moves, g := true, xd := true },
  { mn := .vstx, fnVal := 0x01, cls := .mem, d := .v, a := .s, b := .v, ty := .of Ty.moves, dst := .none, g := true, u := true, xd := true } ]

/-- The instructions of opcode 0x5B (R49). -/
def rows5B : List Row := [
  { mn := .vld2d, fnVal := 0x00, x := true, cls := .mem, d := .v, a := .s, ty := .of Ty.moves, g := true, xd := true },
  { mn := .vst2d, fnVal := 0x01, x := true, cls := .mem, d := .v, a := .s, ty := .of Ty.moves, dst := .none, g := true, u := true, xd := true } ]

/-- The instructions of opcode 0x5C (R49). -/
def rows5C : List Row := [
  { mn := .vldc, fnVal := 0x00, x := true, level := 2, cls := .mem, d := .v, a := .s, b := .s, ty := .of [.n8], xd := true },
  { mn := .vbind, fnVal := 0x01, x := true, level := 2, cls := .mem, d := .v, a := .s, dst := .none, xd := true },
  { mn := .vunbind, fnVal := 0x02, x := true, level := 2, cls := .mem, d := .v, dst := .none, xd := true } ]

/-- The instructions of opcode 0x5D (R49). -/
def rows5D : List Row := [
  { mn := .wbind, fnVal := 0x00, level := 2, cls := .mem, a := .s, b := .v, ty := .of Ty.nats, imm := .sub 0x3F },
  { mn := .wunbind, fnVal := 0x01, level := 2, cls := .mem, imm := .sub 0xF } ]

/-- The instructions of opcode 0x5E (R49). -/
def rows5E : List Row := [
  { mn := .vamo, fnVal := 0x00, fnMask := 0xC0, cls := .mem, d := .v, a := .s, b := .v, ty := .of Ty.amos, g := true, xd := true, chk := fun o => o.amoOk && (o.xd || o.vamoDOk o.d) } ]

/-- The instructions of opcode 0x5F (R49). -/
def rows5F : List Row := [
  { mn := .vsave, fnVal := 0x00, x := true, cls := .mem2, d := .v, a := .s, ty := .of Ty.nats, imm := .sub 0x7F, dst := .none, xd := true, chk := fun o => o.xd || o.rangeOk o.d },
  { mn := .vload, fnVal := 0x01, x := true, cls := .mem2, d := .v, a := .s, ty := .of Ty.nats, imm := .sub 0x7F, dst := .range, xd := true, chk := fun o => o.xd || o.rangeOk o.d } ]

/-- The instructions of opcode 0x68 (R49). -/
def rows68 : List Row := [
  { mn := .splk, fnVal := 0x00, x := true, d := .s, a := .s },
  { mn := .sptag, fnVal := 0x01, x := true, a := .s, b := .s },
  { mn := .spinv, fnVal := 0x02, x := true, a := .s, sel := .outside [1] },
  { mn := .spinvAll, fnVal := 0x02, x := true, imm := .any, sel := .within [1] } ]

/-- The instructions of opcode 0x69 (R49). -/
def rows69 : List Row := [
  { mn := .spld, fnVal := 0x00, x := true, cls := .mem, d := .v, a := .s, ty := .of Ty.moves, g := true, xd := true },
  { mn := .spst, fnVal := 0x01, x := true, cls := .mem, d := .v, a := .s, ty := .of Ty.moves, dst := .none, g := true, xd := true },
  { mn := .spldTile, fnVal := 0x02, x := true, cls := .mem, d := .v, a := .s, b := .s, ty := .of Ty.moves, g := true, xd := true },
  { mn := .spstTile, fnVal := 0x03, x := true, cls := .mem, d := .v, a := .s, b := .s, ty := .of Ty.moves, dst := .none, g := true, xd := true },
  { mn := .spldx, fnVal := 0x04, x := true, cls := .mem, d := .v, a := .s, b := .v, ty := .of Ty.moves, g := true, xd := true } ]

/-- The instructions of opcode 0x6A (R49). -/
def rows6A : List Row := [
  { mn := .lpld, fnVal := 0x00, x := true, cls := .mem, d := .v, a := .s, ty := .of Ty.moves, g := true, xd := true },
  { mn := .lpst, fnVal := 0x01, x := true, cls := .mem, d := .v, a := .s, ty := .of Ty.moves, dst := .none, g := true, xd := true },
  { mn := .lpldIndex, fnVal := 0x02, x := true, cls := .mem, d := .v, a := .s, b := .v, ty := .of Ty.moves, g := true, xd := true },
  { mn := .lpstIndex, fnVal := 0x03, x := true, cls := .mem, d := .v, a := .s, b := .v, ty := .of Ty.moves, dst := .none, g := true, xd := true } ]

/-- The instructions of opcode 0x6B (R49). -/
def rows6B : List Row := [
  { mn := .epush, fnVal := 0x00, x := true, a := .v, imm := .any, aux := .any, chk := fun o => o.engOk 7 false && decide (o.eng 0 3 ≤ 2) },
  { mn := .epop, fnVal := 0x01, x := true, d := .v, imm := .any, aux := .any, chk := fun o => o.engOk 7 false && decide (o.eng 0 3 ≤ 2) },
  { mn := .epoll, fnVal := 0x02, x := true, d := .s, imm := .any, aux := .any, chk := fun o => o.engOk 7 false && decide (o.eng 0 3 ≤ 2) },
  { mn := .waitev, fnVal := 0x03, x := true, b := .s, imm := .any, aux := .any, chk := fun o => o.engOk 0xF true },
  { mn := .evrd, fnVal := 0x04, x := true, d := .s, imm := .any, aux := .any, chk := fun o => o.engOk 0xF false },
  { mn := .evset, fnVal := 0x05, x := true, a := .s, imm := .any, aux := .any, chk := fun o => o.engOk 0x1F false } ]

/-- The instructions of opcode 0x70 (R49). -/
def rows70 : List Row := [
  { mn := .mshape, fnVal := 0x00, fnMask := 0xFD, x := true, cls := .mat, d := .s, a := .s, b := .s, ty := .of Ty.mats, rm := .ignored, imm := .any },
  { mn := .mshapeReg, fnVal := 0x01, fnMask := 0xFD, l := false, x := true, cls := .mat, d := .s, a := .s, b := .s, ty := .of Ty.mats, rm := .ignored, aux := .sub 0x1F },
  { mn := .mzero, fnVal := 0x04, x := true, cls := .mat, d := .acc, rm := .ignored, dst := .tile },
  { mn := .maccld, fnVal := 0x05, x := true, cls := .mat, d := .v, a := .s, b := .s, ty := .of [.f32, .bf16, .f16], rm := .reads, imm := .sub 0xF, dst := .tileImm, g := true, xd := true, chk := fun o => o.im 3 1 == 1 || o.b == 0 },
  { mn := .maccst, fnVal := 0x06, x := true, cls := .mat, d := .v, a := .s, b := .s, ty := .of [.f32, .bf16, .f16, .e4m3, .e5m2], rm := .reads, imm := .sub 0x1F, g := true, xd := true, chk := fun o => (o.im 3 1 == 1 || o.b == 0) && (o.im 4 1 == 0 || o.ty == .e4m3 || o.ty == .e5m2) } ]

/-- The instructions of opcode 0x71 (R49). -/
def rows71 : List Row := [
  { mn := .mma, fnVal := 0x00, fnMask := 0x00, x := true, cls := .mat, d := .acc, a := .fnA, b := .fnB, ty := .of Ty.mats, rm := .ignored, aux := .any, dst := .tile, g := true, xa := true, chk := Operands.mmaOk } ]

/-- The instructions of opcode 0x72 (R49). -/
def rows72 : List Row := [
  { mn := .mmas, fnVal := 0x00, fnMask := 0x00, l := false, x := true, cls := .mat, d := .acc, a := .fnA, b := .fnB, ty := .of Ty.mats, rm := .ignored, imm := .sub 0x3FF, aux := .sub 0x3F, dst := .tile, g := true, xa := true, chk := Operands.mmasOk } ]

/-- The instructions of opcode 0x73 (R49). -/
def rows73 : List Row := [
  { mn := .bfly, fnVal := 0x00, x := true, level := 2, cls := .mat, d := .v, a := .v, b := .s, ty := .of [.f32, .bf16, .f16], rm := .reads, imm := .sub 0xFF, g := true, xd := true, xa := true, chk := fun o => decide (1 ≤ o.im 0 4) && decide (o.im 0 4 ≤ 12) },
  { mn := .bchain, fnVal := 0x01, x := true, level := 2, cls := .mat, d := .v, a := .v, b := .s, ty := .of [.f32, .bf16, .f16], rm := .reads, imm := .sub 0xFF, g := true, xd := true, xa := true, chk := fun o => decide (1 ≤ o.im 0 4) && decide (o.im 0 4 ≤ 12) } ]

/-- The instructions of opcode 0x74 (R49). -/
def rows74 : List Row := [
  { mn := .mtrans, fnVal := 0x00, x := true, cls := .mat, d := .v, a := .v, ty := .of Ty.moves, rm := .ignored, xd := true, xa := true, chk := fun o => o.xa || o.xd || o.d != o.a },
  { mn := .mtransScratch, fnVal := 0x01, l := false, x := true, cls := .mat, d := .s, a := .s, b := .s, ty := .of Ty.moves, rm := .ignored, aux := .sub 0x1F } ]

/-- The instructions of opcode 0x78 (R49). -/
def rows78 : List Row := [
  { mn := .smld, fnVal := 0x00, fnMask := 0x00, x := true, level := 2, cls := .sm, d := .m, a := .s, ty := .of [.f32, .f64], imm := .sub 0xF00, sel := .opc 0, g := true, chk := Operands.smShape },
  { mn := .smst, fnVal := 0x00, fnMask := 0x00, x := true, level := 2, cls := .sm, d := .m, a := .s, ty := .of [.f32, .f64], imm := .sub 0xF00, sel := .opc 1, dst := .none, g := true, chk := Operands.smShape },
  { mn := .smget, fnVal := 0x00, fnMask := 0x00, x := true, level := 2, cls := .sm, d := .v, a := .m, ty := .of [.f32, .f64], imm := .sub 0xF00, sel := .opc 2, g := true, chk := Operands.smShape },
  { mn := .smput, fnVal := 0x00, fnMask := 0x00, x := true, level := 2, cls := .sm, d := .m, a := .v, ty := .of [.f32, .f64], imm := .sub 0xF00, sel := .opc 3, g := true, chk := Operands.smShape } ]

/-- The instructions of opcode 0x79 (R49). -/
def rows79 : List Row := [
  { mn := .smmul, fnVal := 0x00, fnMask := 0x00, level := 2, cls := .sm, d := .m, a := .m, b := .m, ty := .of [.f32, .f64], rm := .reads, imm := .sub 0xF07, sel := .opc 0, g := true, chk := fun o => o.smShape && decide (o.im 0 3 ≤ 5) },
  { mn := .smmac, fnVal := 0x00, fnMask := 0x00, level := 2, cls := .sm, d := .m, a := .m, b := .m, ty := .of [.f32, .f64], rm := .reads, imm := .sub 0xF07, sel := .opc 1, g := true, chk := fun o => o.smShape && decide (o.im 0 3 ≤ 5) },
  { mn := .smadd, fnVal := 0x00, fnMask := 0x00, level := 2, cls := .sm, d := .m, a := .m, b := .m, ty := .of [.f32, .f64], rm := .reads, imm := .sub 0xF00, sel := .opc 2, g := true, chk := Operands.smShape },
  { mn := .smsub, fnVal := 0x00, fnMask := 0x00, level := 2, cls := .sm, d := .m, a := .m, b := .m, ty := .of [.f32, .f64], rm := .reads, imm := .sub 0xF00, sel := .opc 3, g := true, chk := Operands.smShape },
  { mn := .smtrn, fnVal := 0x00, fnMask := 0x00, level := 2, cls := .sm, d := .m, a := .m, ty := .of [.f32, .f64], imm := .sub 0xF00, sel := .opc 4, g := true, chk := Operands.smShape },
  { mn := .smscal, fnVal := 0x00, fnMask := 0x00, level := 2, cls := .sm, d := .m, a := .m, b := .v, ty := .of [.f32, .f64], rm := .reads, imm := .sub 0xF00, sel := .opc 5, g := true, chk := Operands.smShape } ]

/-- The instructions of opcode 0x7A (R49). -/
def rows7A : List Row := [
  { mn := .smchol, fnVal := 0x00, fnMask := 0x00, level := 2, cls := .sm, d := .m, a := .m, ty := .of [.f32, .f64], rm := .reads, imm := .sub 0xF01, sel := .opc 0, g := true, chk := fun o => o.smShape && o.fnBits 3 3 == o.fnBits 0 3 },
  { mn := .smlu, fnVal := 0x00, fnMask := 0x00, level := 2, cls := .sm, d := .m, a := .m, b := .v, ty := .of [.f32, .f64], rm := .reads, imm := .sub 0xF01, sel := .opc 1, dst := .dAndB, g := true, chk := fun o => o.smShape && o.fnBits 3 3 == o.fnBits 0 3 },
  { mn := .smsolv, fnVal := 0x00, fnMask := 0x00, level := 2, cls := .sm, d := .m, a := .m, b := .m, ty := .of [.f32, .f64], rm := .reads, imm := .sub 0xFFF, sel := .opc 2, g := true, chk := fun o => o.smShape && (o.im 1 2 == 1 || o.im 3 5 == 0) && (o.ty == .f32 || o.im 3 1 == 0) } ]

/-- The instructions of opcode 0x7C (R49). -/
def rows7C : List Row := [
  { mn := .mbsend, fnVal := 0x00, x := true, level := 2, d := .s, a := .v, imm := .sub 0x3F, chk := fun o => o.form != .x96 || o.imm == 0 },
  { mn := .mbrecv, fnVal := 0x01, x := true, level := 2, d := .v, imm := .sub 0x3F, chk := fun o => o.form != .x96 || o.imm == 0 },
  { mn := .mbpoll, fnVal := 0x02, x := true, level := 2, d := .s, imm := .sub 0x3F, chk := fun o => o.form != .x96 || o.imm == 0 } ]

/-- The instructions of opcode 0x7D (R49). -/
def rows7D : List Row := [
  { mn := .glaunch, fnVal := 0x00, x := true, level := 2, d := .s, a := .s, b := .s, imm := .sub 0x3F, chk := fun o => o.form != .x96 || o.imm == 0 },
  { mn := .gsig, fnVal := 0x01, x := true, level := 2, d := .s, a := .s } ]


/-- The rows of an opcode; none for an unassigned one (R49). -/
def rowsOf (op : Nat) : List Row :=
  match op with
  | 0x01 => rows01
  | 0x02 => rows02
  | 0x03 => rows03
  | 0x04 => rows04
  | 0x10 => rows10
  | 0x11 => rows11
  | 0x12 => rows12
  | 0x13 => rows13
  | 0x14 => rows14
  | 0x15 => rows15
  | 0x18 => rows18
  | 0x19 => rows19
  | 0x1A => rows1A
  | 0x20 => rows20
  | 0x21 => rows21
  | 0x22 => rows22
  | 0x28 => rows28
  | 0x29 => rows29
  | 0x2A => rows2A
  | 0x2B => rows2B
  | 0x2C => rows2C
  | 0x2D => rows2D
  | 0x2E => rows2E
  | 0x30 => rows30
  | 0x31 => rows31
  | 0x32 => rows32
  | 0x33 => rows33
  | 0x40 => rows40
  | 0x41 => rows41
  | 0x42 => rows42
  | 0x43 => rows43
  | 0x44 => rows44
  | 0x45 => rows45
  | 0x50 => rows50
  | 0x51 => rows51
  | 0x58 => rows58
  | 0x59 => rows59
  | 0x5A => rows5A
  | 0x5B => rows5B
  | 0x5C => rows5C
  | 0x5D => rows5D
  | 0x5E => rows5E
  | 0x5F => rows5F
  | 0x68 => rows68
  | 0x69 => rows69
  | 0x6A => rows6A
  | 0x6B => rows6B
  | 0x70 => rows70
  | 0x71 => rows71
  | 0x72 => rows72
  | 0x73 => rows73
  | 0x74 => rows74
  | 0x78 => rows78
  | 0x79 => rows79
  | 0x7A => rows7A
  | 0x7C => rows7C
  | 0x7D => rows7D
  | _ => []

/-- The forms an opcode admits (R49); none for 0x00 and the unassigned opcodes. -/
def formsOf (op : Nat) : List Form :=
  match op with
  | 0x01 => [.s32, .l64]
  | 0x02 => [.l64, .x96]
  | 0x03 => [.l64, .x96]
  | 0x04 => [.l64, .x96]
  | 0x10 => [.l64, .x96]
  | 0x11 => [.l64, .x96]
  | 0x12 => [.s32, .l64]
  | 0x13 => [.l64]
  | 0x14 => [.s32, .l64, .x96]
  | 0x15 => [.s32, .l64]
  | 0x18 => [.l64]
  | 0x19 => [.s32, .l64]
  | 0x1A => [.s32, .l64]
  | 0x20 => [.l64, .x96]
  | 0x21 => [.l64, .x96]
  | 0x22 => [.l64]
  | 0x28 => [.l64]
  | 0x29 => [.l64, .x96]
  | 0x2A => [.l64, .x96]
  | 0x2B => [.l64]
  | 0x2C => [.l64, .x96]
  | 0x2D => [.l64, .x96]
  | 0x2E => [.l64]
  | 0x30 => [.l64, .x96]
  | 0x31 => [.l64, .x96]
  | 0x32 => [.s32, .l64]
  | 0x33 => [.l64, .x96]
  | 0x40 => [.l64]
  | 0x41 => [.l64]
  | 0x42 => [.l64]
  | 0x43 => [.l64]
  | 0x44 => [.l64]
  | 0x45 => [.l64, .x96]
  | 0x50 => [.l64]
  | 0x51 => [.l64]
  | 0x58 => [.l64]
  | 0x59 => [.l64]
  | 0x5A => [.l64]
  | 0x5B => [.l64, .x96]
  | 0x5C => [.l64, .x96]
  | 0x5D => [.l64]
  | 0x5E => [.l64]
  | 0x5F => [.l64, .x96]
  | 0x68 => [.l64, .x96]
  | 0x69 => [.l64, .x96]
  | 0x6A => [.l64, .x96]
  | 0x6B => [.l64, .x96]
  | 0x70 => [.l64, .x96]
  | 0x71 => [.l64, .x96]
  | 0x72 => [.x96]
  | 0x73 => [.l64, .x96]
  | 0x74 => [.l64, .x96]
  | 0x78 => [.l64, .x96]
  | 0x79 => [.l64]
  | 0x7A => [.l64]
  | 0x7C => [.l64, .x96]
  | 0x7D => [.l64, .x96]
  | _ => []

/-! ### Field checks -/

def Sel.ok (q : Sel) (o : Operands) : Bool :=
  match q with
  | .all => true
  | .within l => l.contains o.imm.toNat
  | .outside l => !(l.contains o.imm.toNat)
  | .opc n => o.im 8 4 == n
  | .second l => l.contains o.dty

def Row.admitsForm (r : Row) : Form → Bool
  | .s32 => r.s
  | .l64 => r.l && !r.s
  | .x96 => r.x

/-- Does the row assign this FN, form and immediate an instruction (R50)? -/
def Row.matches (r : Row) (o : Operands) : Bool :=
  r.admitsForm o.form && (o.fn.toNat &&& r.fnMask) == r.fnVal && r.sel.ok o

/-- The row of an instruction's OP, FN and form. -/
def rowOf (o : Operands) : Option Row := (rowsOf o.op.toNat).find? (·.matches o)

/-- Is a field that names a register legal (R38)? ind: named through XA or XD, so a scalar number (R46). t: the type of
the operand. -/
def RegK.ok (k : RegK) (o : Operands) (ind : Bool) (t : Ty) (r : BitVec 6) : Bool :=
  let vec := if ind then decide (r.toNat < 32) else (t.width != 3 || r.toNat % 2 == 0)
  let scal := decide (r.toNat < 32)
  match k with
  | .z => r == 0
  | .s => scal
  | .v | .vfn => vec
  | .p | .acc | .m => decide (r.toNat < 8)
  | .fnA => if o.fnBits 0 1 == 1 then scal else vec
  | .fnB => if o.fnBits 1 1 == 1 then scal else vec

def TyK.ok (k : TyK) (t : Ty) : Bool :=
  match k with
  | .zero => t == .i8
  | .of l => l.contains t

def RmK.ok (k : RmK) (rm : BitVec 3) : Bool :=
  match k with
  | .zero => rm == 0
  | .reads => rm != 6
  | .ignored => rm == 0 || rm == 7

/-- R202: a form with these subfields is L64; XK = 0 with XG or XN nonzero, and XK ≠ 0 with XN = 0, are illegal. -/
def crossOk (o : Operands) (free : Nat) : Bool :=
  let raw := o.imm.toNat &&& (0xFFFFFFFF ^^^ free)
  o.form != .x96 && (raw &&& 0x1C0) == 0 && (raw == 0 || (o.im 10 2 != 0 && o.im 0 6 != 0))

def ImmK.ok (k : ImmK) (o : Operands) : Bool :=
  match k with
  | .zero => o.imm == 0
  | .any => true
  | .sub mask => (o.imm.toNat &&& (0xFFFFFFFF ^^^ mask)) == 0
  | .cross free => crossOk o free

def AuxK.ok (k : AuxK) (o : Operands) : Bool :=
  match k with
  | .zero => o.aux == 0
  | .any => true
  | .sub mask => (o.aux.toNat &&& (0x3FF ^^^ mask)) == 0

/-- Step 7 of R51: every field check (R38, R40, R41, R43 to R46, R48, R53 for CV). -/
def Row.fieldsOk (r : Row) (o : Operands) : Bool :=
  r.d.ok o o.xd (if r.d == .vfn then o.dty else o.ty) o.d && r.a.ok o o.xa o.ty o.a && r.b.ok o false o.ty o.b &&
  (if r.g then o.g != 8 else o.g == 0) && r.ty.ok o.ty && r.rm.ok o.rm && (r.u || !o.u) && (r.xd || !o.xd) &&
  (r.xa || !o.xa) && r.imm.ok o && r.aux.ok o && (r.cls != .none || !o.cv) && r.chk o

/-- The feature level an encoding needs (R55): its row's, or 2 for E2M1 or SF4 where TYPE, or the second type of a
conversion, accepts it. -/
def Row.levelOf (r : Row) (o : Operands) : Nat :=
  let four := fun t : Ty => t == .e2m1 || t == .sf4
  if (four o.ty && r.ty.ok o.ty) || (r.fnTy && o.dty == .e2m1) then 2 else r.level

/-- The causes decoding can answer (R51). -/
inductive DecodeCause where
  | ill | illRsv | illLevel
deriving DecidableEq, Repr

/-- The level of an opcode whose OPC, where it is not listed, fails a field check of step 7, behind the level of the
opcode (R267). -/
def bareLevel (op : Nat) : Nat := if op = 0x78 ∨ op = 0x79 ∨ op = 0x7A then 2 else 0

/-- Steps 3 to 7 of R51 on the fields of an instruction, for a strand of the given level: the row of the instruction. -/
def classifyRow (level : Nat) (o : Operands) : Except DecodeCause Row :=
  let op := o.op.toNat
  if op != 0 && (formsOf op).isEmpty then .error .illRsv
  else if !((formsOf op).contains o.form) then .error .ill
  else match rowOf o with
    | none => if level < bareLevel op then .error .illLevel else .error .ill
    | some r => if level < r.levelOf o then .error .illLevel
                else if r.fieldsOk o then .ok r else .error .ill

/-- The instruction of the fields, by the checks of classifyRow. -/
noncomputable def classify (level : Nat) (o : Operands) : Except DecodeCause Instr :=
  match classifyRow level o with
  | .ok r => .ok (r.mn.instr o)
  | .error c => .error c

/-! ### Parcels -/

def field (w : Nat) (lo n : Nat) : Nat := w / 2 ^ lo % 2 ^ n

/-- The LEN field (R31); 0b11 names no form. -/
def formOf (p0 : Nat) : Option Form :=
  match p0 % 4 with
  | 0 => some .s32
  | 1 => some .l64
  | 2 => some .x96
  | _ => none

def bit (w n : Nat) : Bool := field w n 1 == 1

/-- The fields of an instruction of a form (R32 to R36). -/
def unpack (f : Form) (p0 p1 p2 : Nat) : Operands :=
  match f with
  | .s32 =>
    { form := .s32, op := .ofNat 7 (field p0 3 7), fn := .ofNat 8 (field p0 28 4), cv := bit p0 2, g := 0,
      d := .ofNat 6 (field p0 10 6), a := .ofNat 6 (field p0 16 6), b := .ofNat 6 (field p0 22 6),
      xa := false, xd := false, u := false, ty := .i8, rm := 0, imm := 0, aux := 0 }
  | f =>
    { form := f, op := .ofNat 7 (field p0 3 7), fn := .ofNat 8 (field p1 0 8), cv := bit p0 2,
      g := .ofNat 4 (field p0 10 4), d := .ofNat 6 (field p0 14 6), a := .ofNat 6 (field p0 20 6),
      b := .ofNat 6 (field p0 26 6), xa := bit p1 15, xd := bit p1 16, u := bit p1 17,
      ty := Ty.ofCode (.ofNat 4 (field p1 8 4)), rm := .ofNat 3 (field p1 12 3),
      imm := match f with
        | .x96 => .ofNat 32 (field p2 0 32)
        | _ => .ofNat 32 (field p1 20 12),
      aux := match f with
        | .x96 => .ofNat 10 (field p1 22 10)
        | _ => 0 }

/-- The instruction of up to three parcels, for a strand of the given level; the length comes from LEN. Parcels that the
form does not have are not read. -/
noncomputable def decodeParcels (level p0 p1 p2 : Nat) : Except DecodeCause Instr :=
  match formOf p0 with
  | none => .error .ill
  | some f => classify level (unpack f p0 p1 p2)

/-- The instruction that bytes hold, lowest address first, and how many of them it takes: none where decoding refuses or
bytes are missing. -/
noncomputable def decodeBytes (level : Nat) (bytes : List Byte) : Option (Instr × List Byte) :=
  let le := fun (l : List Byte) => l.foldr (fun b acc => b.toNat + 256 * acc) 0
  let par := fun k => le ((bytes.drop (4 * k)).take 4)
  match formOf (par 0) with
  | none => none
  | some f =>
    if bytes.length < 4 * f.parcels then none
    else match classify level (unpack f (par 0) (par 1) (par 2)) with
      | .ok i => some (i, bytes.drop (4 * f.parcels))
      | .error _ => none

/-! ### The encoder -/

def bitVal (b : Bool) : Nat := if b then 1 else 0

/-- The parcels of the fields, hints 0 (R32 to R36). -/
def pack (o : Operands) : Nat × Nat × Nat :=
  match o.form with
  | .s32 =>
    (0 + 4 * bitVal o.cv + 8 * o.op.toNat + 1024 * o.d.toNat + 65536 * o.a.toNat + 4194304 * o.b.toNat
      + 268435456 * o.fn.toNat, 0, 0)
  | f =>
    ((if f = .l64 then 1 else 2) + 4 * bitVal o.cv + 8 * o.op.toNat + 1024 * o.g.toNat + 16384 * o.d.toNat
        + 1048576 * o.a.toNat + 67108864 * o.b.toNat,
     o.fn.toNat + 256 * o.ty.code.toNat + 4096 * o.rm.toNat + 32768 * bitVal o.xa + 65536 * bitVal o.xd
        + 131072 * bitVal o.u + (if f = .l64 then 1048576 * o.imm.toNat else 4194304 * o.aux.toNat),
     if f = .l64 then 0 else o.imm.toNat)

/-- The words of an instruction; an event has none. -/
def encode (i : Instr) : List Parcel :=
  match i.ops with
  | none => []
  | some o =>
    let (p0, p1, p2) := pack o
    ([p0, p1, p2].take o.form.parcels).map (.ofNat 32)

/-- The bytes of parcels as memory holds them, little-endian (R28). -/
def parcelBytes (ps : List Parcel) : List Byte :=
  ps.flatMap fun p => [0, 1, 2, 3].map fun k => .ofNat 8 (p.toNat / 256 ^ k)

/-- HOST INTERFACE. The instruction that the decoder reads from the bits w, numbered from the first word's bit 0, at
feature level 2. -/
noncomputable def decodeTableWord (nbits w : Nat) : Option Instr :=
  let v := w % 2 ^ nbits
  (decodeBytes 2 ((List.range 12).map fun k => .ofNat 8 (v / 256 ^ k))).map (·.1)

end Sys2Proof
end

