-- ==== Sys2Proof/Machine/Num.lean ====
section
/-! DEFINITION. Numbers: the exact values of 09_number_formats.md, their decoding, and RoundTo with its flags. A finite
value is (-1)^neg × m × 2^e. Where a value is irrational or has no end, a positive tail below one unit of m is marked. -/

namespace Sys2Proof.Machine

/-- A decoded value (R177, R178). tail: the magnitude lies strictly between m × 2^e and (m + 1) × 2^e. -/
inductive Num where
  | nan (signalling : Bool)
  | inf (neg : Bool)
  | fin (neg : Bool) (m : Nat) (e : Int) (tail : Bool)
deriving DecidableEq, Repr

/-- The five exception flags of an operation (R170). -/
structure Flags where
  nv : Bool
  dz : Bool
  of : Bool
  uf : Bool
  nx : Bool
deriving DecidableEq, Repr

def Flags.none : Flags := ⟨false, false, false, false, false⟩
def Flags.invalid : Flags := ⟨true, false, false, false, false⟩
def Flags.or (a b : Flags) : Flags := ⟨a.nv || b.nv, a.dz || b.dz, a.of || b.of, a.uf || b.uf, a.nx || b.nx⟩

/-- The field widths and bias of a float type (R176). -/
structure Fmt where
  eb : Nat
  mb : Nat
  bias : Nat
deriving DecidableEq, Repr

def fmtOf : Ty → Fmt
  | .f64 => ⟨11, 52, 1023⟩
  | .f16 => ⟨5, 10, 15⟩
  | .bf16 => ⟨8, 7, 127⟩
  | .e4m3 => ⟨4, 3, 7⟩
  | .e5m2 => ⟨5, 2, 15⟩
  | .e2m1 | .sf4 => ⟨2, 1, 1⟩
  | _ => ⟨8, 23, 127⟩

def isFloatTy : Ty → Bool
  | .f64 | .f32 | .f16 | .bf16 | .e4m3 | .e5m2 | .e2m1 | .sf4 => true
  | _ => false

/-- Types that FZ applies to (R179). -/
def fzTy : Ty → Bool
  | .f64 | .f32 | .f16 | .bf16 => true
  | _ => false

def Num.zero : Num := .fin false 0 0 false
def Num.one : Num := .fin false 1 0 false

def Num.ofInt (x : Int) : Num := .fin (x < 0) x.natAbs 0 false

/-- Decode (R187): the value of the bits of a float type. -/
def decodeFloat (t : Ty) (bits : Nat) : Num :=
  let f := fmtOf t
  let m := bits % 2 ^ f.mb
  let e := bits / 2 ^ f.mb % 2 ^ f.eb
  let neg := bits / 2 ^ (f.mb + f.eb) % 2 == 1
  let top := 2 ^ f.eb - 1
  let value := if e == 0 then Num.fin neg m (1 - (f.bias : Int) - f.mb) false
    else .fin neg (m + 2 ^ f.mb) ((e : Int) - f.bias - f.mb) false
  match t with
  | .e2m1 | .sf4 => value
  | .e4m3 => if e == top && m == 7 then .nan false else value
  | _ => if e == top then (if m == 0 then .inf neg else .nan (m / 2 ^ (f.mb - 1) == 0)) else value

/-- The value of an integer type's bits (R174). -/
def decodeInt (t : Ty) (bits : Nat) : Int :=
  let w := t.bits
  let u := bits % 2 ^ w
  if t.signed && u ≥ 2 ^ (w - 1) then (u : Int) - 2 ^ w else u

/-- Operand reading of an instruction that reads fcsr (R179). -/
def decodeFz (fz : Bool) (t : Ty) (bits : Nat) : Num :=
  match decodeFloat t bits with
  | .fin neg m e tail =>
    let f := fmtOf t
    if fz && fzTy t && bits / 2 ^ f.mb % 2 ^ f.eb == 0 && m != 0 then .fin neg 0 0 false else .fin neg m e tail
  | x => x

/-- The canonical NaN (R176); E2M1 has none, and gives +0 (R178). -/
def canonNan : Ty → Nat
  | .f64 => 0x7FF8000000000000
  | .f32 => 0x7FC00000
  | .f16 => 0x7E00
  | .bf16 => 0x7FC0
  | .e4m3 => 0x7F
  | .e5m2 => 0x7E
  | _ => 0

/-- The integer of largest magnitude in units of the last exponent: the largest finite encoding (R176). -/
def maxFinite (t : Ty) : Nat :=
  let f := fmtOf t
  match t with
  | .e4m3 => 0x7E
  | .e2m1 | .sf4 => 0x7
  | _ => (2 ^ f.eb - 2) * 2 ^ f.mb + (2 ^ f.mb - 1)

def infBits (t : Ty) : Nat := let f := fmtOf t; (2 ^ f.eb - 1) * 2 ^ f.mb

def signBit (t : Ty) (neg : Bool) : Nat := let f := fmtOf t; if neg then 2 ^ (f.mb + f.eb) else 0

/-- Codes of R43. -/
abbrev rne : Nat := 0
abbrev rtz : Nat := 1
abbrev rdn : Nat := 2
abbrev rup : Nat := 3
abbrev rna : Nat := 4
abbrev rsr : Nat := 5

/-- Does rounding a magnitude of q whole units and r / den of a unit, and perhaps a tail, go away from zero (R180, R182)?
sr is the lane's new state. -/
def roundsUp (mode : Nat) (neg : Bool) (q r den : Nat) (tail : Bool) (sr : Nat) : Bool :=
  if r == 0 && !tail then false
  else if mode == 0 then decide (2 * r > den) || (2 * r == den && (tail || q % 2 == 1))
  else if mode == 1 then false
  else if mode == 2 then neg
  else if mode == 3 then !neg
  else if mode == 4 then decide (2 * r ≥ den)
  else decide (sr ≤ r * 65536 / den)

/-- A magnitude m × 2^e rounded to units of 2^u: the units, and whether it was inexact. -/
def roundUnits (mode : Nat) (neg : Bool) (m : Nat) (e u : Int) (tail : Bool) (sr : Nat) : Nat × Bool :=
  if e ≥ u then
    let q := m * 2 ^ (e - u).toNat
    (if roundsUp mode neg q 0 1 tail sr then q + 1 else q, tail)
  else
    let den := 2 ^ (u - e).toNat
    let q := m / den
    let r := m % den
    (if roundsUp mode neg q r den tail sr then q + 1 else q, r != 0 || tail)

/-- What overflow, or an infinity, gives (R183, R184). -/
def overflowBits (t : Ty) (mode : Nat) (sat : Bool) (neg isInf : Bool) : Nat × Flags :=
  let big := signBit t neg + maxFinite t
  let inf := signBit t neg + infBits t
  let ovf : Flags := ⟨false, false, true, false, true⟩
  match t with
  | .e4m3 => if sat then (big, ovf) else (0x7F, if isInf then .invalid else ovf)
  | .e2m1 | .sf4 => (big, ovf)
  | _ =>
    if t == .e5m2 && sat then (big, ovf)
    else if isInf then (inf, .none)
    else if mode == 0 || mode == 4 || mode == 5 || (mode == 3 && !neg) || (mode == 2 && neg) then (inf, ovf)
    else (big, ovf)

/-- RoundTo and Encode (R180 to R187): the bits and the flags. sr: the new stochastic state. -/
def roundTo (t : Ty) (mode : Nat) (fz sat : Bool) (sr : Nat) (x : Num) : Nat × Flags :=
  match x with
  | .nan s => (canonNan t, if s || t == .e2m1 || t == .sf4 then .invalid else .none)
  | .inf neg => overflowBits t mode sat neg true
  | .fin neg m e tail =>
    let f := fmtOf t
    if m == 0 && !tail then (signBit t neg, .none)
    else
      let lg : Int := (Nat.log2 m : Int) + e
      let emin : Int := 1 - (f.bias : Int)
      let ex := if lg < emin then emin else lg
      let (q, inex) := roundUnits mode neg m e (ex - f.mb) tail sr
      let tiny := decide (lg < emin) && inex &&
        !(decide (lg + 1 = emin) && (roundUnits mode neg m e (lg - f.mb) tail sr).1 == 2 ^ (f.mb + 1))
      -- q < 2^(mb+1) or q = 2^(mb+1), the next binade: both are read off by the encoding's arithmetic
      let enc := q + (ex - emin).toNat * 2 ^ f.mb
      if enc > maxFinite t then overflowBits t mode sat neg false
      else if fz && fzTy t && q != 0 && enc < 2 ^ f.mb then (signBit t neg, ⟨false, false, false, true, true⟩)
      else (signBit t neg + enc, ⟨false, false, false, tiny, inex⟩)

/-- A number rounded to an integer (R232), and whether it was inexact; none for a NaN or an infinity. -/
def roundInt (mode sr : Nat) (x : Num) : Option (Int × Bool) :=
  match x with
  | .fin neg m e tail =>
    let (q, inex) := roundUnits mode neg m e 0 tail sr
    some (if neg then -(q : Int) else q, inex)
  | _ => none

def intMin (t : Ty) : Int := if t.signed then -(2 ^ (t.bits - 1) : Int) else 0
def intMax (t : Ty) : Int := if t.signed then (2 ^ (t.bits - 1) : Int) - 1 else (2 ^ t.bits : Int) - 1

/-- Sat of an integer (R175): the clamped value, and whether it clamped. -/
def satInt (t : Ty) (x : Int) : Int × Bool :=
  if x < intMin t then (intMin t, true) else if x > intMax t then (intMax t, true) else (x, false)

/-- The low W bits of an integer. -/
def truncBits (w : Nat) (x : Int) : Nat := (x % (2 ^ w : Int)).toNat

/-! ### Exact operations -/

def Num.isNan : Num → Bool
  | .nan _ => true
  | _ => false

def Num.isSnan : Num → Bool
  | .nan s => s
  | _ => false

def Num.negate : Num → Num
  | .nan s => .nan s
  | .inf n => .inf (!n)
  | .fin n m e t => .fin (!n) m e t

def Num.isZero : Num → Bool
  | .fin _ 0 _ false => true
  | _ => false

def Num.isNeg : Num → Bool
  | .inf n => n
  | .fin n _ _ _ => n
  | .nan _ => false

/-- The signed integer m of a finite exact value in units of 2^u, u at most its exponent. -/
def Num.units (x : Num) (u : Int) : Int :=
  match x with
  | .fin n m e _ => let k : Int := (m * 2 ^ (e - u).toNat : Nat); if n then -k else k
  | _ => 0

def Num.expo : Num → Int
  | .fin _ _ e _ => e
  | _ => 0

/-- a + b with its NV condition (R224, R225). An exact zero sum of opposite signs is -0 under rdn and +0 otherwise. -/
def Num.add (mode : Nat) (a b : Num) : Num × Bool :=
  match a, b with
  | .nan s, y => (.nan false, s || y.isSnan)
  | _, .nan s => (.nan false, s)
  | .inf x, .inf y => if x == y then (.inf x, false) else (.nan false, true)
  | .inf x, _ => (.inf x, false)
  | _, .inf y => (.inf y, false)
  | .fin n1 m1 e1 _, .fin n2 m2 e2 _ =>
    if m1 == 0 && m2 == 0 then (.fin (if n1 == n2 then n1 else mode == 2) 0 0 false, false)
    else
      let u := if m1 == 0 then e2 else if m2 == 0 then e1 else min e1 e2
      let k : Int := (if m1 == 0 then 0 else a.units u) + (if m2 == 0 then 0 else b.units u)
      if k == 0 then (.fin (mode == 2) 0 0 false, false) else (.fin (k < 0) k.natAbs u false, false)

/-- a × b with its NV condition. -/
def Num.mul (a b : Num) : Num × Bool :=
  match a, b with
  | .nan s, y => (.nan false, s || y.isSnan)
  | _, .nan s => (.nan false, s)
  | .inf x, y => if y.isZero then (.nan false, true) else (.inf (x != y.isNeg), false)
  | x, .inf y => if x.isZero then (.nan false, true) else (.inf (x.isNeg != y), false)
  | .fin n1 m1 e1 _, .fin n2 m2 e2 _ => (.fin (n1 != n2) (m1 * m2) (e1 + e2) false, false)

/-- ONE exact sum (R196), whose value and NV condition do not depend on the order of its terms: infinities of both signs
are invalid, and any NaN gives NaN. -/
def Num.sum (mode : Nat) (l : List Num) : Num × Bool :=
  let clash := l.contains (.inf true) && l.contains (.inf false)
  if clash || l.any Num.isNan then (.nan false, clash || l.any Num.isSnan)
  else match l with
    | [] => (.zero, false)
    | x :: xs => (xs.foldl (fun acc y => (acc.add mode y).1) x, false)

/-- d + a × b, or d - a × b, exactly (R225). -/
def Num.fma (mode : Nat) (sub : Bool) (d a b : Num) : Num × Bool :=
  let (p, nv) := a.mul b
  let p := if sub then p.negate else p
  let (r, nv2) := d.add mode p
  (r, nv || nv2 || d.isSnan)

/-- Bits of quotient and root kept above the tail: enough for every format and for R182's 16 bits. -/
abbrev workBits : Nat := 100

/-- The magnitude m1 / m2 with workBits bits and a tail. -/
def divMag (m1 m2 : Nat) (e : Int) (neg : Bool) : Num :=
  let k := workBits + Nat.log2 m2
  .fin neg (m1 * 2 ^ k / m2) (e - k) (m1 * 2 ^ k % m2 != 0)

/-- a / b: the quotient, NV and DZ (R226). -/
def Num.div (a b : Num) : Num × Bool × Bool :=
  match a, b with
  | .nan s, y => (.nan false, s || y.isSnan, false)
  | _, .nan s => (.nan false, s, false)
  | .inf _, .inf _ => (.nan false, true, false)
  | .inf x, y => (.inf (x != y.isNeg), false, false)
  | x, .inf y => (.fin (x.isNeg != y) 0 0 false, false, false)
  | .fin n1 m1 e1 _, .fin n2 m2 e2 _ =>
    if m2 == 0 then (if m1 == 0 then (.nan false, true, false) else (.inf (n1 != n2), false, true))
    else if m1 == 0 then (.fin (n1 != n2) 0 0 false, false, false)
    else (divMag m1 m2 (e1 - e2) (n1 != n2), false, false)

/-- floor of the square root, bit by bit from bit k - 1 down. -/
def isqrtAux (x : Nat) : Nat → Nat → Nat
  | 0, r => r
  | k + 1, r => isqrtAux x k (if (r + 2 ^ k) * (r + 2 ^ k) ≤ x then r + 2 ^ k else r)

def isqrt (x : Nat) : Nat := isqrtAux x (Nat.log2 x / 2 + 1) 0

/-- √a: the root and NV (R226). -/
def Num.sqrt (a : Num) : Num × Bool :=
  match a with
  | .nan s => (.nan false, s)
  | .inf false => (.inf false, false)
  | .inf true => (.nan false, true)
  | .fin n m e _ =>
    if m == 0 then (.fin n 0 0 false, false)
    else if n then (.nan false, true)
    else
      let k := 2 * workBits + (if (e - 2 * (workBits : Int)) % 2 == 0 then 0 else 1)
      let x := m * 2 ^ k
      let r := isqrt x
      (.fin false r ((e - k) / 2) (r * r != x), false)

/-- 1/√a: the value, NV and DZ (R226). -/
def Num.rsqrt (a : Num) : Num × Bool × Bool :=
  match a with
  | .nan s => (.nan false, s, false)
  | .inf false => (.fin false 0 0 false, false, false)
  | .inf true => (.nan false, true, false)
  | .fin n m e _ =>
    if m == 0 then (.inf n, false, true)
    else if n then (.nan false, true, false)
    else
      -- 1/√(m 2^e) = 2^-j √(2^k / m) with k - 2j = -e
      let k := 2 * workBits + 2 * Nat.log2 m + (if e % 2 == 0 then 0 else 1)
      let r := isqrt (2 ^ k / m)
      (.fin false r ((-(e + k)) / 2) (r * r * m != 2 ^ k), false, false)

/-- Fraction bits of exp2 and log2 (log entry 20). -/
abbrev fracBits : Nat := 320

/-- floor(ln 2 × 2^384). -/
abbrev ln2Fixed : Nat := 0xb17217f7d1cf79abc9e3b39803f2f6af40f343267298b62d8a0d175b8baafa2be7b876206debac98559552fb4afa1b10

/-- Terms k, k + 1, ... of the series of e^y, y in units of 2^-384. -/
def expSeries (y : Nat) : Nat → Nat → Nat → Nat → Nat
  | 0, _, _, acc => acc
  | n + 1, k, term, acc =>
    let t := term * y / 2 ^ 384 / k
    expSeries y n (k + 1) t (acc + t)

/-- 2^f for a fraction f in units of 2^-384, in units of 2^-320, below 2 and at least 1. -/
def exp2Frac (f : Nat) : Nat :=
  let y := f * ln2Fixed / 2 ^ 384
  let v := expSeries y 90 1 (2 ^ 384) (2 ^ 384) / 2 ^ 64
  min (max v (2 ^ 320)) (2 ^ 321 - 1)

/-- 2^a: the value and NV (R226). -/
def Num.exp2 (a : Num) : Num × Bool :=
  match a with
  | .nan s => (.nan false, s)
  | .inf false => (.inf false, false)
  | .inf true => (.fin false 0 0 false, false)
  | .fin n m e _ =>
    if m == 0 then (.one, false)
    else if decide ((Nat.log2 m : Int) + e ≥ 15) then
      -- beyond every format's range
      (.fin false 1 (if n then -40000 else 40000) true, false)
    else if e ≥ 0 then
      let k : Int := (m * 2 ^ e.toNat : Nat)
      (.fin false 1 (if n then -k else k) false, false)
    else
      let den := 2 ^ (-e).toNat
      let whole : Int := (m / den : Nat)
      let r := m % den
      if r == 0 then (.fin false 1 (if n then -whole else whole) false, false)
      else
        let up := r * 2 ^ 384 / den
        let f := if n then 2 ^ 384 - up - (if r * 2 ^ 384 % den == 0 then 0 else 1) else up
        let ip : Int := if n then -whole - 1 else whole
        (.fin false (exp2Frac f) (ip - 320) true, false)

/-- The bits of log2 x, x in [1, 2) in units of 2^-420, by squaring. -/
def log2Bits : Nat → Nat → Nat → Nat
  | 0, _, acc => acc
  | n + 1, x, acc =>
    let y := x * x / 2 ^ 420
    if y ≥ 2 ^ 421 then log2Bits n (y / 2) (2 * acc + 1) else log2Bits n y (2 * acc)

/-- log2 a: the value, NV and DZ (R226). -/
def Num.log2 (a : Num) : Num × Bool × Bool :=
  match a with
  | .nan s => (.nan false, s, false)
  | .inf false => (.inf false, false, false)
  | .inf true => (.nan false, true, false)
  | .fin n m e _ =>
    if m == 0 then (.inf true, false, true)
    else if n then (.nan false, true, false)
    else
      let lg := Nat.log2 m
      let whole : Int := (lg : Int) + e
      if m == 2 ^ lg then (if whole == 0 then (.zero, false, false) else (.ofInt whole, false, false))
      else
        let fr := log2Bits fracBits (m * 2 ^ 420 / 2 ^ lg) 0
        let v : Int := whole * 2 ^ fracBits + fr
        if v ≥ 0 then (.fin false v.toNat (-(fracBits : Int)) true, false, false)
        else (.fin true (-v - 1).toNat (-(fracBits : Int)) true, false, false)

/-- a compared with b: negative, zero, positive; none when either is a NaN. -/
def Num.cmp (a b : Num) : Option Int :=
  match a, b with
  | .nan _, _ => none
  | _, .nan _ => none
  | .inf x, .inf y => some (if x == y then 0 else if x then -1 else 1)
  | .inf x, _ => some (if x then -1 else 1)
  | _, .inf y => some (if y then 1 else -1)
  | .fin _ m1 e1 _, .fin _ m2 e2 _ =>
    let u := if m1 == 0 then e2 else if m2 == 0 then e1 else min e1 e2
    some ((if m1 == 0 then 0 else a.units u) - (if m2 == 0 then 0 else b.units u))

/-- floor(log2 |x|) of a finite nonzero value (R193). -/
def Num.eps (x : Num) : Option Int :=
  match x with
  | .fin _ m e _ => if m == 0 then none else some ((Nat.log2 m : Int) + e)
  | _ => none

/-- x × 2^k. -/
def Num.scale (x : Num) (k : Int) : Num :=
  match x with
  | .fin n m e t => .fin n m (e + k) t
  | y => y

/-! ### Scale formats (R188) -/

/-- E8M0: the exponent, or none for the NaN. -/
def e8m0 (b : Nat) : Option Int := if b == 255 then none else some ((b : Int) - 127)

/-- E3M5 as a value. -/
def e3m5 (b : Nat) : Num :=
  let e := b / 32; let m := b % 32
  if e == 0 then .fin false m (-7) false else .fin false (32 + m) ((e : Int) - 8) false

/-- The percentile clip exponent (R193) of the exponents of the finite nonzero elements. -/
def clipExp (es : List Int) (qpct : Nat) : Option Int :=
  match es with
  | [] => none
  | e0 :: rest =>
    let t := (qpct * es.length + 65535) / 65536
    let ok := es.filter fun e => decide ((es.filter fun x => decide (x ≤ e)).length ≥ t)
    match ok with
    | [] => some (rest.foldl max e0)
    | k :: ks => some (ks.foldl min k)

/-- emax of R190. -/
def emaxOf : Ty → Int
  | .e4m3 => 8
  | .e5m2 => 15
  | _ => 2

/-- The E8M0 byte of an MX block (R190). -/
def mxScale (t : Ty) (es : List Int) (qpct : Nat) : Nat :=
  match clipExp es qpct with
  | none => 127
  | some e => (min (max (e - emaxOf t) (-127)) 127 + 127).toNat

/-- The magnitude of a finite value, as a comparable value. -/
def Num.abs : Num → Num
  | .fin _ m e t => .fin false m e t
  | .inf _ => .inf false
  | x => x

def Num.lt (a b : Num) : Bool :=
  match a.cmp b with
  | some k => decide (k < 0)
  | none => false

def Num.le (a b : Num) : Bool :=
  match a.cmp b with
  | some k => decide (k ≤ 0)
  | none => false

def maxAbs (xs : List Num) : Num := xs.foldl (fun acc x => if acc.lt x.abs then x.abs else acc) .zero

/-- The E3M5 byte of a sorus under band scale B (R194): the smallest s with 6 × |B| × s at least a_c; 0 when no element
counts or B is zero, infinite or NaN. -/
def sf4Scale (xs : List Num) (qpct : Nat) (band : Num) : Nat :=
  let usable := match band with
    | .fin _ m _ _ => m != 0
    | _ => false
  match clipExp (xs.filterMap Num.eps) qpct with
  | none => 0
  | some ec =>
    if !usable then 0
    else
      let ac := maxAbs (xs.filter fun x => match x.eps with
        | some e => decide (e ≤ ec)
        | none => false)
      let unit := ((Num.ofInt 6).mul band.abs).1
      ((List.range 256).find? fun s => ac.le (unit.mul (e3m5 s)).1).getD 255

/-- Encode(E2M1, x / (s × B), rm) of R194 and R237. -/
def sf4Quot (x : Num) (s : Num) (band : Num) : Num := (x.div (s.mul band).1).1

end Sys2Proof.Machine
end

