-- ==== Sys2Proof/Machine/Regs.lean ====
section
/-! DEFINITION. The registers of a strand: reading and writing them, element placement, dirty maps, taint and the open
convoy. One home each: nothing else touches the files. -/

namespace Sys2Proof.Machine

/-! ### Scalars, predicates -/

/-- A scalar register; s0 reads zero (R39). -/
def Strand.s (t : Strand) (n : Nat) : Word := if n = 0 then 0 else Store.get t.regs.s n

/-- Write a scalar register; a write to s0 is discarded (R39). -/
def Strand.setS (t : Strand) (n : Nat) (x : Word) : Strand :=
  if n = 0 then t else { t with regs := { t.regs with s := Store.set t.regs.s n x } }

/-- Bit i of a predicate register; p0 reads all ones (R39, R152). -/
def Strand.p (t : Strand) (n i : Nat) : Bool := if n = 0 then true else (Store.get t.regs.p n).getLsbD i

/-- x with bit i made b. -/
def putBit {w : Nat} (x : BitVec w) (i : Nat) (b : Bool) : BitVec w :=
  if b then x ||| BitVec.ofNat w (2 ^ i) else x &&& ~~~(BitVec.ofNat w (2 ^ i))

/-- Write bit i of a predicate register, i below 4 gvl; a write to p0 is discarded. -/
def Strand.setP (t : Strand) (n i : Nat) (b : Bool) : Strand :=
  if n = 0 then t else { t with regs := { t.regs with p := Store.set t.regs.p n (putBit (Store.get t.regs.p n) i b) } }

/-- Write a whole predicate register. -/
def Strand.setPAll (t : Strand) (n : Nat) (x : BitVec 16384) : Strand :=
  if n = 0 then t else { t with regs := { t.regs with p := Store.set t.regs.p n x } }

/-! ### Vector elements (R154, R155) -/

/-- Elements in a slot. -/
def epslot (w : Nat) : Nat := if w = 0 then 4 else if w = 1 then 2 else 1

def Strand.gvl (t : Strand) : Nat := t.csr.gvl.toNat

/-- VLMAX(w) (R154). -/
def vlmaxOf (gvl w : Nat) : Nat := gvl * epslot w

def Strand.vlmax (t : Strand) (w : Nat) : Nat := vlmaxOf t.gvl w

def slotOf (w i : Nat) : Nat := i / epslot w
def laneOf (w i : Nat) : Nat := slotOf w i % 64

def Strand.ew (t : Strand) : Nat := t.csr.ew.toNat
def Strand.vl (t : Strand) : Nat := t.csr.vl.toNat

/-- n bytes of register r from byte b, little-endian. -/
def Strand.vBytes (t : Strand) (r b n : Nat) : Nat := t.regs.v.getLE (16384 * r + b) n

/-- Write n bytes of register r at byte b. -/
def Strand.setVBytes (t : Strand) (r b n x : Nat) : Strand :=
  { t with regs := { t.regs with v := t.regs.v.setLE (16384 * r + b) n x } }

/-- Elem(v r, i) at width code w: the low W bits hold the element. -/
def Strand.elem (t : Strand) (w r i : Nat) : Nat :=
  match w with
  | 3 => t.vBytes r (4 * i) 4 + 2 ^ 32 * t.vBytes (r + 1) (4 * i) 4
  | w => t.vBytes r (i * 2 ^ w) (2 ^ w)

/-- Both dirty maps take bit r (R161), and the register differs from what was loaded of it (R158). -/
def Strand.markDirty (t : Strand) (r : Nat) : Strand :=
  { t with ctxDirty := putBit t.ctxDirty r true, csr := { t.csr with dmap := putBit t.csr.dmap r true },
           fileDirty := putBit t.fileDirty r true }

/-- SetElem(v r, i, x) at width code w, with the dirty maps. -/
def Strand.setElem (t : Strand) (w r i x : Nat) : Strand :=
  match w with
  | 3 => (((t.setVBytes r (4 * i) 4 x).setVBytes (r + 1) (4 * i) 4 (x / 2 ^ 32)).markDirty r).markDirty (r + 1)
  | w => (t.setVBytes r (i * 2 ^ w) (2 ^ w) x).markDirty r

/-- Slot i of a register as a 32-bit word, whatever ew holds. -/
def Strand.word (t : Strand) (r i : Nat) : BitVec 32 := BitVec.ofNat 32 (t.elem 2 r i)

/-! ### Control registers -/

/-- Set the flags of an operation (R170); sticky. -/
def Strand.raise (t : Strand) (f : Flags) : Strand :=
  let m := bitVal f.nv * 0x100 + bitVal f.dz * 0x200 + bitVal f.of * 0x400 + bitVal f.uf * 0x800 + bitVal f.nx * 0x1000
  { t with csr := { t.csr with fcsr := t.csr.fcsr ||| BitVec.ofNat 64 m } }

def Strand.fcsrBit (t : Strand) (n : Nat) : Bool := t.csr.fcsr.getLsbD n
def Strand.fz (t : Strand) : Bool := t.fcsrBit 24
def Strand.rnd (t : Strand) : Nat := t.csr.fcsr.toNat % 8

/-- Sticky bits of icsr (R171). -/
def Strand.raiseInt (t : Strand) (dz sat : Bool) : Strand :=
  { t with csr := { t.csr with icsr := t.csr.icsr ||| BitVec.ofNat 64 (bitVal dz + 4 * bitVal sat) } }

def Strand.setVl (t : Strand) (n : Nat) : Strand := { t with csr := { t.csr with vl := BitVec.ofNat 32 n } }
def Strand.setAl (t : Strand) (n : Nat) : Strand := { t with csr := { t.csr with al := BitVec.ofNat 32 n } }
def Strand.setVstart (t : Strand) (n : Nat) : Strand := { t with csr := { t.csr with vstart := BitVec.ofNat 32 n } }

/-- trim: the cause and the element of a stop (R171). -/
def Strand.setTrim (t : Strand) (cause k : Nat) : Strand :=
  { t with csr := { t.csr with trim := BitVec.ofNat 64 (cause % 65536 + 65536 * (k % 2 ^ 32)) } }

/-- LfsrStep (R181). -/
def srStep (x : BitVec 16) : BitVec 16 :=
  let t := (x ^^^ (x >>> 2) ^^^ (x >>> 3) ^^^ (x >>> 5)) &&& 1
  (x >>> 1) ||| (t <<< 15)

/-- Step the lane's state and answer it. -/
def Strand.stepSr (t : Strand) (lane : Nat) : Nat × Strand :=
  let x := srStep (Store.get t.regs.sigma lane)
  (x.toNat, { t with regs := { t.regs with sigma := Store.set t.regs.sigma lane x } })

/-! ### Accumulators, small matrices, slices -/

def Strand.accAt (t : Strand) (n r c : Nat) : BitVec 32 := Store.get t.regs.acc (3072 * n + 64 * r + c)
def Strand.setAcc (t : Strand) (n r c : Nat) (x : BitVec 32) : Strand :=
  { t with regs := { t.regs with acc := Store.set t.regs.acc (3072 * n + 64 * r + c) x } }

def Strand.mAt (t : Strand) (lane n r c : Nat) : BitVec 64 := Store.get t.regs.m (288 * lane + 36 * n + 6 * r + c)
def Strand.setM (t : Strand) (lane n r c : Nat) (x : BitVec 64) : Strand :=
  { t with regs := { t.regs with m := Store.set t.regs.m (288 * lane + 36 * n + 6 * r + c) x } }

def Strand.sliceGet (t : Strand) (lane off n : Nat) : Nat := t.regs.slice.getLE (16384 * lane + off) n

/-- Is a 64-byte group of a slice poisoned (R129)? -/
def Strand.slicePoisoned (t : Strand) (lane off : Nat) : Bool := t.regs.sliceBad.any fun k => k / 64 == (16384 * lane + off) / 64

/-- Keys that lie outside n keys from one on: a group of which none is left has been written whole (R129). -/
def keysOutside (k n : Nat) (l : List Nat) : List Nat := l.filter fun j => !(decide (k ≤ j) && decide (j < k + n))

def Strand.slicePut (t : Strand) (lane off n x : Nat) : Strand :=
  { t with regs := { t.regs with slice := t.regs.slice.setLE (16384 * lane + off) n x,
                                 sliceBad := keysOutside (16384 * lane + off) n t.regs.sliceBad } }

/-! ### Taint (R163, R283 to R285) -/

/-- The set of a register; s0 and p0 have none. -/
def Strand.taintOf (t : Strand) (r : RegId) : Taint :=
  match t.taint.find? (·.1 == r) with
  | some (_, x) => x
  | none => .empty

/-- Put a set in place of the register's old one. -/
def Strand.setTaint (t : Strand) (r : RegId) (x : Taint) : Strand :=
  let rest := t.taint.filter fun e => !(e.1 == r)
  if r == .s 0 || r == .p 0 || x == .empty then { t with taint := rest } else { t with taint := (r, x) :: rest }

/-- Union of what is still outstanding; a fifth tag makes the set ALL of every load older than the instruction that forms it (R284). -/
def Strand.joinTaint (t : Strand) (a b : Taint) : Taint :=
  let tags := ((a.tags ++ b.tags).eraseDups).filter fun k => t.outTags.contains k
  let all := if t.outTags.any fun k => decide (k < max a.all b.all) then max a.all b.all else 0
  if tags.length > 4 then ⟨[], max all t.nextTag⟩ else ⟨tags, all⟩

def Strand.unionOf (t : Strand) (rs : List RegId) : Taint :=
  rs.foldl (fun acc r => t.joinTaint acc (t.taintOf r)) .empty

/-- Join a set into a register's. -/
def Strand.addTaint (t : Strand) (r : RegId) (x : Taint) : Strand := t.setTaint r (t.joinTaint (t.taintOf r) x)

/-- A load takes the next tag, outstanding until it performs (R99, R283). -/
def Strand.newTag (t : Strand) : Taint × Strand :=
  (⟨[t.nextTag], 0⟩, { t with nextTag := t.nextTag + 1, outTags := t.outTags ++ [t.nextTag] })

/-- Loads with these tags have performed: the tags leave every set; an ALL whose loads have all performed empties. -/
def Strand.drainTags (t : Strand) (done : List Nat) : Strand :=
  let out := t.outTags.filter fun k => !(done.contains k)
  let clean := fun (x : Taint) => (⟨x.tags.filter fun k => !(done.contains k),
    if out.any (fun k => decide (k < x.all)) then x.all else 0⟩ : Taint)
  { t with outTags := out, later := clean t.later,
           taint := (t.taint.map fun e => (e.1, clean e.2)).filter fun e => !(e.2 == .empty) }

/-- Every load has performed. -/
def Strand.drainAll (t : Strand) : Strand := { t with outTags := [], later := .empty, taint := [] }

/-- The tags a set stands for. -/
def Strand.tagsOf (t : Strand) (x : Taint) : List Nat :=
  t.outTags.filter fun k => x.tags.contains k || decide (k < x.all)

/-! ### Convoys (R53, R54) -/

def Strand.closeConvoy (t : Strand) : Strand := { t with convoy := .closed }

def Convoy.fits (c : Convoy) (cls : Cls) (crossToo : Bool) (dst : List RegId) : Bool :=
  (match cls with
    | .mem => decide (c.mem < 2)
    | .mem2 => c.mem == 0
    | .arith => decide (c.arith < 2)
    | .cross => c.cross == 0
    | .red => c.red == 0
    | .mat => c.mat == 0
    | .sm => c.sm == 0
    | .none => true) &&
  (!crossToo || c.cross == 0) && dst.all fun r => !(c.written.contains r)

/-- The convoy with one more instruction, which writes dst and names the vector registers of a list. -/
def Convoy.join (c : Convoy) (cls : Cls) (crossToo : Bool) (dst : List RegId) (named : List Nat) : Convoy :=
  let x := if crossToo then 1 else 0
  let c := { c with isOpen := true, cross := c.cross + x, written := c.written ++ dst, named := c.named ++ named }
  match cls with
  | .mem => { c with mem := c.mem + 1 }
  | .mem2 => { c with mem := c.mem + 2 }
  | .arith => { c with arith := c.arith + 1 }
  | .cross => { c with cross := c.cross + 1 }
  | .red => { c with red := c.red + 1 }
  | .mat => { c with mat := c.mat + 1 }
  | .sm => { c with sm := c.sm + 1 }
  | .none => c

end Sys2Proof.Machine
end

