-- ==== Sys2Proof/Machine/Csr.lean ====
section
/-! DEFINITION. The control registers by number (R167, R372, R373): their values, and writes of their fields without the
interactions of R169, which the CSR instructions add. -/

namespace Sys2Proof.Machine

/-- A trap bank (R373): level 1 or 2. -/
def Sups.bank (s : Sups) (n : Nat) : Bank := if n = 1 then s.bank1 else s.bank2
def Sups.setBank (s : Sups) (n : Nat) (b : Bank) : Sups := if n = 1 then { s with bank1 := b } else { s with bank2 := b }

def Bank.get (b : Bank) : Nat → Word
  | 0 => b.epc
  | 1 => b.cause.zeroExtend 64
  | 2 => b.tval
  | 3 => b.vst.zeroExtend 64
  | _ => b.stat.zeroExtend 64

def Bank.put (b : Bank) (k : Nat) (x : Word) : Bank :=
  match k with
  | 0 => { b with epc := x }
  | 1 => { b with cause := x.truncate 8 }
  | 2 => { b with tval := x }
  | 3 => { b with vst := x.truncate 32 }
  | _ => { b with stat := x.truncate 2 }

/-- Writable bits of fcsr (R170) and of spr (R123). -/
abbrev fcsrMask : Word := 0x13F1F07
abbrev sprMask : Word := 0x8000003FFFFFFFFF

/-- User read-write registers, 0x000 to 0x017. -/
def Csrs.user (c : Csrs) (n : Nat) : Word :=
  match n with
  | 0x000 => c.vl.zeroExtend 64
  | 0x001 => c.vstart.zeroExtend 64
  | 0x002 => c.ew.zeroExtend 64
  | 0x003 => c.mif.zeroExtend 64
  | 0x004 => c.rows.zeroExtend 64
  | 0x005 => c.pitch
  | 0x006 => c.fcsr
  | 0x007 => c.icsr
  | 0x008 => c.bcfg.zeroExtend 64
  | 0x009 => c.qpct.zeroExtend 64
  | 0x00A => c.dmap
  | 0x00B => c.spr
  | 0x00C => c.srseed.zeroExtend 64
  | n => if 0x010 ≤ n ∧ n ≤ 0x017 then (Store.get c.bs (n - 0x010)).zeroExtend 64 else 0

/-- Is a number a user read-write register? -/
def isUserCsr (n : Nat) : Bool := decide (n ≤ 0x00C) || (decide (0x010 ≤ n) && decide (n ≤ 0x017))

/-- Store the fields of a user register; reserved bits are discarded (R168). qpct is clamped to 1 to 65536. -/
def Csrs.setUser (c : Csrs) (n : Nat) (x : Word) : Csrs :=
  match n with
  | 0x000 => { c with vl := x.truncate 32 }
  | 0x001 => { c with vstart := x.truncate 32 }
  | 0x002 => { c with ew := x.truncate 2 }
  | 0x003 => { c with mif := x.truncate 3 }
  | 0x004 => { c with rows := x.truncate 32 }
  | 0x005 => { c with pitch := x }
  | 0x006 => { c with fcsr := x &&& fcsrMask }
  | 0x007 => { c with icsr := x &&& 7 }
  | 0x008 => { c with bcfg := x.truncate 1 }
  | 0x009 => { c with qpct := BitVec.ofNat 17 (min (max x.toNat 1) 65536) }
  | 0x00A => { c with dmap := x }
  | 0x00B => { c with spr := x &&& sprMask }
  | 0x00C => { c with srseed := x.truncate 16 }
  | n => if 0x010 ≤ n ∧ n ≤ 0x017 then { c with bs := Store.set c.bs (n - 0x010) (x.truncate 32) } else c

/-- Read-only registers, 0x400 to 0x415. cyc and gtime are the device's. -/
def Strand.roCsr (t : Strand) (cyc gtime : Word) (n : Nat) : Word :=
  match n with
  | 0x400 => t.csr.al.zeroExtend 64
  | 0x401 => t.csr.gvl.zeroExtend 64
  | 0x402 => t.csr.trim
  | 0x403 => t.csr.ar.zeroExtend 64
  | 0x404 => t.csr.ac.zeroExtend 64
  | 0x405 => t.csr.eprog.zeroExtend 64
  | 0x406 => t.csr.tm.zeroExtend 64
  | 0x407 => t.csr.tn.zeroExtend 64
  | 0x408 => t.csr.tk.zeroExtend 64
  | 0x409 => t.csr.cbytes
  | 0x40A => t.csr.smflag
  | 0x40B => BitVec.ofNat 64 (t.slot % 4 + 0x100 * (t.core % 256) + 0x10000 * (t.queue % 256))
  | 0x40C => BitVec.ofNat 64 (t.agent % 256)
  | 0x40D => cyc
  | 0x40E => gtime
  | 0x40F => t.csr.level.zeroExtend 64
  | n => if 0x410 ≤ n ∧ n ≤ 0x415 then (Store.get t.csr.li (n - 0x410)).zeroExtend 64 else 0

/-- Store a read-only register as a restore does (R385): those that a restore ignores stay. -/
def Csrs.setRo (c : Csrs) (n : Nat) (x : Word) : Csrs :=
  match n with
  | 0x400 => { c with al := x.truncate 32 }
  | 0x402 => { c with trim := x }
  | 0x403 => { c with ar := x.truncate 32 }
  | 0x404 => { c with ac := x.truncate 32 }
  | 0x405 => { c with eprog := x.truncate 32 }
  | 0x406 => { c with tm := x.truncate 32 }
  | 0x407 => { c with tn := x.truncate 32 }
  | 0x408 => { c with tk := x.truncate 32 }
  | 0x409 => { c with cbytes := x }
  | 0x40A => { c with smflag := x }
  | n => if 0x410 ≤ n ∧ n ≤ 0x415 then { c with li := Store.set c.li (n - 0x410) (x.truncate 32) } else c

def isRoCsr (n : Nat) : Bool := decide (0x400 ≤ n) && decide (n ≤ 0x415)

/-- Supervisor registers but for the quota view (R167). -/
def Sups.get (s : Sups) (n : Nat) : Word :=
  match n with
  | 0x800 => s.tlevel.zeroExtend 64
  | 0x801 => s.tvec
  | 0x802 => s.tframe
  | 0x803 => if s.pre then 1 else 0
  | 0x830 => s.s1root
  | 0x831 => s.asid.zeroExtend 64
  | 0x840 => s.qdom.zeroExtend 64
  | n => if 0x810 ≤ n ∧ n ≤ 0x814 then s.bank1.get (n - 0x810)
         else if 0x820 ≤ n ∧ n ≤ 0x824 then s.bank2.get (n - 0x820) else 0

def isSupCsr (n : Nat) : Bool :=
  (decide (0x800 ≤ n) && decide (n ≤ 0x803)) || (decide (0x810 ≤ n) && decide (n ≤ 0x814)) ||
  (decide (0x820 ≤ n) && decide (n ≤ 0x824)) || n == 0x830 || n == 0x831 || n == 0x840

def isQuotaCsr (n : Nat) : Bool := decide (0x841 ≤ n) && decide (n ≤ 0x843)

/-- A write to tlevel is discarded; reserved bits of tvec and s1root are (R76, R372). -/
def Sups.put (s : Sups) (n : Nat) (x : Word) : Sups :=
  match n with
  | 0x801 => { s with tvec := x &&& 0xFFFFFFFFFFFFFE00 }
  | 0x802 => { s with tframe := x }
  | 0x803 => { s with pre := x.getLsbD 0 }
  | 0x830 => { s with s1root := x &&& 0x000FFFFFFFFFF000 }
  | 0x831 => { s with asid := x.truncate 16 }
  | 0x840 => { s with qdom := x.truncate 8 }
  | n => if 0x810 ≤ n ∧ n ≤ 0x814 then { s with bank1 := s.bank1.put (n - 0x810) x }
         else if 0x820 ≤ n ∧ n ≤ 0x824 then { s with bank2 := s.bank2.put (n - 0x820) x } else s

end Sys2Proof.Machine
end

