-- ==== Sys2Proof/Machine/Nodes.lean ====
section
/-! DEFINITION. Queues, mailboxes and the graph walker's part that acts on the device alone (17_scheduling.md): node
records, decrements, failure and completion of nodes, status blocks, sends. Accesses are those of the queue agent's
context with supervisor access (R356). -/

namespace Sys2Proof.Machine

/-- The codes of the quantities that are waits of the state's own events (R418): hbm_retry, coll_wait. -/
abbrev qtyRetry : Nat := 0x05
abbrev qtyCollWait : Nat := 0x27

/-! ### Objects of the device by number -/

def Queue.reset : Queue :=
  { vf := 0, agent := 0, prio := 0, cmbox := 0, requeueKill := false, ovrmax := 0, pause := false, abort := false,
    budget := 0, mask := 0, status := 0, active := false, nodes := 0, ncount := 0, ndone := 0, nfail := 0,
    lastfail := 0, gstate := 0, runs := [], poolBase := 0, poolSize := 0, poolUsed := 0, debug := false,
    reserved := false, offer := none, aborting := false }

def Device.queue (d : Device) (q : Nat) : Queue := Tab.get .reset d.queues q
def Device.setQueue (d : Device) (q : Nat) (x : Queue) : Device := { d with queues := Tab.set .reset d.queues q x }

def Mbox.reset : Mbox := ⟨.unassigned, []⟩
def Device.mbox (d : Device) (n : Nat) : Mbox := Tab.get .reset d.mboxes n
def Device.setMbox (d : Device) (n : Nat) (x : Mbox) : Device := { d with mboxes := Tab.set .reset d.mboxes n x }

/-- The function that owns an object of a list of owners; function 0 where none is listed (R399). -/
def ownerOf (l : List (Nat × Nat)) (n : Nat) : Nat := Tab.get 0 l n

/-! ### The walker's context and node records (R356, R357) -/

/-- The queue agent's translation context; the walker has a TLB of its own, numbered past the cores. -/
def Device.walkerCtx (d : Device) (q : Nat) : Ctx :=
  let qu := d.queue q
  match d.agentOf qu.agent qu.vf with
  | none => ⟨256 + q, qu.vf, 0, 0, true⟩
  | some a => ⟨256 + q, qu.vf, d.readLE (a.addr + 2) 2, d.readLE (a.addr + 8) 8 / 4096 % 2 ^ 40, true⟩

def addr64 (n : Nat) : Word := BitVec.ofNat 64 n

/-- A field of a record at an address, in the queue's context. -/
def wget (q va n : Nat) : DevM Nat := do
  let d ← get
  vreadNat (d.walkerCtx q) (addr64 va) n

def wput (q va n x : Nat) : DevM Unit := do
  let d ← get
  vwriteNat (d.walkerCtx q) (addr64 va) n x

def wgetBytes (q va n : Nat) : DevM (List Byte) := do
  let d ← get
  vread (d.walkerCtx q) (addr64 va) n

def wputBytes (q va : Nat) (bs : List Byte) : DevM Unit := do
  let d ← get
  vwrite (d.walkerCtx q) (addr64 va) bs

/-- Offsets of R357. -/
abbrev nKind : Nat := 0x00
abbrev nState : Nat := 0x01
abbrev nFpol : Nat := 0x02
abbrev nFlags : Nat := 0x03
abbrev nPred : Nat := 0x04
abbrev nPinit : Nat := 0x06
abbrev nSucc : Nat := 0x08
abbrev nNsucc : Nat := 0x10
abbrev nNt : Nat := 0x12
abbrev nRuns : Nat := 0x14

/-- STATE codes of R357. -/
abbrev stWaiting : Nat := 1
abbrev stReady : Nat := 2
abbrev stRunning : Nat := 3
abbrev stDone : Nat := 4
abbrev stFailed : Nat := 5
abbrev stSkipped : Nat := 6

/-- A record of the active graph's array (R359). -/
def Queue.isNode (qu : Queue) (a : Nat) : Bool :=
  qu.active && decide (qu.nodes ≤ a) && (a - qu.nodes) % 64 == 0 && decide ((a - qu.nodes) / 64 < qu.ncount)

def NodeRun.fresh (n : Nat) : NodeRun :=
  { node := n, got := [], readyAt := 0, offered := false, strands := [], ran := 0, requeues := 0, launched := false,
    runs := 0, overran := false, failedStrand := false, ticket := 0, mbox := 0 }

def Queue.run (qu : Queue) (n : Nat) : NodeRun := (qu.runs.find? (·.node == n)).getD (.fresh n)

/-- Put a run in place of the node's old one, keeping the order of first entry. -/
def Queue.setRun (qu : Queue) (r : NodeRun) : Queue :=
  if qu.runs.any (·.node == r.node) then
    { qu with runs := qu.runs.map fun x => if x.node == r.node then r else x }
  else { qu with runs := qu.runs ++ [r] }

def Device.updQueue (d : Device) (q : Nat) (f : Queue → Queue) : Device := d.setQueue q (f (d.queue q))

def Device.updRun (d : Device) (q n : Nat) (f : NodeRun → NodeRun) : Device :=
  d.updQueue q fun qu => qu.setRun (f (qu.run n))

/-- A walker's write of STATE; a write that faults is lost (log entry 15). -/
def putState (q n st : Nat) : DevM Unit := do
  let _ ← DevM.attempt (wput q (n + nState) 1 st)

/-! ### Status block (R355) -/

/-- The four status words, at the queue's status block. -/
def putStatus (q : Nat) : DevM Unit := do
  let d ← get
  let qu := d.queue q
  let bs := bytesLE 8 qu.gstate ++ bytesLE 8 qu.ndone ++ bytesLE 8 qu.nfail ++ bytesLE 8 qu.lastfail ++ bytesLE 32 0
  let _ ← DevM.attempt (gpwrite qu.vf qu.status bs)

/-! ### Decrements, readiness, failure (R359, R361) -/

/-- n words of 8 bytes from an address. -/
def wgetWords (q va : Nat) : Nat → DevM (List Nat)
  | 0 => pure []
  | n + 1 => do
    let x ← wget q va 8
    let xs ← wgetWords q (va + 8) n
    return x :: xs

/-- The successors of a node. -/
def successors (q n : Nat) : DevM (List Nat) := do
  let k ← wget q (n + nNsucc) 2
  let base ← wget q (n + nSucc) 8
  wgetWords q base k

/-- The payload bytes that a kind names (R358), as (offset, length) pairs. -/
def payloadFields : Nat → List (Nat × Nat)
  | 1 => [(0x18, 8), (0x20, 8), (0x28, 2), (0x2C, 4)]
  | 2 => [(0x18, 8), (0x20, 2)]
  | 3 => [(0x18, 8), (0x20, 8), (0x28, 8), (0x30, 1)]
  | 4 => [(0x18, 8), (0x20, 8), (0x28, 8), (0x30, 1), (0x32, 2), (0x34, 2), (0x36, 2)]
  | 5 => [(0x18, 8), (0x20, 8)]
  | 6 | 7 => [(0x18, 8), (0x20, 1)]
  | 8 => [(0x18, 8)]
  | 9 => [(0x18, 1), (0x20, 8)]
  | _ => []

/-- The field values of a node that R357 to R359 and R361 admit: KIND, FPOL, FLAGS, counts, OP, unused payload bytes. -/
def nodeFieldsOk (bs : List Byte) : Bool :=
  let at_ := fun (o n : Nat) => natLE ((bs.drop o).take n)
  let kind := at_ nKind 1
  let fpol := at_ nFpol 1
  let named := fun (o : Nat) => (payloadFields kind).any fun (a, n) => decide (a ≤ o) && decide (o < a + n)
  decide (1 ≤ kind) && decide (kind ≤ 9) && fpol % 4 != 3 && fpol / 4 % 4 == 0 && decide (at_ nFlags 1 < 2) &&
  decide (at_ nNsucc 2 ≤ 1024) &&
  ((List.range 0x28).all fun k => named (0x18 + k) || at_ (0x18 + k) 1 == 0) &&
  (match kind with
    | 1 => decide (1 ≤ at_ 0x28 2) && decide (at_ 0x28 2 ≤ 608)
    | 2 => decide (at_ 0x20 1 < 152) && decide (at_ 0x21 1 < 2)
    | 3 => decide (at_ 0x30 1 < 6) && decide (at_ nNt 2 ≤ at_ nNsucc 2)
    | 4 => decide (at_ 0x30 1 < 6) && decide (at_ nNt 2 ≤ at_ nNsucc 2)
    | 6 | 7 => decide (at_ 0x20 1 < 64)
    | 9 => decide (at_ 0x18 1 < 128)
    | _ => true)

/-- A scheduling decision is to be taken (R363). -/
def Device.nowDue (d : Device) : Device := { d with due := true }

/-- The nodes of a graph that has ended are offered no more, and nothing is reserved for them (R364). -/
def Queue.withdraw (qu : Queue) : Queue :=
  match qu.offer with
  | some (1, _, _) => { qu with offer := none, reserved := false }
  | _ => qu

/-- Count a failure and set the node failed (R361). -/
def markFailed (q n : Nat) : DevM Unit := do
  putState q n stFailed
  modify fun d => d.updQueue q fun qu => { qu with nfail := qu.nfail + 1, lastfail := n }
  putStatus q

/-- The decrements that a failed node's policy gives (R361); ran: it ran and failed. Policy 2 makes it ready again. -/
def failPolicy (q n : Nat) (ran : Bool) : DevM (List (Nat × Decr)) := do
  let fpol := (← DevM.attempt (wget q (n + nFpol) 1)).getD 0
  let succ := (← DevM.attempt (successors q n)).getD []
  let d ← get
  let run := (d.queue q).run n
  if fpol % 4 == 1 then return succ.map (·, .done)
  else if fpol % 4 == 2 && ran && decide (run.runs < fpol / 16 + 1) then do
    putState q n stReady
    modify fun d => (d.updRun q n fun r =>
      { NodeRun.fresh n with readyAt := d.gtime.toNat, runs := r.runs }).nowDue
    return []
  else return succ.map (·, .fail)

/-- A node becomes ready: its fields and successor array are checked, and it fails without running where they are bad
(R359). -/
def becomeReady (q n : Nat) : DevM (List (Nat × Decr)) := do
  let bs := (← DevM.attempt (wgetBytes q n 64)).getD []
  let succ ← DevM.attempt (successors q n)
  let d ← get
  let ok := nodeFieldsOk bs && (match succ with
    | some l => l.all (d.queue q).isNode
    | none => false)
  if ok then do
    putState q n stReady
    modify fun d => (d.updRun q n fun r => { NodeRun.fresh n with readyAt := d.gtime.toNat, runs := r.runs }).nowDue
    return []
  else do
    markFailed q n
    failPolicy q n false

/-- Apply one decrement (R361): what it causes for other nodes. -/
def applyDecr (q n : Nat) (k : Decr) : DevM (List (Nat × Decr)) := do
  let d ← get
  if !(d.queue q).isNode n then return []
  else
    let st ← DevM.attempt (wget q (n + nState) 1)
    let pred ← DevM.attempt (wget q (n + nPred) 2)
    match st, pred with
    | some 1, some (p + 1) => do
      let _ ← DevM.attempt (wput q (n + nPred) 2 p)
      modify fun d => d.updRun q n fun r => { r with got := r.got ++ [k] }
      let d ← get
      let got := ((d.queue q).run n).got
      if p != 0 then return []
      else if got.contains .fail then do
        markFailed q n
        failPolicy q n false
      else if got.contains .done then becomeReady q n
      else do
        putState q n stSkipped
        let succ := (← DevM.attempt (successors q n)).getD []
        return succ.map (·, .skip)
    | _, _ => return []

/-- Decrements and all they cause, oldest first. Each node of a graph fires at most once, so 2^27 is more than enough. -/
def propagate (q : Nat) : Nat → List (Nat × Decr) → DevM Unit
  | 0, _ => pure ()
  | _, [] => pure ()
  | f + 1, (n, k) :: rest => do
    let more ← applyDecr q n k
    propagate q f (rest ++ more)

abbrev manyDecrs : Nat := 2 ^ 27

/-- The node is running (R357), for its runs-th time. -/
def startNode (q n : Nat) : DevM Unit := do
  putState q n stRunning
  modify fun d => d.updRun q n fun r => { r with launched := true, runs := r.runs + 1 }

/-- A node that ran fails (R361); the run ends. -/
def failNode (q n : Nat) (ran : Bool) : DevM Unit := do
  markFailed q n
  let d ← get
  let ds ← if (d.queue q).active then failPolicy q n ran else pure []
  propagate q manyDecrs ds
  modify fun d => d.updQueue q fun qu =>
    { qu with runs := qu.runs.filter fun r => !(r.node == n && (r.launched || !ran)) }

/-- A node is done: NDONE counts it (the END node excepted, R362), the run ends, and its successors take what the kind
gives them (R359). -/
def doneNode (q n : Nat) (ds : List (Nat × Decr)) : DevM Unit := do
  putState q n stDone
  modify fun d => d.updQueue q fun qu =>
    { qu with ndone := qu.ndone + 1, runs := qu.runs.filter fun r => !(r.node == n) }
  putStatus q
  propagate q manyDecrs ds

/-- Done, with DONE for every successor; a node whose successors cannot be read fails (R359). -/
def doneAll (q n : Nat) : DevM Unit := do
  match ← DevM.attempt (successors q n) with
  | some succ => doneNode q n (succ.map (·, .done))
  | none => failNode q n true

/-- Is a node the queue's, ready and not yet running? -/
def Device.isReady (d : Device) (q n : Nat) : Bool :=
  (d.queue q).active && (d.queue q).runs.any fun r => r.node == n && !r.launched && r.got == []

/-- Re-arm a node (R356). -/
def rearm (q n : Nat) : DevM Unit := do
  let pinit ← wget q (n + nPinit) 2
  wput q (n + nPred) 2 pinit
  wput q (n + nState) 1 stWaiting
  wput q (n + nRuns) 4 0
  modify fun d => d.updQueue q fun qu => { qu with runs := qu.runs.filter fun r => !(r.node == n) }

/-! ### Capabilities and sends (R344 to R350) -/

/-- A capability entry that is valid now (R344), with the rights L, RCV, SND and the mailbox. -/
structure Cap where
  l : Bool
  rcv : Bool
  snd : Bool
  mbox : Nat
deriving DecidableEq, Repr

/-- A capability entry as it counts for an agent. -/
def Device.capOf (d : Device) (agent : Nat) (raw : Word) : Option Cap :=
  let n := raw.toNat % 4096
  let c : Cap := ⟨raw.getLsbD 14, raw.getLsbD 13, raw.getLsbD 12, n⟩
  if raw.toNat / 65536 != 0 || !raw.getLsbD 15 then none
  else match (d.mbox n).owner with
    | .unassigned => none
    | .agent a => if c.l || (c.rcv && a != agent) then none else some c
    | .control _ => if c.rcv then none else some c

/-- The capability c of the queue's agent, read from its record now (R358). -/
def queueCap (q c : Nat) : DevM (Option Cap) := do
  let d ← get
  let qu := d.queue q
  match d.agentOf qu.agent qu.vf with
  | none => return none
  | some a => return d.capOf qu.agent (BitVec.ofNat 64 (d.readLE (a.addr + 0x40 + 8 * c) 8))

def senderWord (walker host : Bool) (vf agent : Nat) : BitVec 32 :=
  BitVec.ofNat 32 (bitVal walker * 0x8000 + bitVal host * 0x4000 + (vf % 64) * 0x100 + (if host then 0 else agent % 256))

/-- Is the ring full (R346)? -/
def Device.mboxFull (d : Device) (n : Nat) : Bool := decide ((d.mbox n).ring.length ≥ 32)

/-- Accept a message (R346): nothing is placed in a full ring. -/
def Device.accept (d : Device) (n : Nat) (msg : BitVec 512) (sender : BitVec 32) : Device :=
  if d.mboxFull n then d else
    let b := d.mbox n
    d.setMbox n { b with ring := b.ring ++ [(msg, sender)] }

/-- Remove the message at a place of the ring. -/
def Device.takeMsg (d : Device) (n k : Nat) : Device :=
  let b := d.mbox n
  d.setMbox n { b with ring := b.ring.eraseIdx k }

/-- May an agent's strand or walker receive from a mailbox now (R345)? -/
def Device.mayReceive (d : Device) (agent mb : Nat) : Bool := (d.mbox mb).owner == .agent agent

/-- The WAITMAIL nodes that wait on a mailbox their agent owns, by ticket and rank: a walker ranks after every strand
(R347). -/
def Device.nodeTickets (d : Device) (mb : Nat) : List (Nat × Nat) :=
  d.queues.flatMap fun (q, qu) =>
    if d.mayReceive qu.agent mb then
      (qu.runs.filter fun r => r.launched && r.mbox == mb + 1).map fun r => (r.ticket, 1024 + q)
    else []

/-! ### Signals (R353, R361) -/

/-- The queue of an agent in whose active graph an address is a node record. -/
def Device.queueOfNode (d : Device) (vf agent node : Nat) : Option Nat :=
  (d.queues.find? fun (_, qu) => qu.vf == vf && qu.agent == agent && qu.isNode node).map (·.1)

/-- A DONE decrement to a node that accepts signals; otherwise nothing (R361). -/
def signalNode (q n : Nat) : DevM Unit := do
  let flags := (← DevM.attempt (wget q (n + nFlags) 1)).getD 0
  if flags % 2 == 1 then propagate q manyDecrs [(n, .done)] else pure ()

end Sys2Proof.Machine
end

