-- ==== Sys2Proof/Machine/Context.lean ====
section
/-! DEFINITION. The context engine (R385 to R388): the context area's layout, saving a strand into it and restoring a
strand from it, with its backing area (R157), its scratch window (R150) and R156. Areas lie in the queue's pinned pool,
whose base is an address of its function; a backing area is reached by its physical address, without translation. -/

namespace Sys2Proof.Machine

/-! ### Stores that have not performed (R278) -/

/-- A store performs, and the lines that its instruction has made whole are clean; one to the memory of a device that is
lost is dropped and counted (R307). -/
def Device.perform (d : Device) (p : PendStore) : Device :=
  (if d.remoteLost p.pa then { d with linkLost := d.linkLost + 1 } else d.writeBytes p.pa p.bytes).cleanLines p.cleans

/-- How many stores of a buffer may perform next: the oldest, and under .u those of its instruction that follow it
(R111). -/
def nextStores : List PendStore → Nat
  | [] => 0
  | p :: l => if p.u.isSome then 1 + (l.takeWhile fun x => x.u == p.u).length else 1

/-- The store at a place performs: the buffer then, and the device. The lines it would make whole wait for the instruction's
stores that stay. -/
def Device.performAt (d : Device) (l : List PendStore) (k : Nat) : List PendStore × Device :=
  match l[k]? with
  | none => (l, d)
  | some p =>
    if k == 0 then (l.drop 1, d.perform p)
    else ((l.eraseIdx k).modify (k - 1) fun (q : PendStore) => { q with cleans := q.cleans ++ p.cleans },
      d.perform { p with cleans := [] })

/-- So many stores of a buffer perform one after another; which of those under .u goes first is a free value (log
entry 67). -/
def Device.performSome : Nat → List PendStore → Device → Device
  | 0, _, d => d
  | n + 1, l, d =>
    if nextStores l ≤ 1 then Device.performSome n (d.performAt l 0).1 (d.performAt l 0).2
    else
      let k := (Config.freeWord d.free).toNat % nextStores l
      let r := ({ d with free := d.free + 1 } : Device).performAt l k
      Device.performSome n r.1 r.2

/-- Every store of a buffer performs. -/
def Device.performAll (d : Device) (l : List PendStore) : Device := Device.performSome l.length l d

/-! ### Sizes and places -/

def align4K (n : Nat) : Nat := (n + 4095) / 4096 * 4096

/-- Sizes of the regions PRED, WIN, MAT, SMAT, SLICE, SCR at a gvl, for S KiB of slice and a number of written slots
(R386). -/
def regionSizes (gvl s slots : Nat) : List Nat :=
  [7 * (gvl / 2), 16 * (64 + 8 * gvl), 8 * 12288 + 24, 147456 + 8, 65536 * s, 4096 * slots + 12288]

/-- The room a strand of a kernel needs in the pool: its context area and its backing area (R385). -/
def Kern.areaSize (k : Kern) : Nat :=
  0x1000 + ((regionSizes k.gvl k.slice ((k.scratch + 3) / 4)).map align4K).sum
def Kern.poolNeed (k : Kern) : Nat := k.areaSize + align4K (256 * k.gvl)

/-- The lowest 4 KiB aligned place of the pool that no other strand of the queue uses. -/
def poolPlace (base size need : Nat) (used : List (Nat × Nat)) : Option Nat :=
  ((List.range (size / 4096)).map fun k => base + 4096 * k).find? fun a =>
    decide (a + need ≤ base + size) && used.all fun (b, n) => decide (a + need ≤ b) || decide (b + n ≤ a)

/-- Offsets of the present regions, from the start of the area; 0 where a region is absent. -/
def regionOffsets : Nat → List (Bool × Nat) → List Nat
  | _, [] => []
  | at_, (there, n) :: rest => (if there then at_ else 0) :: regionOffsets (if there then at_ + align4K n else at_) rest

/-! ### The fixed part -/

def Wait.code : Wait → Nat
  | .epop _ _ => 1
  | .waitev _ _ => 2
  | .fbar _ => 3
  | .cbar => 4
  | .mbrecv _ _ _ => 5
  | .wfe _ => 6
  | .push _ _ => 7

/-- The wait a status holds. -/
def Status.wait : Status → Option (Wait × Word)
  | .waiting w n => some (w, n)
  | .preempted w => w
  | .halted w => w
  | _ => none

/-- The address at which the strand goes on (0x018). -/
def Strand.nextPc (t : Strand) : Word := t.pc

def words (l : List Nat) : List Byte := l.flatMap (bytesLE 8)

/-- The 64-byte record of a binding as it stands (R116). -/
def Binding.record (b : Binding) : List Byte :=
  bytesLE 8 b.base.toNat ++ bytesLE 8 b.scale.toNat ++ bytesLE 8 b.band.toNat ++ bytesLE 8 b.total.toNat ++
  bytesLE 8 b.pos.toNat ++ bytesLE 4 b.rowlen.toNat ++ bytesLE 4 b.pitch.toNat ++ bytesLE 1 b.fmt.toNat ++ bytesLE 15 0

/-- A binding from its register, address and record. -/
def Binding.ofRecord (reg : Nat) (addr : Word) (bs : List Byte) : Binding :=
  let at_ := fun (o n : Nat) => natLE ((bs.drop o).take n)
  ⟨reg, addr, BitVec.ofNat 64 (at_ 0 8), BitVec.ofNat 64 (at_ 8 8), BitVec.ofNat 64 (at_ 16 8), BitVec.ofNat 64 (at_ 24 8),
    BitVec.ofNat 64 (at_ 32 8), BitVec.ofNat 32 (at_ 40 4), BitVec.ofNat 32 (at_ 44 4), BitVec.ofNat 8 (at_ 48 1), none⟩

def EvCtr.reset : EvCtr := ⟨0, false, 0, []⟩
def Strand.evCtr (t : Strand) (n : Nat) : EvCtr := Tab.get .reset t.ev n
def Strand.setEv (t : Strand) (n : Nat) (e : EvCtr) : Strand := { t with ev := Tab.set .reset t.ev n e }

/-- Numbers of the supervisor registers in the order of 0x300. -/
def supOrder : List Nat :=
  [0x800, 0x801, 0x802, 0x803, 0x810, 0x811, 0x812, 0x813, 0x814, 0x820, 0x821, 0x822, 0x823, 0x824, 0x830, 0x831, 0x840]

/-- The 2 KiB of R385. -/
def Strand.fixedPart (t : Strand) (cyc gtime : Word) (matv smatv parked halted : Bool) (offs : List Nat) : List Byte :=
  let wk := match t.status.wait with
    | some (w, _) => w.code
    | none => 0
  let flags := bitVal matv + 2 * bitVal smatv + 4 * bitVal t.nest.active + 8 * bitVal parked + 16 * bitVal halted + 32 * wk
  let modes := (List.range 16).foldl (fun acc k => acc + bitVal (t.evCtr k).mode * 2 ^ k) 0
  words [t.kern.gen, t.gvl, flags, t.nextPc.toNat, t.ctxDirty.toNat, t.backing, t.kern.slice, 0] ++
  words ((List.range 32).map fun k => (t.s k).toNat) ++
  words ((List.range 32).map fun k => (t.csr.user k).toNat) ++
  words ((List.range 22).map fun k => (t.roCsr cyc gtime (0x400 + k)).toNat) ++ bytesLE 16 0 ++
  words (supOrder.map fun k => (t.sup.get k).toNat) ++ bytesLE 56 0 ++
  words ((List.range 16).map fun k => (t.evCtr k).val.toNat) ++ words [modes] ++
  words [bitVal t.nest.active + 16 * t.nest.d + 256 * t.nest.n + 65536 * t.nest.level.toNat, t.nest.start.toNat,
    t.nest.stop.toNat] ++ words ((List.range 6).map fun k => t.nest.counts.getD k 0) ++ words [t.farm.toNat] ++
  bytesLE 40 0 ++
  (List.range 64).flatMap (fun l => bytesLE 2 (Store.get t.regs.sigma l).toNat) ++
  (List.range 8).flatMap (fun k => match t.binds[k]? with
    | some b => words [b.addr.toNat, b.reg] ++ b.record
    | none => words [0, 0xFF] ++ bytesLE 64 0) ++
  words ((List.range 6).map fun k => offs.getD k 0) ++ bytesLE 16 0

/-! ### The regions (R386) -/

def Strand.predBytes (t : Strand) : List Byte :=
  (List.range 7).flatMap fun k => bytesLE (t.gvl / 2) (Store.get t.regs.p (k + 1)).toNat

def Strand.winBytes (t : Strand) : List Byte :=
  (List.range 16).flatMap fun k => match t.wins.find? (·.w == k) with
    | some w => words [w.base.toNat, w.esz, w.idx.length, 1] ++ bytesLE 32 0 ++
        words ((List.range t.gvl).map fun j => w.idx.getD j 0)
    | none => bytesLE (64 + 8 * t.gvl) 0

def Strand.matBytes (t : Strand) : List Byte :=
  ((List.range 8).flatMap fun n => (List.range 3072).flatMap fun k =>
    bytesLE 4 (Store.get t.regs.acc (3072 * n + k)).toNat) ++
  words [t.csr.tm.toNat, t.csr.tn.toNat, t.csr.tk.toNat]

def Strand.smatBytes (t : Strand) : List Byte :=
  words ((List.range (64 * 288)).map fun k => (Store.get t.regs.m k).toNat) ++ words [t.csr.smflag.toNat]

def Strand.sliceBytes (t : Strand) : List Byte :=
  (List.range 64).flatMap fun l => (List.range (1024 * t.kern.slice)).map fun o => Store.get t.regs.slice (16384 * l + o)

def Scratch.regionBytes (w : Scratch) : List Byte :=
  (w.written.flatMap fun sl => (List.range 4096).map fun o => Store.get w.bytes (4096 * sl + o)) ++
  (List.range 768).flatMap fun sl => match w.tags.find? (·.1 == sl) with
    | some (_, tag) => words [1, tag.toNat]
    | none => words [0, 0]

/-! ### Saving -/

/-- The scratch window of a group. -/
def Device.window (d : Device) (g : Nat) : Option Scratch := d.scratch.find? (·.group == g)

def Device.setWindow (d : Device) (w : Scratch) : Device :=
  { d with scratch := d.scratch.map fun x => if x.group == w.group then w else x }

/-! ### The backing area (R157) -/

/-- The bytes of register r of the file. -/
def Strand.regBytes (t : Strand) (r : Nat) : List Byte :=
  (List.range (4 * t.gvl)).map fun b => Store.get t.regs.v (16384 * r + b)

/-- Write register r to its place in the backing area. -/
def Device.backOne (d : Device) (t : Strand) (r : Nat) : Device :=
  let pa := t.backing + r * (4 * t.gvl)
  (d.writeBytes pa (t.regBytes r)).cleanLines ((List.range (4 * t.gvl / 64)).map (pa / 64 + ·))

/-- Write the registers of a map to the backing area. -/
def Device.backOut (d : Device) (t : Strand) (map : Word) : Device :=
  ((List.range 64).filter fun r => map.getLsbD r).foldl (fun d r => d.backOne t r) d

/-- The file as the backing area holds it under a gvl. -/
def Device.backIn (d : Device) (backing gvl : Nat) : Store 8 :=
  (d.cellsIn backing (256 * gvl)).map fun c => (16384 * (c.1 / (4 * gvl)) + c.1 % (4 * gvl), c.2)

/-- Where the regions of a strand stand in its context area (R386). -/
def Strand.regionPlaces (t : Strand) (scr : Option Scratch) : List Nat :=
  regionOffsets 0x1000 ([true, !t.wins.isEmpty, t.matUsed, t.smUsed, t.kern.slice != 0, scr.isSome].zip
    (regionSizes t.gvl t.kern.slice (match scr with
      | some w => w.written.length
      | none => 0)))

/-- Write the context of a strand: its fixed part, its present regions and its dirty vector registers. -/
def saveBytes (t : Strand) (area : Nat) (parked halted : Bool) (scr : Option Scratch) : DevM Unit := do
  let d ← get
  let offs := t.regionPlaces scr
  let put := fun (k : Nat) (bs : List Byte) =>
    if offs.getD k 0 == 0 then (pure () : DevM Unit) else gpwrite t.vf (area + offs.getD k 0) bs
  gpwrite t.vf area (t.fixedPart d.cyc d.gtime t.matUsed t.smUsed parked halted offs)
  put 0 t.predBytes
  put 1 t.winBytes
  put 2 t.matBytes
  put 3 t.smatBytes
  put 4 t.sliceBytes
  put 5 (match scr with
    | some w => w.regionBytes
    | none => [])
  modify fun d => d.backOut t t.fileDirty

/-- The matrix or small-matrix region of a strand whose state another strand's takes the place of (R153, R387). -/
def saveState (t : Strand) (area : Nat) (sm : Bool) : DevM Unit := do
  let k := if sm then 3 else 2
  gpwrite t.vf (area + (t.regionPlaces none).getD k 0) (if sm then t.smatBytes else t.matBytes)

/-- The strand after a save: its stores have performed, its taint sets and its internal dirty maps are empty (R387). -/
def Strand.saved (t : Strand) : Strand := { t.drainAll with buf := [], ctxDirty := 0, fileDirty := 0 }

/-! ### Restoring -/

/-- R156 for a new gvl: what lies beyond it is lost. -/
def Strand.regrant (t : Strand) (gvl : Nat) : Strand :=
  let lim := 4 * gvl
  let vmax := vlmaxOf gvl t.ew
  { t with
    csr := { t.csr with gvl := BitVec.ofNat 13 gvl, vl := BitVec.ofNat 32 (min t.vl vmax) }
    regs := { t.regs with
      v := t.regs.v.filter fun e => decide (e.1 % 16384 < lim)
      p := (t.regs.p.map fun e => (e.1, e.2 &&& BitVec.ofNat 16384 (2 ^ lim - 1))).filter fun e => e.2 != 0 } }

/-- The backing area laid out for another gvl: what the strand's file holds. -/
def Device.relay (d : Device) (t : Strand) : Device :=
  t.regs.v.foldl (fun d e => d.writeByte (t.backing + e.1 / 16384 * (4 * t.gvl) + e.1 % 16384) e.2)
    (d.clearRange t.backing (256 * t.gvl))

/-- Put the bytes of a file into a store, at keys from a base. -/
def storeBytes {w : Nat} (st : Store w) (base size : Nat) : List Byte → Nat → Nat → Store w
  | _, _, 0 => st
  | bs, k, n + 1 =>
    storeBytes (Store.set st (base + k) (BitVec.ofNat w (natLE (bs.take size)))) base size (bs.drop size) (k + 1) n

/-- The fixed part read back (R385): every register but those a restore ignores. -/
def Strand.restoreFixed (t : Strand) (bs : List Byte) : Strand :=
  let at_ := fun (o : Nat) => BitVec.ofNat 64 (natLE ((bs.drop o).take 8))
  let n := fun (o : Nat) => natLE ((bs.drop o).take 8)
  let csr := (List.range 24).foldl (fun c k => if isUserCsr k then c.setUser k (at_ (0x140 + 8 * k)) else c) t.csr
  let csr := (List.range 22).foldl (fun c k => c.setRo (0x400 + k) (at_ (0x240 + 8 * k))) csr
  let sup := (supOrder.zip (List.range 17)).foldl (fun s (num, k) => s.put num (at_ (0x300 + 8 * k))) t.sup
  let t := { t with csr := csr, sup := { sup with tlevel := BitVec.ofNat 2 (min (n 0x300 % 4) 2) }, pc := at_ 0x018,
                    nest := { active := n 0x010 / 4 % 2 == 1, start := at_ 0x450, stop := at_ 0x458,
                              n := n 0x448 / 256 % 256, d := n 0x448 / 16 % 16,
                              counts := ((List.range 6).map fun k => n (0x460 + 8 * k)).take (n 0x448 / 16 % 16),
                              level := BitVec.ofNat 2 (n 0x448 / 65536) },
                    farm := at_ 0x490,
                    binds := (List.range 8).filterMap fun k =>
                      let o := 0x540 + 80 * k
                      if 0xFF == n (o + 8) then none
                      else some (Binding.ofRecord (n (o + 8)) (at_ o) ((bs.drop (o + 16)).take 64)) }
  let t := (List.range 32).foldl (fun t k => t.setS k (at_ (0x040 + 8 * k))) t
  let t := (List.range 16).foldl (fun t k =>
    t.setEv k { t.evCtr k with val := at_ (0x3C0 + 8 * k), mode := n 0x440 / 2 ^ k % 2 == 1 }) t
  { t with regs := { t.regs with sigma := storeBytes t.regs.sigma 0 2 (bs.drop 0x4C0) 0 64 } }

def Strand.restorePred (t : Strand) (gvl : Nat) (bs : List Byte) : Strand :=
  (List.range 7).foldl (fun t k =>
    t.setPAll (k + 1) (BitVec.ofNat 16384 (natLE ((bs.drop (k * (gvl / 2))).take (gvl / 2))))) t

def Strand.restoreWin (t : Strand) (gvl : Nat) (bs : List Byte) : Strand :=
  let n := fun (o : Nat) => natLE ((bs.drop o).take 8)
  { t with wins := (List.range 16).filterMap fun k =>
      let o := k * (64 + 8 * gvl)
      if 1 == n (o + 24) then
        some ⟨k, BitVec.ofNat 64 (n o), n (o + 8), (List.range (n (o + 16))).map fun j => n (o + 64 + 8 * j)⟩
      else none }

/-- Read a saved context back, but for the window it may hold, and apply a new grant; none where an access to it stops.
DESIGN CHOICE (log entry 109): a debugger's write to the SLICE region is part of what is read (R388). -/
def restoreBytes (t : Strand) (area gvl : Nat) : DevM Strand := do
  let fx ← gpread t.vf area 2048
  let n := fun (o : Nat) => natLE ((fx.drop o).take 8)
  let g := n 0x008
  let off := fun (k : Nat) => n (0x7C0 + 8 * k)
  let read := fun (k : Nat) => if off k == 0 then (pure none : DevM (Option (List Byte))) else do
    let bs ← gpread t.vf (area + off k) ((regionSizes g t.kern.slice 0).getD k 0)
    return some bs
  let t := t.restoreFixed fx
  let pr ← read 0
  let t := t.restorePred g (pr.getD [])
  let wi ← read 1
  let t := t.restoreWin g (wi.getD [])
  let ma ← read 2
  let t := match ma with
    | some bs => { t with regs := { t.regs with acc := storeBytes t.regs.acc 0 4 bs 0 (8 * 3072) } }
    | none => t
  let sm ← read 3
  let t := match sm with
    | some bs => { t with regs := { t.regs with m := storeBytes t.regs.m 0 8 bs 0 (64 * 288) } }
    | none => t
  let sl ← read 4
  let t := match sl with
    | some bs => (List.range 64).foldl (fun (t : Strand) l => { t with regs := { t.regs with
        slice := storeBytes t.regs.slice (16384 * l) 1 (bs.drop (l * 1024 * t.kern.slice)) 0 (1024 * t.kern.slice) } }) t
    | none => t
  let d ← get
  if d.poisonIn t.backing (256 * g) then DevM.stop (.cause .poison 0)
  else
    let t := { t with
      regs := { t.regs with v := d.backIn t.backing g }
      csr := { t.csr with gvl := BitVec.ofNat 13 g }
      ctxDirty := 0
      fileDirty := 0 }
    let t := t.regrant gvl
    if g == gvl then pure () else modify (·.relay t)
    return t

/-- A saved window as the context area of the strand that saved it holds it (R150, R386). -/
def restoreScr (t : Strand) (area : Nat) (w : Scratch) : DevM Scratch := do
  let fx ← gpread t.vf area 2048
  let bs ← gpread t.vf (area + natLE ((fx.drop 0x7E8).take 8)) (4096 * w.written.length + 12288)
  let tags := (List.range 768).filterMap fun k =>
    let o := 4096 * w.written.length + 16 * k
    let at_ := fun (o : Nat) => natLE ((bs.drop o).take 8)
    if at_ o == 1 then some (k, BitVec.ofNat 64 (at_ (o + 8))) else none
  return { w with
    tags := tags
    bytes := (w.written.zip (List.range w.written.length)).foldl
      (fun st (sl, k) => storeBytes st (4096 * sl) 1 (bs.drop (4096 * k)) 0 4096) w.bytes }

end Sys2Proof.Machine
end

