-- ==== Sys2Proof/Machine/Ops.lean ====
section
/-! DEFINITION. The shared operations of instructions: strands by number, the kill of a context, taking a trap and
returning from one, parking, pre-emption, retirement with the nest's loop-back, and the accesses of a strand with its
store buffer, taint and gather windows. -/

namespace Sys2Proof.Machine

/-! ### Strands by number -/

def State.strands (s : State) : List Strand := s.cur :: s.others

def State.mapStrands (s : State) (f : Strand → Strand) : State := { s with cur := f s.cur, others := s.others.map f }

def State.onCur (s : State) (f : Strand → Strand) : State := { s with cur := f s.cur }
def State.onDev (s : State) (f : Device → Device) : State := { s with dev := f s.dev }

def State.upd (s : State) (uid : Nat) (f : Strand → Strand) : State :=
  s.mapStrands fun t => if t.uid == uid then f t else t

def State.find (s : State) (uid : Nat) : Option Strand := s.strands.find? (·.uid == uid)

/-- Holds a core slot (R319); one that waits to be saved, or is killed while its commands run (R383), still does. -/
def Strand.resident (t : Strand) : Bool :=
  (match t.status with
    | .running | .waiting _ _ => true
    | _ => false) || t.leaving.isSome || t.dying.isSome

/-- Neither absent nor ended. -/
def Strand.live (t : Strand) : Bool :=
  match t.status with
  | .absent | .exited | .killed => false
  | _ => true

/-- Run a step of the device. -/
def State.devRun {α : Type} (s : State) (m : DevM α) : Option α × State :=
  let (x, d) := m.on s.dev
  (x, { s with dev := d })

/-! ### Turns -/

/-- Exchange the current strand and the k-th of the others. -/
def State.swap (s : State) (k : Nat) : State :=
  match s.others[k]? with
  | none => s
  | some t => { s with cur := t, others := s.others.set k s.cur }

/-- Give the turn to a strand. -/
def State.turnTo (s : State) (uid : Nat) : State :=
  match s.others.findIdx? fun t => t.uid == uid with
  | some k => s.swap k
  | none => s

/-- Does a strand issue: it runs, and its core has not failed (R420)? -/
def Device.issues (d : Device) (t : Strand) : Bool := t.status == .running && !(d.failed.contains t.core)

/-- The turn passes to the next strand that issues (R322). -/
def State.rotate (s : State) : State :=
  match s.others.findIdx? fun t => s.dev.issues t with
  | some k =>
    match s.others[k]? with
    | none => s
    | some t => { s with cur := t, others := s.others.drop (k + 1) ++ [s.cur] ++ s.others.take k }
  | none => s

/-! ### Leaving the core -/

/-- Commands of a group that have not ended and write into its scratch window (R150). -/
def Device.scratchBusy (d : Device) (g : Nat) : Bool :=
  d.cmds.any fun (c : Cmd) => c.group == g && c.port != 2 && c.words.getLsbD (5 * 32 + 9) && (match c.state with
    | .ended _ _ _ | .held _ _ _ => false
    | _ => true)

/-- Is the strand the last of its core group on the core? -/
def State.lastOfGroup (s : State) (t : Strand) : Bool :=
  !(s.strands.any fun o => o.group == t.group && o.uid != t.uid && o.resident)

/-- What a strand that leaves its core gives back: residency and the ownership of matrix states. -/
def Device.dropResident (d : Device) (uid : Nat) : Device :=
  { d with resid := d.resid.filter (fun r => !(r.uid == uid)), matOwner := d.matOwner.filter (fun r => !(r.2 == uid)),
           smOwner := d.smOwner.filter (fun r => !(r.2 == uid)) }

/-- Does a command of a group still run, or wait to start (R141)? -/
def Device.groupBusy (d : Device) (g : Nat) : Bool :=
  d.cmds.any fun (c : Cmd) => c.group == g && (c.state == .pushed || c.state == .started)

/-- Windows of groups with no live strand and no command are freed (R125, R141, R383). -/
def State.freeWindows (s : State) : State :=
  let used := fun (g : Nat) => s.dev.groupBusy g || s.strands.any fun t => t.live && t.group == g
  s.onDev fun d => { d with scratch := d.scratch.filter fun w => used w.group }

/-! ### Event records (R419) -/

/-- Classes of sources: cores and ports. -/
abbrev srcCore : Nat := 0
abbrev srcPort : Nat := 2
/-- Kinds of records. -/
abbrev evPortDown : Nat := 0
abbrev evKill : Nat := 1
abbrev evCoreFails : Nat := 2

/-- A source raises a record: its number rises by 1; the record is lost where the ring is full. -/
def Device.raise (d : Device) (cls index kind what : Nat) : Device :=
  let src := Config.eventSource cls index
  let n := Tab.get 0 d.evSeq src.toNat
  let d := { d with evSeq := Tab.set 0 d.evSeq src.toNat ((n + 1) % 2 ^ 32) }
  if d.events.length < Config.eventRing then
    { d with events := d.events ++ [(⟨src, BitVec.ofNat 32 n, d.gtime, Config.eventKind kind, Config.eventPayload kind what⟩ :
        EventRec)] }
  else d

/-- The 32 bytes of a record. -/
def EventRec.bytes (e : EventRec) : List Byte :=
  bytesLE 4 e.source.toNat ++ bytesLE 4 e.seq.toNat ++ bytesLE 8 e.gtime.toNat ++ bytesLE 2 e.kind.toNat ++
    bytesLE 14 e.payload.toNat

/-! ### Context kill (R380 to R383) -/

/-- The killing event (R382): cause, epc, tval, vst, stat. -/
structure KillEv where
  cause : Nat
  epc : Word
  tval : Word
  vst : Nat
  stat : Nat
deriving DecidableEq, Repr

def Bank.recordBytes (b : Bank) : List Byte := words [b.cause.toNat, b.epc.toNat, b.tval.toNat, b.vst.toNat, b.stat.toNat]

/-- The kill record (R381). -/
def Strand.killRecord (t : Strand) (gtime : Word) (reason : Nat) (ev : KillEv) : List Byte :=
  words [0x3F + 0x100 * (reason % 256) + 0x10000 * (t.queue % 256) + 0x1000000 * (t.core % 256)
      + 2 ^ 32 * (t.slot % 4) + 2 ^ 40 * (t.agent % 256), t.node.toNat, gtime.toNat, t.kern.gen,
    ev.cause, ev.epc.toNat, ev.tval.toNat, ev.vst, ev.stat] ++
  t.sup.bank1.recordBytes ++ t.sup.bank2.recordBytes ++ words [t.sup.tlevel.toNat] ++
  words ((List.range 31).map fun k => (t.s (k + 1)).toNat) ++ bytesLE 40 0

/-- Steps 1 and 2 of a kill (R383): the strand is dead, its stores have performed, and its requests for pages and its
commands that have not started are dropped; running ones keep no record (R148). end_: the REASON and the record to be
written. -/
def State.killOne (s : State) (uid : Nat) (end_ : Nat × List Byte) : State :=
  match s.find uid with
  | none => s
  | some t =>
    (s.onDev fun d =>
      let d := d.performAll t.buf
      { d with
        cmds := (d.cmds.filter (fun (c : Cmd) => !(c.uid == uid && c.state == CmdState.pushed))).map fun (c : Cmd) =>
          if c.uid == uid then { c with drop := true } else c
        prqs := d.prqs.filter fun p => !(p.uid == uid) }).upd uid fun t =>
      { t with status := .killed, buf := [], pageTags := [], preempt := none, leaving := none, dying := some end_ }

/-- The uids of the node's strands that are live. -/
def State.nodeStrands (s : State) (q : Nat) (n : Word) : List Nat :=
  (s.strands.filter fun t => t.live && t.queue == q && t.node == n).map (·.uid)

/-- Has a command completed (R145)? -/
def Cmd.completed (c : Cmd) : Bool :=
  match c.state with
  | .held _ _ _ => true
  | _ => false

/-- Do commands of a strand run still? -/
def Device.commandsRun (d : Device) (uid : Nat) : Bool := d.cmds.any fun (c : Cmd) => c.uid == uid && !c.completed

/-- A COMPUTE node ends when no strand of it is live or about to be dead and no command of its strands is left (R295): done, or failed if a
strand was killed. The records of its ended strands go. -/
def State.settleNode (s : State) (q n : Nat) : State :=
  let run := (s.dev.queue q).run n
  let mine := fun u => run.strands.contains u
  if run.strands.isEmpty || (s.strands.any fun t => (t.live || t.dying.isSome) && mine t.uid) ||
      (s.dev.cmds.any fun c => mine c.uid && !c.completed) then s
  else
    let s := { s with others := s.others.filter fun t => !(mine t.uid),
                      dev := { s.dev with cmds := s.dev.cmds.filter fun c => !(mine c.uid) } }
    (s.devRun (if run.failedStrand then failNode q n true else doneAll q n)).2

/-- Steps 3 to 5 of a kill, once no command of the strand runs (R383): its record, if it is not killed as a sibling, the
failure of its node with the last of its strands, and what it held. -/
def State.finishKill (s : State) (uid : Nat) : State :=
  match s.find uid with
  | none => s
  | some t =>
    match t.dying with
    | none => s
    | some (reason, rec_) =>
      if s.dev.commandsRun uid then s
      else
        let s := if rec_.isEmpty then s
          else ((s.devRun (gpwrite t.vf ((s.dev.queue t.queue).status + 0x40) rec_)).2).onDev fun d =>
            { d.raise srcCore t.core evKill reason with msix := d.msix ++ [(t.vf, 2)] }
        let s := (s.onDev fun d => (d.dropResident uid).nowDue).upd uid fun t => { t with dying := none }
        (s.settleNode t.queue t.node.toNat).freeWindows

/-- Context kill (R383): the strand, with its record as things stand now, and its siblings; the rest follows where no
command of theirs runs, else when the last of them has completed. -/
def State.kill (s : State) (uid reason : Nat) (ev : KillEv) : State :=
  match s.find uid with
  | none => s
  | some t =>
    if !t.live then s else
    let siblings := (s.nodeStrands t.queue t.node).filter (· != uid)
    let s := siblings.foldl (fun s u => s.killOne u (reason, []))
      (s.killOne uid (reason, t.killRecord s.dev.gtime reason ev))
    let n := t.node.toNat
    let s := if ((s.dev.queue t.queue).run n).strands.contains uid then
        s.onDev fun d => d.updRun t.queue n fun r => { r with failedStrand := true }
      else s
    (uid :: siblings).foldl (fun s u => s.finishKill u) s

/-- The event of reasons 4 to 8 (R382). -/
def Strand.plainEv (t : Strand) : KillEv := ⟨causeCode .kill, t.pc, 0, t.csr.vstart.toNat, 0⟩

/-! ### Saving a strand that leaves (R386, R387) -/

/-- Save a strand that is leaving: not while it is the last of its core group on the core and a command still writes into
the window that its departure saves (R150). One that has no context area, or whose save cannot be written, is killed with
REASON 7. -/
def State.depart (s : State) (uid : Nat) : State :=
  match s.find uid with
  | none => s
  | some t =>
    match t.leaving with
    | none => s
    | some (parked, halted) =>
      let last := s.lastOfGroup t
      if last && s.dev.scratchBusy t.group then s else
      let win := if last then s.dev.window t.group else none
      let t := { t with leaving := none, offered := s.dev.gtime.toNat }
      match t.ctxArea with
      | none => s.kill uid 7 t.plainEv
      | some area =>
        match s.devRun (saveBytes t area parked halted win) with
        | (none, s) => s.kill uid 7 t.plainEv
        | (some _, s) =>
          let s := s.onDev fun d =>
            let d := match win with
              | some w => d.setWindow { w with live := false, saver := uid }
              | none => d
            (d.dropResident uid).nowDue
          s.upd uid fun _ => t.saved

/-- The strand stops issuing with a new status; its stores perform, and it is saved as soon as it may be. -/
def State.leave (s : State) (uid : Nat) (st : Status) (parked halted : Bool) : State :=
  match s.find uid with
  | none => s
  | some t =>
    ((s.onDev fun d => d.performAll t.buf).upd uid fun t =>
      { t with status := st, buf := [], leaving := some (parked, halted) }).depart uid

/-- Where commands have ended, kills that waited for them are completed, the strands that waited for them are saved, and
windows that nothing uses are freed. -/
def State.departures (s : State) : State :=
  let s := (s.strands.filter fun t => t.dying.isSome).foldl (fun s t => s.finishKill t.uid) s
  ((s.strands.filter fun t => t.leaving.isSome).foldl (fun s t => s.depart t.uid) s).freeWindows

/-! ### Page requests (R87, R88) -/

def FuncPage.reset : FuncPage := ⟨[], 0, [], false, 0, 0, 0, 0, 0⟩
def Device.fpage (d : Device) (vf : Nat) : FuncPage := Tab.get .reset d.fpages vf
def Device.setFpage (d : Device) (vf : Nat) (p : FuncPage) : Device := { d with fpages := Tab.set .reset d.fpages vf p }

/-- Requests that wait enter the ring, in request order, while it has room (R88): the n-th entry is written to host memory
at PRQBASE + 16 (n mod 256), and PRQTAIL rises (R402). -/
def Device.flushPrq (d : Device) (vf : Nat) : Nat → Device
  | 0 => d
  | n + 1 =>
    let p := d.fpage vf
    match d.prqs.find? fun r => r.vf == vf && !r.written with
    | none => d
    | some r =>
      if p.prqtail.toNat - p.prqhead.toNat ≥ 256 then d
      else
        let d := { d with
          prqs := d.prqs.map fun (x : PageReq) => if x.vf == vf && x.tag == r.tag then { x with written := true } else x
          msix := d.msix ++ [(vf, 1)]
          hostMem := Store.setLE d.hostMem (p.prqbase.toNat / 4096 * 4096 + 16 * (p.prqtail.toNat % 256)) 16 r.entry.toNat }
        (d.setFpage vf { p with prqtail := p.prqtail + 1 }).flushPrq vf n

/-- The first tag from k on that is in none of the list. -/
def freshTag (used : List Nat) (k : Nat) : Nat → Nat
  | 0 => k % 65536
  | n + 1 => if used.contains (k % 65536) then freshTag used (k + 1) n else k % 65536

/-- Queue a request for a guest page, for a strand's core and slot; the tag it gets, which no unanswered request of the
function has. -/
def Device.pageRequest (d : Device) (vf uid agent slot core kind gpage : Nat) (perm : Bool) (va : Word)
    (at_ : Option (Word × Nat)) : Nat × Device :=
  let tag := freshTag ((d.prqs.filter (·.vf == vf)).map (·.tag)) d.nextPrTag d.prqs.length
  let entry := BitVec.ofNat 128 (kind + 8 * bitVal perm + 4096 * (gpage % 2 ^ 52) + 2 ^ 64 * (agent % 2 ^ 32)
    + 2 ^ 100 * (slot % 4) + 2 ^ 104 * (core % 256) + 2 ^ 112 * tag)
  (tag, ({ d with nextPrTag := tag + 1,
                  prqs := d.prqs ++ [(⟨vf, tag, entry, uid, gpage, kind, va, at_, false⟩ : PageReq)] } : Device).flushPrq vf 1)

/-- Queue the current strand's request for a guest page (R87). kva: the address of element k. One that is unanswered is
not made again: the strand waits for its answer. -/
def State.request (s : State) (kind gpage : Nat) (perm : Bool) (kva : Word) : State :=
  let t := s.cur
  match s.dev.prqs.find? fun r => r.uid == t.uid && r.gpage == gpage && r.vf == t.vf with
  | some r => s.onCur fun t => { t with pageTags := if t.pageTags.contains r.tag then t.pageTags else t.pageTags ++ [r.tag] }
  | none =>
    let (tag, d) := s.dev.pageRequest t.vf t.uid t.agent t.slot t.core kind gpage perm kva
      (some (t.pc, t.csr.vstart.toNat))
    ({ s with dev := d } : State).onCur fun t => { t with pageTags := t.pageTags ++ [tag] }

/-! ### Taking a trap (R374) and returning from one (R391) -/

/-- Is a loop nest active at its own level (R331)? -/
def Strand.nestHere (t : Strand) : Bool := t.nest.active && t.nest.level == t.sup.tlevel

/-- What trap entry makes of the strand, below level 2: the bank, vstart, the level, the pc, the convoy. -/
def Strand.enterTrap (t : Strand) (c : Cause) (tval epc : Word) (blk : Bool) : Strand :=
  let n := t.sup.tlevel.toNat
  let b : Bank := ⟨epc, BitVec.ofNat 8 (causeCode c), tval, t.csr.vstart,
    BitVec.ofNat 2 (bitVal t.nest.active + 2 * bitVal blk)⟩
  { t with
    sup := { t.sup.setBank (n + 1) b with tlevel := BitVec.ofNat 2 (n + 1) }
    csr := { t.csr with vstart := 0 }
    pc := if n = 0 then t.sup.tvec else t.sup.tvec + 0x100
    convoy := .closed }

/-- TAKING A TRAP (R374): entry into level 1 or 2; at level 2 the context is killed with REASON 1. -/
def State.trap (s : State) (c : Cause) (tval epc : Word) (blk : Bool) : State :=
  let t := s.cur
  if t.sup.tlevel.toNat ≥ 2 then
    s.kill t.uid 1 ⟨causeCode c, epc, tval, t.csr.vstart.toNat, bitVal t.nest.active + 2 * bitVal blk⟩
  else s.onCur fun t => t.enterTrap c tval epc blk

/-- RETURNING FROM A TRAP (R391), level n at least 1, epc aligned. A NEST bit of 0 leaves the nest inactive. -/
def Strand.leaveTrap (t : Strand) : Strand :=
  let n := t.sup.tlevel.toNat
  let b := t.sup.bank n
  { t with
    csr := { t.csr with vstart := b.vst }
    sup := { t.sup with tlevel := BitVec.ofNat 2 (n - 1) }
    nest := { t.nest with active := t.nest.active && b.stat.getLsbD 0 }
    pc := b.epc
    convoy := .closed }

/-! ### Parking (R377) and pre-emption (R378, R379) -/

/-- A stage-2 miss at the leading element or at a scalar access: the request is queued and the strand is saved, with no
bank written. -/
def State.park (s : State) (kind gpage : Nat) (perm : Bool) (va : Word) : State :=
  let s := s.request kind gpage perm va
  s.leave s.cur.uid .parked true false

/-- May a request be taken (R378)? -/
def Strand.takeable (t : Strand) : Bool := t.sup.tlevel == 0 || t.sup.pre

/-- Is a request pending that may be taken now? -/
def Strand.preemptNow (t : Strand) : Bool := t.preempt == some 0 && t.takeable

/-! ### Retirement -/

/-- The loop-back's count (R330): the indices after it, and whether the body runs again. -/
def nestAdvance (counts : List Nat) (li : Store 32) (j : Nat) : Store 32 × Bool :=
  match counts with
  | [] => (li, false)
  | c :: cs =>
    let v := (Store.get li j).toNat + 1
    if v < c then (Store.set li j (BitVec.ofNat 32 v), true) else nestAdvance cs (Store.set li j 0) (j + 1)

/-- LOOP-BACK (R330): where a nest is active at its level and the pc has come to the end of its body, the indices
advance, and the pc returns to the start or the nest ends. Only a pass that returns to the start
opens a new convoy (log entry 83). -/
def Strand.loopBack (t : Strand) : Strand :=
  if t.nestHere && t.pc == t.nest.stop then
    let (li, again) := nestAdvance t.nest.counts t.csr.li 0
    let t := { t with csr := { t.csr with li := li } }
    if again then { t with pc := t.nest.start, convoy := .closed } else { t with nest := { t.nest with active := false } }
  else t

/-- Bytes of an instruction. -/
def lenOf (o : Operands) : Nat := 4 * o.form.parcels

/-- The instruction retires: the pc moves past it, and a loop-back follows the last instruction of a nest's body. -/
def Strand.retire (t : Strand) (o : Operands) : Strand := ({ t with pc := t.pc + BitVec.ofNat 64 (lenOf o) }).loopBack

/-- A wait ends: the waiting instruction retires. -/
def Strand.endWait (t : Strand) (next : Word) : Strand :=
  ({ t with status := .running, pc := next, stepDone := t.step1 }).loopBack

/-- What a strand keeps of its wait when it is taken (R319): WFE has retired (R392). A push to a full engine has not begun
(R144): it is kept for the context area's wait kind, and the instruction is executed again. -/
def Strand.keepWait (t : Strand) : Strand × Option (Wait × Word) :=
  match t.status.wait with
  | some (.wfe _, next) => (t.endWait next, none)
  | w => (t, w)

/-- Take the pending request before an instruction: the strand is saved as it stands (R379). One that steps is left
halted (R400). -/
def State.takePreempt (s : State) (uid : Nat) : State :=
  match s.find uid with
  | none => s
  | some t =>
    let (t, w) := t.keepWait
    let s := s.upd uid fun _ => { t with preempt := none, step1 := false, stepDone := false }
    if t.step1 then s.leave uid (.halted w) false true else s.leave uid (.preempted w) false false

/-- A transfer of control: the pc becomes the target, and a convoy opens afresh (R53). -/
def Strand.jumpTo (t : Strand) (target : Word) : Strand := { t with pc := target, convoy := .closed }

/-! ### Steps of an instruction -/

abbrev Out := Host.Outcome State Fault Refusal

/-- A step of an instruction of the current strand that answers a value or a stop; what it did stays done. -/
abbrev Run (α : Type) := EStateM Stop State α

namespace Run

def stop {α : Type} (e : Stop) : Run α := fun s => .error e s
def trap {α : Type} (c : Cause) (tval : Word) : Run α := stop (.cause c tval)

/-- Go on, or stop where the condition fails. -/
def check (ok : Bool) (c : Cause) (tval : Word) : Run Unit := if ok then pure () else trap c tval

def dev {α : Type} (m : DevM α) : Run α := fun s =>
  match m s.dev with
  | .ok x d => .ok x { s with dev := d }
  | .error e d => .error e { s with dev := d }

def cur : Run Strand := fun s => .ok s.cur s
def onCur (f : Strand → Strand) : Run Unit := fun s => .ok () (s.onCur f)
def onDev (f : Device → Device) : Run Unit := fun s => .ok () (s.onDev f)

end Run

/-- Parcel 0 of an instruction, zero-extended: tval of ILL (R51). -/
def parcel0 (o : Operands) : Word := BitVec.ofNat 64 (pack o).1

def ill {α : Type} (o : Operands) : Run α := Run.trap .ill (parcel0 o)
def checkIll (o : Operands) (ok : Bool) : Run Unit := Run.check ok .ill (parcel0 o)

/-- What a stop of the instruction does: a trap at it (R374), parking (R377), a pre-emption before it, or a kill. conv: the
convoy before it, which it has not joined if it did not begin (R377, R379). -/
def State.stopAt (s : State) (conv : Convoy) (e : Stop) : State :=
  match e with
  | .cause c tval => s.trap c tval s.cur.pc false
  | .before => (s.onCur fun t => { t with convoy := conv }).takePreempt s.cur.uid
  | .s2 _ kind gpage perm va => (s.onCur fun t => { t with convoy := conv }).park kind gpage perm va
  | .lost => s.kill s.cur.uid 7 s.cur.plainEv

/-- The end of an instruction that does not transfer control. -/
def endInstr (o : Operands) (conv : Convoy) (r : EStateM.Result Stop State Unit) : State :=
  match r with
  | .ok _ s => s.onCur (·.retire o)
  | .error e s => s.stopAt conv e

/-- An instruction that does not transfer control. -/
def instr (o : Operands) (m : Run Unit) (s : State) : Out := .next (endInstr o s.cur.convoy (m s))

/-- The end of an instruction that answers its next address, or none to go on with the next instruction. -/
def endFlow (o : Operands) (conv : Convoy) (r : EStateM.Result Stop State (Option Word)) : State :=
  match r with
  | .ok (some a) s => s.onCur (·.jumpTo a)
  | .ok none s => s.onCur (·.retire o)
  | .error e s => s.stopAt conv e

def flow (o : Operands) (m : Run (Option Word)) (s : State) : Out := .next (endFlow o s.cur.convoy (m s))

/-- The end of an instruction that may skip others: control goes on past them, and no convoy closes (R53, R330). -/
def endSkip (o : Operands) (conv : Convoy) (r : EStateM.Result Stop State (Option Word)) : State :=
  match r with
  | .ok (some a) s => s.onCur fun t => { t with pc := a }
  | .ok none s => s.onCur (·.retire o)
  | .error e s => s.stopAt conv e

def skips (o : Operands) (m : Run (Option Word)) (s : State) : Out := .next (endSkip o s.cur.convoy (m s))

/-- The end of an instruction that answers what it waits for, or none. A wait leaves the pc at the instruction. -/
def endWaits (o : Operands) (conv : Convoy) (r : EStateM.Result Stop State (Option Wait)) : State :=
  match r with
  | .ok none s => s.onCur (·.retire o)
  | .ok (some w) s => s.onCur fun t => { t with status := .waiting w (t.pc + BitVec.ofNat 64 (lenOf o)) }
  | .error e s => s.stopAt conv e

def waits (o : Operands) (m : Run (Option Wait)) (s : State) : Out := .next (endWaits o s.cur.convoy (m s))

/-- ILL inside an active nest's body (R331). -/
def notInNest (o : Operands) : Run Unit := do
  let t ← Run.cur
  checkIll o (!t.nestHere)

/-- PRIV at level 0 (R51, step 8). -/
def supervisor (o : Operands) : Run Unit := do
  let t ← Run.cur
  Run.check (t.sup.tlevel != 0) .priv (parcel0 o)

/-! ### A strand's accesses -/

/-- The strand's translation context (R76). -/
def Strand.ctx (t : Strand) : Ctx :=
  ⟨t.core, t.vf, t.sup.asid.toNat, t.sup.s1root.toNat / 4096 % 2 ^ 40, t.sup.tlevel != 0⟩

/-- Every store of the strand performs. -/
def State.drain (s : State) : State :=
  { s with dev := s.dev.performAll s.cur.buf, cur := { s.cur with buf := [] } }
def drain : Run Unit := fun s => .ok () s.drain

/-- Every earlier access of the strand has performed (R104, R290, R292): its loads fixed their values when they were
executed, and its stores perform now. No taint set changes (R287). -/
def settle : Run Unit := drain

/-- The access performs after the loads of a set (R286). -/
def await (x : Taint) : Run Unit := Run.onCur fun t => t.drainTags (t.tagsOf x)

/-- A store, an atomic or a send also performs after the loads that branches ordered it after (R286). -/
def awaitStore (x : Taint) : Run Unit := Run.onCur fun t => t.drainTags (t.tagsOf (t.joinTaint x t.later))

/-- Translate for the strand. A walk sees its earlier stores (R95), so they perform first; a guest's access walks stage 2
every time. -/
def translateS (acc : Acc) (setD : Bool) (va : Word) : Run Nat := do
  let s ← get
  let hit := s.cur.vf == 0 && match s.dev.tlbHit s.cur.ctx va.toNat with
    | some e => !setD || e.d
    | none => false
  if hit then pure () else drain
  Run.dev (translate s.cur.ctx acc setD va)

/-- The strand's newest store to a byte that has not performed (R281), by the byte's current copy. -/
def Strand.own (t : Strand) (d : Device) (pa : Nat) : Option (Byte × Taint) :=
  t.buf.reverse.findSome? fun p =>
    ((List.range p.bytes.length).find? fun k => d.resolve (p.pa + k) == d.resolve pa).bind fun k =>
      (p.bytes[k]?).map fun b => (b, p.taint)

/-- A byte as the strand sees it. -/
def State.seeByte (s : State) (pa : Nat) : Byte :=
  match s.cur.own s.dev pa with
  | some (b, _) => b
  | none => s.dev.readByte pa

def State.see (s : State) (pa : Nat) : Nat → List Byte
  | 0 => []
  | n + 1 => s.seeByte pa :: s.see (pa + 1) n

/-- The sets that loads of bytes take from own stores that have not performed (R287). -/
def State.seeTaint (s : State) (pa n : Nat) : Taint :=
  (List.range n).foldl (fun acc k => match s.cur.own s.dev (pa + k) with
    | some (_, x) => s.cur.joinTaint acc x
    | none => acc) .empty

/-- Poisoned, and no store of the strand will have made the line whole (R67, R68). -/
def State.poisonSeen (s : State) (pa : Nat) : Bool :=
  s.dev.poisoned pa && !(s.cur.buf.any fun p => p.cleans.contains (pa / 64))

/-- Is an address a multiple of a size (R96)? -/
def aligned (va : Word) (n : Nat) : Bool := va.toNat % n == 0

/-- What a load gives: the value and the sets it takes from own stores. -/
structure Loaded1 where
  val : Nat
  taint : Taint
deriving DecidableEq, Repr

/-- Load n bytes at an address (R96, R97): ALIGN, translation, POISON. -/
def loadAt (va : Word) (n : Nat) : Run Loaded1 := do
  Run.check (aligned va n) .align va
  let pa ← translateS .load false va
  let s ← get
  Run.check (!s.poisonSeen pa) .poison va
  return ⟨natLE (s.see pa n), s.seeTaint pa n⟩

/-- Store the low n bytes of x at an address: they wait in the strand's buffer until they perform. -/
def storeAt (va : Word) (n x : Nat) (u : Option Nat) (tn : Taint) : Run Nat := do
  Run.check (aligned va n) .align va
  let pa ← translateS .store true va
  Run.onCur fun t => { t with buf := t.buf ++ [⟨pa, bytesLE n x, [], u, tn⟩] }
  return pa

/-- Check a store without performing it: nothing but A bits change. -/
def checkStore (va : Word) (n : Nat) : Run Unit := do
  Run.check (aligned va n) .align va
  let _ ← translateS .store false va

/-- An atomic of n bytes (R105, R106): f gives the new value, or none for no write. -/
def atomicAt (va : Word) (n : Nat) (f : Nat → Option Nat) : Run Nat := do
  Run.check (aligned va n) .align va
  drain
  let pa ← translateS .atomic false va
  let s ← get
  Run.check (!s.dev.poisoned pa) .poison va
  let pa ← translateS .atomic true va
  let s ← get
  let old := s.dev.readLE pa n
  match f old with
  | some x => Run.onDev fun d => d.writeLE pa n x
  | none => pure ()
  return old

/-- Control depends on these registers: later stores wait for their loads (R286). -/
def Strand.orderLater (t : Strand) (rs : List RegId) : Strand := { t with later := t.joinTaint t.later (t.unionOf rs) }

/-! ### Gather windows (R93) -/

def inWindows (va : Word) : Bool := decide (0x7F0000000000 ≤ va.toNat) && decide (va.toNat < 0x7F1000000000)

/-- The target of a unit-stride access, and the window it goes through. -/
def windowTarget (acc : Acc) (va : Word) (n : Nat) : Run (Word × Option Nat) := do
  if !inWindows va then return (va, none)
  else
    let t ← Run.cur
    let w := (va.toNat - 0x7F0000000000) / 2 ^ 32
    let o := va.toNat % 2 ^ 32
    match t.wins.find? (·.w == w) with
    | none => Run.trap acc.tf va
    | some win =>
      if o % win.esz != 0 || win.esz != n then Run.trap .align va
      else match win.idx[o / win.esz]? with
        | none => Run.trap .winRange va
        | some k => return (win.base + BitVec.ofNat 64 (k * win.esz), some w)

end Sys2Proof.Machine
end

