-- ==== Sys2Proof/Machine/Flags.lean ====
section
/-! DEFINITION. Flags and stops of arithmetic (R170, R171, R185, R186, R205, R223), and rounding in a strand's modes. -/

namespace Sys2Proof.Machine

/-- The cause of an element that raises flags (R186): the first whose stop enable is 1. -/
def Strand.fpStop (t : Strand) (f : Flags) : Option Cause :=
  if f.nv && t.fcsrBit 16 then some .fpInv
  else if f.dz && t.fcsrBit 17 then some .fpDz
  else if f.of && t.fcsrBit 18 then some .fpOvf
  else if f.uf && t.fcsrBit 19 then some .fpUnf
  else if f.nx && t.fcsrBit 20 then some .fpInx
  else none

/-- Stop on an enabled flag; else the flags are set (R223). -/
def commitFp (f : Flags) : Run Unit := do
  let t ← Run.cur
  match t.fpStop f with
  | some c => Run.trap c 0
  | none => Run.onCur (·.raise f)

/-- The rounding mode of an instruction that reads RM (R44). -/
def Strand.mode (t : Strand) (o : Operands) : Nat := if o.rm == 7 then t.rnd else o.rm.toNat

/-- The tentative stochastic state of a lane (R182, R223); only sr reads it. -/
def Strand.srNext (t : Strand) (lane : Nat) : Nat := (srStep (Store.get t.regs.sigma lane)).toNat

/-- An element's lane steps under sr, when the element commits. -/
def stepLane (mode lane : Nat) : Run Unit := if mode == 5 then Run.onCur fun t => (t.stepSr lane).2 else pure ()

def Flags.nvIf (f : Flags) (nv : Bool) : Flags := { f with nv := f.nv || nv }
def Flags.dzIf (f : Flags) (dz : Bool) : Flags := { f with dz := f.dz || dz }

/-- A scalar division by zero (R205): a trap when icsr.DZS is 1; else DZF is set. -/
def divZero : Run Unit := do
  let t ← Run.cur
  if t.csr.icsr.getLsbD 1 then Run.trap .intDz 0 else Run.onCur (·.raiseInt true false)

end Sys2Proof.Machine
end

