-- ==== Sys2Proof/Machine/Operands.lean ====
section
/-! DEFINITION. Operands of the vector instructions: their dispatch (R51, R52, R54), what they name (R38, R46, R158), the
element loop (R172), cross-lane operands (R15), stream-bound sources (R117) and the taint of results (R285). -/

namespace Sys2Proof.Machine

/-! ### What an instruction names -/

/-- How an instruction uses its fields. dTy is the type of operand D. writes: D is a destination. more: other
sources; vmore: other vector sources, at TYPE; raws, and A and B where aRaw and bRaw hold: vector sources that it reads
otherwise than as elements of its TYPE. wrote: other destinations. apart: it names the registers of wrote and vmore one
at a time, as it transfers them (R158). -/
structure Shape where
  cls : Cls
  ew : Bool := true
  rm : Bool := false
  d : RegK := .v
  dTy : Ty
  writes : Bool := true
  readsD : Bool := false
  a : RegK := .z
  b : RegK := .z
  cross : Bool := false
  usesVl : Bool := true
  usesMif : Bool := true
  more : List RegId := []
  vmore : List Nat := []
  raws : List Nat := []
  aRaw : Bool := false
  bRaw : Bool := false
  wrote : List RegId := []
  apart : Bool := false
  mat : Bool := false
  sm : Bool := false

/-- Register numbers after indirect selection (R14). -/
structure Names where
  d : Nat
  a : Nat
  b : Nat
deriving DecidableEq, Repr

def Strand.names (t : Strand) (o : Operands) : Names :=
  { d := if o.xd then (t.s o.d.toNat).toNat % 64 else o.d.toNat
    a := if o.xa then (t.s o.a.toNat).toNat % 64 else o.a.toNat
    b := o.b.toNat }

/-- The registers a field names: a 64-bit vector operand names a pair. -/
def idsOf (k : RegK) (t : Ty) (n : Nat) : List RegId :=
  match k with
  | .z => []
  | .s => [.s n]
  | .v | .vfn => if t.width == 3 then [.v n, .v (n + 1)] else [.v n]
  | .p => [.p n]
  | .acc => [.acc n]
  | .m => [.m n]
  | .fnA | .fnB => []

/-- The registers that R54 counts as written. -/
def Shape.dst (sh : Shape) (n : Names) : List RegId :=
  (if sh.writes then (idsOf sh.d sh.dTy n.d).filter fun r => match r with
      | .v _ | .acc _ | .m _ => true
      | .p k => k != 0
      | _ => false
    else []) ++ sh.wrote

/-- The set a register's loads are kept in: the small-matrix and the matrix state have one each (R244, R265). -/
def RegId.carrier : RegId → RegId
  | .m _ => .sm
  | .acc _ => .mat
  | r => r

/-- The source registers (R285): operands, guard, p[mif], vl, selectors, the old destination where it is read. -/
def Shape.sources (sh : Shape) (o : Operands) (t : Strand) (n : Names) : List RegId :=
  (idsOf sh.a o.ty n.a ++ idsOf sh.b o.ty n.b ++ (if !sh.writes || sh.readsD then idsOf sh.d sh.dTy n.d else [])).map
    RegId.carrier ++ sh.more ++ sh.vmore.flatMap (idsOf .v o.ty) ++ sh.raws.map RegId.v ++
  (if o.g.toNat % 8 == 0 then [] else [.p (o.g.toNat % 8)]) ++ (if sh.usesMif then [.p t.csr.mif.toNat] else []) ++ (if sh.usesVl then [.vl] else []) ++
  (if o.xa then [.s o.a.toNat] else []) ++ (if o.xd then [.s o.d.toNat] else [])

/-- Vector registers read as elements of TYPE, by field: for streams. -/
def Shape.vecSources (sh : Shape) (n : Names) : List Nat :=
  (if sh.a == .v && !sh.aRaw then [n.a] else []) ++ (if sh.b == .v && !sh.bRaw then [n.b] else []) ++
  (if sh.d == .v && (!sh.writes || sh.readsD) then [n.d] else []) ++ sh.vmore

/-- Vector registers read otherwise: no stream pairs with them (log entry 80). -/
def Shape.rawSources (sh : Shape) (n : Names) : List Nat :=
  (if sh.aRaw then [n.a] else []) ++ (if sh.bRaw then [n.b] else []) ++ sh.raws

/-- Vector registers named at dispatch (R158). -/
def Shape.named (sh : Shape) (o : Operands) (n : Names) : List Nat :=
  ((idsOf sh.a o.ty n.a ++ idsOf sh.b o.ty n.b ++ idsOf sh.d sh.dTy n.d ++ sh.raws.map RegId.v ++
    (if sh.apart then [] else sh.vmore.flatMap (idsOf .v o.ty) ++ sh.wrote)).filterMap fun r => match r with
    | .v k => some k
    | _ => none).eraseDups

/-! ### Residency (R157 to R160) -/

/-- Bytes of the vector file: 512 KiB. -/
abbrev fileBytes : Nat := 524288

/-- Is the first named less recently, or at the same time from a lower slot and number? -/
def olderName (slotOf : Nat → Nat) (a b : Resid) : Bool :=
  decide (a.last < b.last) || (a.last == b.last &&
    (decide (slotOf a.uid < slotOf b.uid) || (slotOf a.uid == slotOf b.uid && decide (a.reg < b.reg))))

/-- The register that the end of a wait will write. -/
def Status.names (st : Status) (r : Nat) : Bool :=
  match st with
  | .waiting (.epop _ vd) _ => vd == r
  | .waiting (.mbrecv _ vd _) _ => vd == r
  | _ => false

/-- The vector registers of instructions in flight: those named now, and the destination of a wait. -/
def State.inFlight (s : State) (keep : List Nat) (r : Resid) : Bool :=
  (r.uid == s.cur.uid && keep.contains r.reg) || s.strands.any fun t => t.uid == r.uid && t.status.names r.reg

/-- The vector registers that no eviction may take: those in flight, and those of every strand's current convoy. -/
def State.pinned (s : State) (keep : List Nat) (r : Resid) : Bool :=
  s.inFlight keep r || s.strands.any fun t => t.uid == r.uid && t.convoy.isOpen && t.convoy.named.contains r.reg

/-- The registers that an eviction may take. Where the convoys' cannot all be resident, a convoy issues instruction by
instruction, and only those in flight stay (R159). -/
def State.evictable (s : State) (keep : List Nat) (here : List Resid) : List Resid :=
  let free := here.filter fun r => !(s.pinned keep r)
  if free.isEmpty then here.filter fun r => !(s.inFlight keep r) else free

/-- A register leaves the file; where it has been written since it was loaded, it is written back first. A strand without
a backing area keeps its contents (log entry 48). -/
def State.swapOut (s : State) (v : Resid) : State :=
  let s := match s.find v.uid with
    | some t => if t.ctxArea.isSome && t.fileDirty.getLsbD v.reg then s.onDev fun d => d.backOne t v.reg else s
    | none => s
  (s.onDev fun d => { d with resid := d.resid.filter fun r => !(r.uid == v.uid && r.reg == v.reg) }).upd v.uid fun t =>
    { t with fileDirty := putBit t.fileDirty v.reg false }

/-- Evict the least recently named until the core's registers fit (R158). keep: named now. -/
def evict (keep : List Nat) : Nat → State → State
  | 0, s => s
  | n + 1, s =>
    let of := fun (f : Strand → Nat) (u : Nat) => match s.find u with
      | some x => f x
      | none => 0
    let here := s.dev.resid.filter fun r => of (·.core) r.uid == s.cur.core
    if (here.map fun r => 4 * of (·.gvl) r.uid).sum ≤ fileBytes then s
    else match s.evictable keep here with
      | [] => s
      | c :: cs => evict keep n (s.swapOut (cs.foldl (fun v r => if olderName (of (·.slot)) r v then r else v) c))

/-- A register comes back from the backing area. -/
def Device.swapIn (d : Device) (t : Strand) (r : Nat) : Strand :=
  let old := t.regs.v.filter fun e => e.1 / 16384 != r
  let new := (d.cellsIn (t.backing + r * (4 * t.gvl)) (4 * t.gvl)).map fun c => (16384 * r + c.1, c.2)
  { t with regs := { t.regs with v := old.filter (fun e => decide (e.1 < 16384 * r)) ++ new ++
                                      old.filter (fun e => decide (16384 * r < e.1)) } }

/-- Name registers: they are resident and awake (R158, R160). One that was swapped out is read back; poison there kills the
context (R384). What no longer fits is swapped out. -/
def touch (regs : List Nat) : Run Unit := fun s =>
  let t := s.cur
  let out := regs.filter fun r => !(s.dev.resid.any fun x => x.uid == t.uid && x.reg == r)
  if t.ctxArea.isSome && out.any fun r => s.dev.poisonIn (t.backing + r * (4 * t.gvl)) (4 * t.gvl) then .error .lost s
  else
    let s := if t.ctxArea.isSome then s.onCur fun t => out.foldl (s.dev.swapIn · ·) t else s
    let rest := s.dev.resid.filter fun r => !(r.uid == t.uid && regs.contains r.reg)
    let mine : List Resid := regs.map fun r => ⟨t.uid, r, s.dev.cyc.toNat, false⟩
    .ok () (evict regs 256 (s.onDev fun d => { d with resid := rest ++ mine }))

/-- Name registers for a strand whose turn it need not be; none where poison in its backing area kills it. -/
def State.nameFor (s : State) (uid : Nat) (regs : List Nat) : Option State :=
  let named := fun (s : State) => match touch regs s with
    | .ok _ s => some s
    | .error _ _ => none
  if s.cur.uid == uid then named s
  else (s.others.findIdx? fun t => t.uid == uid).bind fun k => (named (s.swap k)).map (·.swap k)

/-- The strand takes a state of its core over from its owner, whose state is written to its context area first (R153,
R387); a save that cannot be written kills the owner with REASON 7. -/
def State.exchange (s : State) (sm : Bool) : State :=
  let t := s.cur
  let owners := if sm then s.dev.smOwner else s.dev.matOwner
  let s := match owners.find? fun e => e.1 == t.core && e.2 != t.uid with
    | none => s
    | some (_, u) =>
      match s.find u with
      | none => s
      | some old =>
        match old.ctxArea with
        | none => s
        | some area =>
          match s.devRun (saveState old area sm) with
          | (some _, s) => s
          | (none, s) => s.kill u 7 old.plainEv
  s.onDev fun d =>
    let own := fun (l : List (Nat × Nat)) => (t.core, t.uid) :: l.filter fun e => !(e.1 == t.core)
    if sm then { d with smOwner := own d.smOwner } else { d with matOwner := own d.matOwner }

/-- Name a matrix or small-matrix state: the strand owns it (R153). -/
def ownStates (mat sm : Bool) : Run Unit := fun s =>
  let s := if mat then (s.exchange false).onCur fun t => { t with matUsed := true } else s
  .ok () (if sm then (s.exchange true).onCur fun t => { t with smUsed := true } else s)

/-! ### Streams (R116, R117) -/

def Strand.bindOf (t : Strand) (r : Nat) : Option Binding := t.binds.find? (·.reg == r)

def Binding.ty (b : Binding) : Ty := Ty.ofCode (BitVec.ofNat 4 b.fmt.toNat)
def Binding.mx (b : Binding) : Bool := b.fmt.getLsbD 4

/-- The pairings of FMT and TYPE that deliver (R117): the same plain TYPE, or a float, MX or SF4 format for a float
TYPE. -/
def Binding.pairs (b : Binding) (t : Ty) : Bool :=
  (!b.mx && b.ty == t) || ((b.mx || isFloatTy b.ty) && Ty.floats.contains t)

/-- Read for the stream of register r: the value at an address. The binding keeps the sets that the read takes from own
stores (R287). -/
def streamRead (r : Nat) (va : Word) (n : Nat) : Run Nat := do
  let x ← loadAt va n
  Run.onCur fun t => { t with binds := t.binds.map fun b =>
    if b.reg == r then { b with reads := some (t.joinTaint (b.reads.getD .empty) x.taint) } else b }
  return x.val

/-- Elements of the sorus that holds column c of row row: fewer than eight where the stream ends in it (R192). -/
def Binding.sorusLen (b : Binding) (row c : Nat) : Nat := min 8 (b.total.toNat - (row * b.rowlen.toNat + c / 8 * 8))

/-- Row and column of stream element n, and the address of byte k of its row (R116). -/
def Binding.row (b : Binding) (n : Nat) : Nat := n / b.rowlen.toNat
def Binding.col (b : Binding) (n : Nat) : Nat := n % b.rowlen.toNat
def Binding.rowByte (b : Binding) (n k : Nat) : Word :=
  b.base + BitVec.ofInt 64 (b.row n * b.pitch.toInt) + BitVec.ofNat 64 k

/-- Where the parts of stream element n lie (R116): its data; the scale of an MX block; the scale of a sorus; its band
scale. -/
def Binding.dataAt (b : Binding) (n : Nat) : Word :=
  let c := b.col n
  b.rowByte n (if b.ty == .sf4 then 5 * (c / 8) + c % 8 / 2 else if b.ty == .e2m1 then c / 2 else c * b.ty.bytes)
def Binding.mxAt (b : Binding) (n : Nat) : Word :=
  b.scale + BitVec.ofNat 64 (b.row n * (b.rowlen.toNat / 32) + b.col n / 32)
def Binding.sorusAt (b : Binding) (n : Nat) : Word :=
  b.rowByte n (5 * (b.col n / 8) + (b.sorusLen (b.row n) (b.col n) + 1) / 2)
def Binding.bandAt (b : Binding) (n : Nat) : Word := b.band + BitVec.ofNat 64 (2 * (b.row n / 64))

/-- The addresses that delivering stream element POS + i reads, in their order. -/
def Binding.places (b : Binding) (i : Nat) : List Word :=
  let n := b.pos.toNat + i
  if n ≥ b.total.toNat then []
  else b.dataAt n :: (if b.ty == .sf4 then [b.sorusAt n, b.bandAt n] else if b.mx then [b.mxAt n] else [])

/-- Stream element POS + i as the instruction's TYPE. -/
def Binding.deliver (b : Binding) (t : Ty) (i : Nat) : Run Nat := do
  let n := b.pos.toNat + i
  if n ≥ b.total.toNat then Run.trap .streamEnd 0
  else
    let round := fun (x : Num) => (roundTo t 0 false false 0 x).1
    let nibble := fun (x : Nat) => x / 2 ^ (4 * (b.col n % 2)) % 16
    if b.ty == .sf4 then do
      let code ← streamRead b.reg (b.dataAt n) 1
      let sc ← streamRead b.reg (b.sorusAt n) 1
      let band ← streamRead b.reg (b.bandAt n) 2
      return round (((decodeFloat .e2m1 (nibble code)).mul ((e3m5 sc).mul (decodeFloat .bf16 band)).1).1)
    else do
      let raw ← streamRead b.reg (b.dataAt n) b.ty.bytes
      let raw := if b.ty == .e2m1 then nibble raw else raw
      if b.mx then do
        let sc ← streamRead b.reg (b.mxAt n) 1
        return round (match e8m0 sc with
          | some e => (decodeFloat b.ty raw).scale e
          | none => .nan false)
      else if b.ty == t then return raw
      else return round (decodeFloat b.ty raw)

/-- Element i of a vector source, from its stream if the register is bound. t: the strand whose content counts. -/
def srcOf (t : Strand) (ty : Ty) (r i : Nat) : Run Nat :=
  match t.bindOf r with
  | some b => b.deliver ty i
  | none => pure (t.elem ty.width r i)

def src (ty : Ty) (r i : Nat) : Run Nat := do
  let t ← Run.cur
  srcOf t ty r i

/-- POS of the bound sources moves on by the elements that were consumed (R117). -/
def Strand.consume (t : Strand) (regs : List Nat) (n : Nat) : Strand :=
  { t with binds := t.binds.map fun b =>
      if regs.contains b.reg then { b with pos := b.pos + BitVec.ofNat 64 n, reads := none } else b }

/-- An instruction begins: it has read none of these streams. -/
def Strand.unread (t : Strand) (regs : List Nat) : Strand :=
  { t with binds := t.binds.map fun b => if regs.contains b.reg then { b with reads := none } else b }

/-- The bound registers among the sources. -/
def Shape.bound (sh : Shape) (t : Strand) (n : Names) : List Nat :=
  ((sh.vecSources n).filter fun r => (t.bindOf r).isSome).eraseDups

/-- The reads of bound registers are loads with tags of their own (R99, R283): those tags, and the sets that the reads have
taken, join a set. -/
def streamTags : List Nat → Taint → Run Taint
  | [], x => pure x
  | r :: rs, x => do
    let t ← Run.cur
    let (tag, t') := t.newTag
    Run.onCur fun _ => t'
    let own := match t.bindOf r with
      | some b => b.reads.getD .empty
      | none => .empty
    streamTags rs (t'.joinTaint (t'.joinTaint x own) tag)

/-! ### Cross-lane operands (R15, R202) -/

/-- The source index of element i, or none for zero. -/
def crossIndex (o : Operands) (w vlmax i : Nat) : Option Nat :=
  let n := o.im 0 6
  let g := if o.im 9 1 == 1 then 64 else 8
  let j : Option Nat := match o.im 10 2 with
    | 1 => if n ≤ i then some (i - n) else none
    | 2 => some (i + n)
    | _ => some (Nat.xor i n)
  j.filter fun j => decide (j < vlmax) && slotOf w j / 64 == slotOf w i / 64 && laneOf w j / g == laneOf w i / g

/-- A translation of a sweep: no data is read or written. -/
def sweepTo (acc : Acc) (va : Word) : Run Unit := do
  let _ ← translateS acc false va

/-- The accesses that element i of a register makes, if it is bound, for a translation sweep (R87). -/
def streamReads (t : Strand) (r i : Nat) : List (Run Unit) :=
  match t.bindOf r with
  | some b => (b.places i).map (sweepTo .load)
  | none => []

/-- Does the instruction carry a cross-lane modifier? -/
def isCross (o : Operands) : Bool := o.form == .l64 && o.im 10 2 != 0

/-- Operand B from a vector, with the modifier it may carry. t0: the strand before the instruction wrote anything. A bound
register delivers stream element POS + j for every source index j that R15 admits (log entry 81). -/
def vecB (o : Operands) (t0 : Strand) (r i : Nat) : Run Nat :=
  if isCross o then
    match crossIndex o o.ty.width (t0.vlmax o.ty.width) i with
    | some j => srcOf t0 o.ty r j
    | none => pure 0
  else src o.ty r i

/-- The stream reads of element i of an instruction, for a sweep: of operand B those that its modifier selects. -/
def Shape.reads (sh : Shape) (o : Operands) (t : Strand) (n : Names) (i : Nat) : List (Run Unit) :=
  let b := if sh.cross && isCross o then crossIndex o o.ty.width (t.vlmax o.ty.width) i else some i
  ({ sh with b := .z }.vecSources n).flatMap (streamReads t · i) ++
    (if sh.b == .v && !sh.bRaw then (b.map (streamReads t n.b)).getD [] else [])

/-! ### Dispatch -/

/-- The checks of step 11 of R51 whose cause is ILL: ew, fcsr, odd registers, the instruction's own, and bound
registers. -/
def dispatchOk (o : Operands) (sh : Shape) (more : Strand → Names → Bool) (t : Strand) (n : Names) : Bool :=
  (!sh.ew || o.ty.width == t.ew) && !(sh.rm && o.rm == 7 && decide (t.rnd ≥ 6)) &&
  !(o.xd && sh.dTy.width == 3 && n.d % 2 == 1) && !(o.xa && o.ty.width == 3 && n.a % 2 == 1) && more t n &&
  !((sh.dst n).any fun r => t.binds.any fun b => r == .v b.reg) &&
  !((sh.rawSources n).any fun r => (t.bindOf r).isSome) &&
  (sh.vecSources n).all fun r => match t.bindOf r with
    | some b => b.pairs o.ty
    | none => true

/-- Steps 10 and 11 of R51 for a convoy-class instruction, then its place in the convoy. more: its own dispatch
checks. -/
def prep (o : Operands) (sh : Shape) (more : Strand → Names → Bool) : Run Names := do
  let t ← Run.cur
  let n := t.names o
  let conv := if o.cv then .closed else t.convoy
  let cross := sh.cross && isCross o
  let p0 := parcel0 o
  Run.check (conv.fits sh.cls cross (if o.xd then (if sh.apart then [] else sh.wrote) else sh.dst n)) .illConvoy p0
  Run.check (dispatchOk o sh more t n) .ill p0
  Run.check (conv.fits sh.cls cross (sh.dst n)) .illConvoy p0
  Run.onCur fun t => ({ t with convoy := conv.join sh.cls cross (sh.dst n) (sh.named o n) } : Strand).unread (sh.bound t n)
  touch (sh.named o n)
  ownStates sh.mat sh.sm
  return n

/-! ### Taint of results -/

/-- The source set of an instruction. -/
def Strand.sourceSet (t : Strand) (o : Operands) (sh : Shape) (n : Names) : Taint := t.unionOf (sh.sources o t n)

/-- Put a set on the destinations: joined for vectors and predicates, in place of the old for scalars (R285), and joined
into the small-matrix state where the instruction names it (R265). -/
def Strand.taintDst (t : Strand) (sh : Shape) (n : Names) (x : Taint) : Strand :=
  let t := if !sh.writes then t else
    match sh.d with
    | .s => t.setTaint (.s n.d) x
    | .m | .acc => t
    | k => (idsOf k sh.dTy n.d).foldl (fun t r => t.addTaint r x) t
  let t := (sh.wrote.filter fun r => match r with
    | .v _ => true
    | _ => false).foldl (fun t r => t.addTaint r x) t
  if sh.sm then t.addTaint .sm x else t

/-- The set with the tag of a load, if the instruction makes one. -/
def tagged (load : Bool) (x : Taint) : Run Taint := fun s =>
  if load then
    let (tag, t) := s.cur.newTag
    .ok (t.joinTaint x tag) { s with cur := t }
  else .ok x s

/-! ### The element loop (R172) -/

/-- Bit i of the guard predicate equals 1 - G.neg (R40). -/
def Strand.guardOk (t : Strand) (g : BitVec 4) (i : Nat) : Bool := t.p (g.toNat % 8) i == decide (g.toNat < 8)

/-- Guard and mif allow element (or column) i. -/
def Strand.allows (t : Strand) (o : Operands) (i : Nat) : Bool := t.guardOk o.g i && t.p t.csr.mif.toNat i

/-- At a boundary: is a request pending? One that is still some boundaries off comes nearer first; the boundary before the
first element is the one before the instruction, which has been counted. -/
def atBoundary (first : Bool) : Run Bool := fun s =>
  let s := if first then s
    else s.onCur fun t => { t with preempt := t.preempt.map fun k => if t.takeable then k - 1 else k }
  .ok s.cur.preemptNow s

/-- Try a step: the stop it meets, if any. -/
def trial {α : Type} (m : Run α) : Run (Except Stop α) := fun s =>
  match m s with
  | .ok x s' => .ok (.ok x) s'
  | .error e s' => .ok (.error e) s'

/-- Elements i, i + 1, ... : k of them. ok: may the element be performed? vs: the first element. bsz: elements between
boundaries. Answers what the body folded, and the element and stop where it ended early. -/
def loopFrom {α : Type} (ok : Strand → Nat → Bool) (vs bsz : Nat) (body : Nat → α → Run α) :
    Nat → Nat → α → Run (α × Option (Nat × Stop))
  | 0, _, acc => pure (acc, none)
  | k + 1, i, acc => do
    let pend ← if (i - vs) % bsz == 0 then atBoundary (i == vs) else pure false
    if pend then
      if i == vs then Run.stop .before else return (acc, some (i, .cause .preempt 0))
    else do
      let t ← Run.cur
      if !(ok t i) then loopFrom ok vs bsz body k (i + 1) acc
      else do
        let r ← trial (body i acc)
        match r with
        | .ok acc' => loopFrom ok vs bsz body k (i + 1) acc'
        | .error e => return (acc, some (i, e))

def Stop.trimCause : Stop → Nat
  | .cause c _ => causeCode c
  | .s2 c _ _ _ _ => causeCode c
  | .before | .lost => 0

/-- Shorten(k, cause) of a vector instruction. -/
def shorten (k : Nat) (e : Stop) (x : Taint) : Run Unit := Run.onCur fun t =>
  ((((t.setVl k).setAl k).setTrim e.trimCause k).setVstart 0).addTaint .vl x

/-- Request the page of a stage-2 miss. kva: the address of element k. -/
def requestStop (e : Stop) (kva : Word) : Run Unit := fun s =>
  match e with
  | .s2 _ kind gpage perm _ => .ok () (s.request kind gpage perm kva)
  | _ => .ok () s

/-- The address of element k at which a stage-2 miss was met. -/
def Stop.va : Stop → Word
  | .s2 _ _ _ _ va => va
  | _ => 0

/-- What a sweep keeps of an access: the device and which stores have performed, nothing else. -/
def State.swept (s s' : State) : State := { s with dev := s'.dev, cur := { s.cur with buf := s'.cur.buf } }

/-- The rest of a translation sweep (R86, R87): the page of every further access that misses stage 2 is requested. -/
def sweep (kva : Word) : List (Run Unit) → Run Unit
  | [] => pure ()
  | m :: ms => do
    let s ← get
    match m s with
    | .ok _ s' => set (s.swept s')
    | .error e s' => do
      set (s.swept s')
      requestStop e kva
    sweep kva ms

/-- Where a loop ends with a stage-2 miss, request its page and those of the rest of the sweep. -/
def sweepAt (e : Stop) (rest : List (Run Unit)) : Run Unit := do
  requestStop e e.va
  match e with
  | .s2 _ _ _ _ _ => sweep e.va rest
  | _ => pure ()

/-- The loop of R172 over the elements below vl: what the body folded, the achieved length, and the set that fin gives for
what was folded, which a shortening joins into that of vl. A stop at the leading element is the instruction's. rest: the
accesses of an element, for a sweep. -/
def elementLoop {α : Type} (o : Operands) (fin : α → Run Taint) (rest : Nat → List (Run Unit))
    (body : Nat → α → Run α) (init : α) : Run (α × Nat × Taint) := do
  let t ← Run.cur
  let vs := t.csr.vstart.toNat
  let bound := t.vl
  let ok := fun (t : Strand) (i : Nat) => t.allows o i
  let (acc, r) ← loopFrom ok vs (64 * epslot t.ew) body (bound - vs) vs init
  match r with
  | none => do
    let x ← fin acc
    Run.onCur fun t => (t.setAl bound).setVstart 0
    return (acc, bound, x)
  | some (k, e) => do
    let t ← Run.cur
    sweepAt e (((List.range' k (bound - k)).filter (ok t)).flatMap rest)
    if k == vs then Run.stop e
    else do
      let x ← fin acc
      shorten k e x
      return (acc, k, x)

/-- An element-loop instruction: dispatch, loop, streams, taint; the set it gave its destinations. body is given the names
and the strand before the instruction wrote. -/
def vecLoopX (o : Operands) (sh : Shape) (more : Strand → Names → Bool) (body : Names → Strand → Nat → Run Unit) :
    Run Taint := do
  let n ← prep o sh more
  let t ← Run.cur
  let bound := sh.bound t n
  let (_, al, x) ← elementLoop o (fun _ => streamTags bound (t.sourceSet o sh n)) (sh.reads o t n)
    (fun i _ => body n t i) ()
  Run.onCur fun t => (t.consume bound al).taintDst sh n x
  return x

def vecLoop (o : Operands) (sh : Shape) (more : Strand → Names → Bool) (body : Names → Strand → Nat → Run Unit) :
    Run Unit := do
  let _ ← vecLoopX o sh more body

/-! ### The tile loop (R112, R113) -/

/-- rows × vl elements; the guard and mif test the column. vl and rows stay. -/
def tileLoop {α : Type} (o : Operands) (rest : Nat → List (Run Unit)) (body : Nat → α → Run α)
    (init : α) : Run (α × Nat) := do
  let t ← Run.cur
  let vs := t.csr.vstart.toNat
  let cols := t.vl
  let bound := t.csr.rows.toNat * cols
  let ok := fun (t : Strand) (e : Nat) => t.allows o (e % cols)
  let leave := fun (t : Strand) (ar ac e : Nat) =>
    ({ t with csr := { t.csr with ar := BitVec.ofNat 32 ar, ac := BitVec.ofNat 32 ac, eprog := BitVec.ofNat 32 e,
                                  al := BitVec.ofNat 32 e, vstart := 0 } } : Strand)
  let (acc, r) ← loopFrom ok vs (64 * epslot t.ew) body (bound - vs) vs init
  match r with
  | none => do
    Run.onCur fun t => leave t t.csr.rows.toNat 0 bound
    return (acc, bound)
  | some (k, e) => do
    let t ← Run.cur
    sweepAt e (((List.range' k (bound - k)).filter (ok t)).flatMap rest)
    if k == vs then Run.stop e
    else do
      Run.onCur fun t => (leave t (k / cols) (k % cols) k).setTrim e.trimCause k
      return (acc, k)

/-- rows × vl fits a register (R112). -/
def tileFits (t : Strand) (_n : Names) : Bool := decide (t.csr.rows.toNat * t.vl ≤ t.vlmax t.ew)

/-! ### Instructions by element -/

/-- An instruction given by what it does to one element: its shape, its own dispatch checks, and the element's effect. -/
structure EOp where
  sh : Operands → Shape
  more : Operands → Strand → Names → Bool := fun _ _ _ => true
  body : Operands → Names → Strand → Nat → Run Unit

/-- It runs the element loop. -/
def runE (e : EOp) (o : Operands) : Run Unit := vecLoop o (e.sh o) (e.more o) (e.body o)

/-- Steps for each number of a list, in order. -/
def each : List Nat → (Nat → Run Unit) → Run Unit
  | [], _ => pure ()
  | i :: is, f => do
    f i
    each is f

/-- Values for each number of a list. -/
def collect : List Nat → (Nat → Run Nat) → Run (List (Nat × Nat))
  | [], _ => pure []
  | i :: is, f => do
    let x ← f i
    let xs ← collect is f
    return (i, x) :: xs

/-! ### Instructions that never stop (R216) -/

/-- The active elements with vstart taken as 0, ascending. -/
def Strand.actives (t : Strand) (o : Operands) : List Nat := (List.range t.vl).filter fun i => t.allows o i

/-- Element j of a whole source: below vl from its stream, if it is bound; else the register's content (log entry 81). -/
def srcW (t : Strand) (ty : Ty) (r j : Nat) : Run Nat :=
  if j < t.vl then srcOf t ty r j else pure (t.elem ty.width r j)

/-- Such an instruction meets a stage-2 miss: the pages of its other stream reads are requested too (R87). -/
def withSweep {α : Type} (rest : List (Run Unit)) (m : Run α) : Run α := do
  match ← trial m with
  | .ok x => return x
  | .error e => do
    sweepAt e rest
    Run.stop e

/-- Every stream read of its elements below vl. -/
def Shape.allReads (sh : Shape) (o : Operands) (t : Strand) (n : Names) : List (Run Unit) :=
  (List.range t.vl).flatMap ({ sh with cross := false }.reads o t n)

/-- The end of such an instruction: streams, taint, vstart 0; the set it gave its destinations. -/
def bulkEndX (o : Operands) (sh : Shape) (n : Names) (t : Strand) : Run Taint := do
  let bound := sh.bound t n
  let x ← streamTags bound (t.sourceSet o sh n)
  Run.onCur fun c => ((c.consume bound t.vl).taintDst sh n x).setVstart 0
  return x

def bulkEnd (o : Operands) (sh : Shape) (n : Names) (t : Strand) : Run Unit := do
  let _ ← bulkEndX o sh n t

/-- An instruction that reads all of its sources and then writes elements of D, which f answers. -/
def bulkX (o : Operands) (sh : Shape) (more : Strand → Names → Bool)
    (f : Names → Strand → Run (List (Nat × Nat))) : Run Taint := do
  let n ← prep o sh more
  let t ← Run.cur
  let ws ← withSweep (sh.allReads o t n) (f n t)
  Run.onCur fun c => ws.foldl (fun c (i, x) => c.setElem o.ty.width n.d i x) c
  bulkEndX o sh n t

def bulk (o : Operands) (sh : Shape) (more : Strand → Names → Bool)
    (f : Names → Strand → Run (List (Nat × Nat))) : Run Unit := do
  let _ ← bulkX o sh more f

/-- An instruction by element that never stops. -/
def bulkE (e : EOp) (o : Operands) : Run Unit := do
  let n ← prep o (e.sh o) (e.more o)
  let t ← Run.cur
  withSweep ((e.sh o).allReads o t n) (each (t.actives o) (e.body o n t))
  bulkEnd o (e.sh o) n t

end Sys2Proof.Machine
end

