-- ==== Sys2Proof/Machine/Scalar.lean ====
section
/-! DEFINITION. The scalar instructions of opcodes 0x01 to 0x04 (R203 to R207). None of them runs the element loop; the
only stop is INT_DZ (R205). -/

namespace Sys2Proof.Machine

/-! ### Results -/

/-- Three-input logic (R213): bit j is bit 4d + 2a + b of the table. -/
def lut3 {w : Nat} (table : Nat) (d a b : BitVec w) : BitVec w :=
  (List.range 8).foldl (fun acc k =>
    if table / 2 ^ k % 2 == 1 then
      acc ||| ((if k / 4 % 2 == 1 then d else ~~~d) &&& (if k / 2 % 2 == 1 then a else ~~~a) &&&
        (if k % 2 == 1 then b else ~~~b))
    else acc) 0

/-- Set bits among the low n. -/
def popCount {w : Nat} (x : BitVec w) : Nat → Nat
  | 0 => 0
  | n + 1 => bitVal (x.getLsbD n) + popCount x n

/-- Leading zero bits of the low n. -/
def leadZeros {w : Nat} (x : BitVec w) : Nat → Nat
  | 0 => 0
  | n + 1 => if x.getLsbD n then 0 else 1 + leadZeros x n

/-- Trailing zero bits from bit k, n bits left. -/
def trailZeros {w : Nat} (x : BitVec w) (k : Nat) : Nat → Nat
  | 0 => 0
  | n + 1 => if x.getLsbD k then 0 else 1 + trailZeros x (k + 1) n

/-- The result of the operation FN selects in opcodes 0x01 and 0x02 (R203), but for division by zero. -/
def aluResult : Nat → Word → Word → Word
  | 0x00, a, b => a + b
  | 0x01, a, b => a - b
  | 0x02, a, b => a &&& b
  | 0x03, a, b => a ||| b
  | 0x04, a, b => a ^^^ b
  | 0x05, a, b => if 64 ≤ b.toNat then 0 else a <<< b.toNat
  | 0x06, a, b => a >>> b.toNat
  | 0x07, a, b => a.sshiftRight b.toNat
  | 0x08, a, b => if a.slt b then 1 else 0
  | 0x09, a, b => if a.ult b then 1 else 0
  | 0x0A, a, b => if a = b then 1 else 0
  | 0x0B, a, b => if a.slt b then a else b
  | 0x0C, a, b => if a.slt b then b else a
  | 0x0D, a, b => if a.ult b then a else b
  | 0x0E, a, b => if a.ult b then b else a
  | 0x0F, a, b => a * b
  | 0x10, a, b => BitVec.ofInt 64 (a.toInt * b.toInt / 2 ^ 64)
  | 0x11, a, b => BitVec.ofNat 64 (a.toNat * b.toNat / 2 ^ 64)
  | 0x12, a, b => a.sdiv b
  | 0x13, a, b => a.udiv b
  | 0x14, a, b => a.srem b
  | 0x15, a, b => a.umod b
  | 0x16, a, b => a.rotateLeft (b.toNat % 64)
  | _, a, _ => a

/-! ### Shapes -/

/-- Write a scalar with the union of its sources' sets (R285). -/
def Strand.putS (t : Strand) (d : Nat) (x : Word) (srcs : List RegId) : Strand :=
  (t.setS d x).setTaint (.s d) (t.unionOf srcs)

/-- A register form of opcode 0x01. -/
def aluReg (o : Operands) (fn : Nat) : Run Unit := Run.onCur fun t =>
  t.putS o.d.toNat (aluResult fn (t.s o.a.toNat) (t.s o.b.toNat)) [.s o.a.toNat, .s o.b.toNat]

/-- An immediate form of opcode 0x02. -/
def aluImm (o : Operands) (fn : Nat) : Run Unit := Run.onCur fun t =>
  t.putS o.d.toNat (aluResult fn (t.s o.a.toNat) o.simm) [.s o.a.toNat]

/-- A one-operand form. -/
def aluOne (o : Operands) (f : Word → Word) : Run Unit := Run.onCur fun t =>
  t.putS o.d.toNat (f (t.s o.a.toNat)) [.s o.a.toNat]

/-- The result by zero (R205): all ones for a quotient, a for a remainder. -/
def byZero (rem : Bool) (a : Word) : Word := if rem then a else BitVec.allOnes 64

/-- A division: by zero it traps or sets DZF. -/
def divide (o : Operands) (fn : Nat) (rem : Bool) (b : Word) (srcs : List RegId) : Run Unit := do
  let t ← Run.cur
  let a := t.s o.a.toNat
  if b == 0 then do
    divZero
    Run.onCur (·.putS o.d.toNat (byZero rem a) srcs)
  else Run.onCur (·.putS o.d.toNat (aluResult fn a b) srcs)

def divReg (o : Operands) (fn : Nat) (rem : Bool) : Run Unit := do
  let t ← Run.cur
  divide o fn rem (t.s o.b.toNat) [.s o.a.toNat, .s o.b.toNat]

def divImm (o : Operands) (fn : Nat) (rem : Bool) : Run Unit := divide o fn rem o.simm [.s o.a.toNat]

/-! ### Opcode 0x01 (R203) -/

def execAdd (o : Operands) (s : State) : Out := instr o (aluReg o 0x00) s
def execAddL64 (o : Operands) (s : State) : Out := instr o (aluReg o 0x00) s
def execSub (o : Operands) (s : State) : Out := instr o (aluReg o 0x01) s
def execSubL64 (o : Operands) (s : State) : Out := instr o (aluReg o 0x01) s
def execAnd (o : Operands) (s : State) : Out := instr o (aluReg o 0x02) s
def execAndL64 (o : Operands) (s : State) : Out := instr o (aluReg o 0x02) s
def execOr (o : Operands) (s : State) : Out := instr o (aluReg o 0x03) s
def execOrL64 (o : Operands) (s : State) : Out := instr o (aluReg o 0x03) s
def execXor (o : Operands) (s : State) : Out := instr o (aluReg o 0x04) s
def execXorL64 (o : Operands) (s : State) : Out := instr o (aluReg o 0x04) s
def execShl (o : Operands) (s : State) : Out := instr o (aluReg o 0x05) s
def execShlL64 (o : Operands) (s : State) : Out := instr o (aluReg o 0x05) s
def execShr (o : Operands) (s : State) : Out := instr o (aluReg o 0x06) s
def execShrL64 (o : Operands) (s : State) : Out := instr o (aluReg o 0x06) s
def execSra (o : Operands) (s : State) : Out := instr o (aluReg o 0x07) s
def execSraL64 (o : Operands) (s : State) : Out := instr o (aluReg o 0x07) s
def execSlt (o : Operands) (s : State) : Out := instr o (aluReg o 0x08) s
def execSltL64 (o : Operands) (s : State) : Out := instr o (aluReg o 0x08) s
def execSltn (o : Operands) (s : State) : Out := instr o (aluReg o 0x09) s
def execSltnL64 (o : Operands) (s : State) : Out := instr o (aluReg o 0x09) s
def execSeq (o : Operands) (s : State) : Out := instr o (aluReg o 0x0A) s
def execSeqL64 (o : Operands) (s : State) : Out := instr o (aluReg o 0x0A) s
def execMin (o : Operands) (s : State) : Out := instr o (aluReg o 0x0B) s
def execMinL64 (o : Operands) (s : State) : Out := instr o (aluReg o 0x0B) s
def execMax (o : Operands) (s : State) : Out := instr o (aluReg o 0x0C) s
def execMaxL64 (o : Operands) (s : State) : Out := instr o (aluReg o 0x0C) s
def execMinn (o : Operands) (s : State) : Out := instr o (aluReg o 0x0D) s
def execMinnL64 (o : Operands) (s : State) : Out := instr o (aluReg o 0x0D) s
def execMaxn (o : Operands) (s : State) : Out := instr o (aluReg o 0x0E) s
def execMaxnL64 (o : Operands) (s : State) : Out := instr o (aluReg o 0x0E) s
def execMul (o : Operands) (s : State) : Out := instr o (aluReg o 0x0F) s
def execMulL64 (o : Operands) (s : State) : Out := instr o (aluReg o 0x0F) s
def execMulh (o : Operands) (s : State) : Out := instr o (aluReg o 0x10) s
def execMulhn (o : Operands) (s : State) : Out := instr o (aluReg o 0x11) s
def execDiv (o : Operands) (s : State) : Out := instr o (divReg o 0x12 false) s
def execDivn (o : Operands) (s : State) : Out := instr o (divReg o 0x13 false) s
def execRem (o : Operands) (s : State) : Out := instr o (divReg o 0x14 true) s
def execRemn (o : Operands) (s : State) : Out := instr o (divReg o 0x15 true) s
def execRol (o : Operands) (s : State) : Out := instr o (aluReg o 0x16) s

def execClz (o : Operands) (s : State) : Out :=
  instr o (aluOne o fun a => BitVec.ofNat 64 (leadZeros a 64)) s
def execCtz (o : Operands) (s : State) : Out :=
  instr o (aluOne o fun a => BitVec.ofNat 64 (trailZeros a 0 64)) s
def execPopc (o : Operands) (s : State) : Out :=
  instr o (aluOne o fun a => BitVec.ofNat 64 (popCount a 64)) s

/-- LUT3 reads the old sd. -/
def execLut3 (o : Operands) (s : State) : Out :=
  instr o (Run.onCur fun t =>
    t.putS o.d.toNat (lut3 (o.im 0 8) (t.s o.d.toNat) (t.s o.a.toNat) (t.s o.b.toNat))
      [.s o.d.toNat, .s o.a.toNat, .s o.b.toNat]) s

/-! ### Opcode 0x02 (R204) -/

def execAddi (o : Operands) (s : State) : Out := instr o (aluImm o 0x00) s
def execSubi (o : Operands) (s : State) : Out := instr o (aluImm o 0x01) s
def execAndi (o : Operands) (s : State) : Out := instr o (aluImm o 0x02) s
def execOri (o : Operands) (s : State) : Out := instr o (aluImm o 0x03) s
def execXori (o : Operands) (s : State) : Out := instr o (aluImm o 0x04) s
def execShli (o : Operands) (s : State) : Out := instr o (aluImm o 0x05) s
def execShri (o : Operands) (s : State) : Out := instr o (aluImm o 0x06) s
def execSrai (o : Operands) (s : State) : Out := instr o (aluImm o 0x07) s
def execSlti (o : Operands) (s : State) : Out := instr o (aluImm o 0x08) s
def execSltni (o : Operands) (s : State) : Out := instr o (aluImm o 0x09) s
def execSeqi (o : Operands) (s : State) : Out := instr o (aluImm o 0x0A) s
def execMini (o : Operands) (s : State) : Out := instr o (aluImm o 0x0B) s
def execMaxi (o : Operands) (s : State) : Out := instr o (aluImm o 0x0C) s
def execMinni (o : Operands) (s : State) : Out := instr o (aluImm o 0x0D) s
def execMaxni (o : Operands) (s : State) : Out := instr o (aluImm o 0x0E) s
def execMuli (o : Operands) (s : State) : Out := instr o (aluImm o 0x0F) s
def execMulhi (o : Operands) (s : State) : Out := instr o (aluImm o 0x10) s
def execMulhni (o : Operands) (s : State) : Out := instr o (aluImm o 0x11) s
def execDivi (o : Operands) (s : State) : Out := instr o (divImm o 0x12 false) s
def execDivni (o : Operands) (s : State) : Out := instr o (divImm o 0x13 false) s
def execRemi (o : Operands) (s : State) : Out := instr o (divImm o 0x14 true) s
def execRemni (o : Operands) (s : State) : Out := instr o (divImm o 0x15 true) s
def execRoli (o : Operands) (s : State) : Out := instr o (aluImm o 0x16) s

/-! ### Opcodes 0x03 and 0x04 (R206, R207) -/

/-- sd is the 32-bit value, sign-extended. -/
def execLi (o : Operands) (s : State) : Out :=
  instr o (Run.onCur fun t => t.putS o.d.toNat o.simm []) s

/-- The 32-bit value replaces the high half; sd is read. -/
def execLih (o : Operands) (s : State) : Out :=
  instr o (Run.onCur fun t =>
    t.putS o.d.toNat ((o.simm <<< 32) ||| (t.s o.d.toNat &&& 0xFFFFFFFF)) [.s o.d.toNat]) s

/-- n ones. -/
def onesMask (w n : Nat) : BitVec w := BitVec.ofNat w (2 ^ n - 1)

def execExt (o : Operands) (s : State) : Out :=
  instr o (aluOne o fun a => (a >>> o.imPos) &&& onesMask 64 o.imLen) s

/-- The bits of x from pos, len of them, put into old. -/
def insertField {w : Nat} (pos len : Nat) (old x : BitVec w) : BitVec w :=
  (old &&& ~~~(onesMask w len <<< pos)) ||| ((x &&& onesMask w len) <<< pos)

def execIns (o : Operands) (s : State) : Out :=
  instr o (Run.onCur fun t =>
    t.putS o.d.toNat (insertField o.imPos o.imLen (t.s o.d.toNat) (t.s o.a.toNat)) [.s o.d.toNat, .s o.a.toNat]) s

def execSel (o : Operands) (s : State) : Out :=
  instr o (Run.onCur fun t =>
    let m := t.s o.d.toNat
    t.putS o.d.toNat ((t.s o.a.toNat &&& m) ||| (t.s o.b.toNat &&& ~~~m)) [.s o.d.toNat, .s o.a.toNat, .s o.b.toNat]) s

end Sys2Proof.Machine
end

