-- ==== Sys2Proof/Machine/Control.lean ====
section
/-! DEFINITION. Branches, jumps, calls, loop nests, vector length, control registers, strip farms and barriers (opcodes
0x10 to 0x13, 0x15, 0x18: R323 to R331, R337 to R342). -/

namespace Sys2Proof.Machine

/-! ### Branches (R325) -/

/-- A conditional branch: control depends on its sources. -/
def branch (o : Operands) (srcs : List RegId) (taken : Strand → Bool) : Run (Option Word) := do
  notInNest o
  Run.onCur (·.orderLater srcs)
  let t ← Run.cur
  return if taken t then some (t.pc + (o.simm <<< 2)) else none

/-- A branch on two scalars. -/
def branch2 (o : Operands) (c : Word → Word → Bool) : Run (Option Word) :=
  branch o [.s o.a.toNat, .s o.b.toNat] fun t => c (t.s o.a.toNat) (t.s o.b.toNat)

def branch1 (o : Operands) (c : Word → Bool) : Run (Option Word) :=
  branch o [.s o.a.toNat] fun t => c (t.s o.a.toNat)

/-- The considered bits of a predicate: below vl, where p[mif] is 1. -/
def Strand.considered (t : Strand) (n : Nat) : List Bool :=
  ((List.range t.vl).filter fun i => t.p t.csr.mif.toNat i).map fun i => t.p n i

def branchP (o : Operands) (c : List Bool → Bool) : Run (Option Word) := do
  let t ← Run.cur
  branch o [.p o.a.toNat, .p t.csr.mif.toNat, .vl] fun t => c (t.considered o.a.toNat)

def execBEq (o : Operands) (s : State) : Out := flow o (branch2 o fun a b => a == b) s
def execBNe (o : Operands) (s : State) : Out := flow o (branch2 o fun a b => a != b) s
def execBLt (o : Operands) (s : State) : Out := flow o (branch2 o fun a b => a.slt b) s
def execBGe (o : Operands) (s : State) : Out := flow o (branch2 o fun a b => !(a.slt b)) s
def execBLtn (o : Operands) (s : State) : Out := flow o (branch2 o fun a b => a.ult b) s
def execBGen (o : Operands) (s : State) : Out := flow o (branch2 o fun a b => !(a.ult b)) s
def execBz (o : Operands) (s : State) : Out := flow o (branch1 o fun a => a == 0) s
def execBnz (o : Operands) (s : State) : Out := flow o (branch1 o fun a => a != 0) s
def execBpAny (o : Operands) (s : State) : Out := flow o (branchP o fun l => l.any id) s
def execBpAll (o : Operands) (s : State) : Out := flow o (branchP o fun l => l.all id) s
def execBpNone (o : Operands) (s : State) : Out := flow o (branchP o fun l => !(l.any id)) s

/-! ### Jumps and calls (R326, R327) -/

def relTarget (o : Operands) (t : Strand) : Word := t.pc + (o.simm <<< 2)

def execJump (o : Operands) (s : State) : Out :=
  flow o (do
    notInNest o
    let t ← Run.cur
    return some (relTarget o t)) s

def execJr (o : Operands) (s : State) : Out :=
  flow o (do
    notInNest o
    let t ← Run.cur
    let a := t.s o.a.toNat
    Run.check (aligned a 4) .align a
    Run.onCur (·.orderLater [.s o.a.toNat])
    return some a) s

/-- The vector-state word (R327). -/
def Strand.vecWord (t : Strand) : Nat := t.csr.vl.toNat + 2 ^ 32 * t.csr.ew.toNat + 2 ^ 34 * t.csr.mif.toNat

/-- Push the frame of a call and go to the target (R327). srcs: the registers that the target was read from, which are
sources of s31 too (R285). -/
def call (o : Operands) (target : Word) (srcs : List RegId) : Run (Option Word) := do
  let t ← Run.cur
  let sp := t.s 31
  Run.check (aligned sp 16) .align sp
  Run.check (aligned target 4) .align target
  checkStore (sp - 16) 8
  checkStore (sp - 8) 8
  let x := t.unionOf (.s 31 :: .vl :: srcs)
  awaitStore x
  let _ ← storeAt (sp - 16) 8 (t.pc + BitVec.ofNat 64 (lenOf o)).toNat none x
  let _ ← storeAt (sp - 8) 8 t.vecWord none x
  Run.onCur (·.putS 31 (sp - 16) (.s 31 :: .vl :: srcs))
  return some target

def execCall (o : Operands) (s : State) : Out :=
  flow o (do
    notInNest o
    let t ← Run.cur
    call o (relTarget o t) []) s

def execCallr (o : Operands) (s : State) : Out :=
  flow o (do
    notInNest o
    let t ← Run.cur
    let r ← call o (t.s o.a.toNat) [.s o.a.toNat]
    Run.onCur (·.orderLater [.s o.a.toNat])
    return r) s

def execRet (o : Operands) (s : State) : Out :=
  flow o (do
    notInNest o
    let t ← Run.cur
    let sp := t.s 31
    Run.check (aligned sp 16) .align sp
    await (t.taintOf (.s 31))
    let ra ← loadAt sp 8
    let w ← loadAt (sp + 8) 8
    let target := BitVec.ofNat 64 ra.val
    Run.check (aligned target 4) .align target
    let ew := w.val / 2 ^ 32 % 4
    let x := t.joinTaint (t.taintOf (.s 31)) (t.joinTaint ra.taint w.taint)
    let x ← (fun s => let (tag, t) := s.cur.newTag; .ok (t.joinTaint x tag) { s with cur := t } : Run Taint)
    Run.onCur fun t =>
      let t := (t.setS 31 (sp + 16)).setTaint (.s 31) x
      let t := { t with csr := { t.csr with ew := BitVec.ofNat 2 ew, mif := BitVec.ofNat 3 (w.val / 2 ^ 34) } }
      let t := (t.setVl (min (w.val % 2 ^ 32) (t.vlmax ew))).addTaint .vl x
      { t with later := t.joinTaint t.later x }
    return some target) s

/-! ### Loop nests (R329 to R331) -/

/-- The address after n instructions from an address, by the LEN field of each. -/
def skipInstrs (fetchOne : Word → Run Nat) : Nat → Word → Run Word
  | 0, a => pure a
  | n + 1, a => do
    let p ← fetchOne a
    skipInstrs fetchOne n (a + BitVec.ofNat 64 (match formOf p with
      | some f => 4 * f.parcels
      | none => 4))

/-- Read a parcel of the body for its length; the failures are those of a fetch. -/
def bodyParcel (va : Word) : Run Nat := do
  let pa ← translateS .fetch false va
  let s ← get
  Run.check (!s.dev.poisoned pa) .poison va
  return s.dev.readLE pa 4

def execNest (o : Operands) (s : State) : Out :=
  skips o (do
    let t ← Run.cur
    checkIll o (!t.nest.active)
    let v := (t.names o).a
    checkIll o (t.bindOf v).isNone
    touch [v]
    let t ← Run.cur
    let d := o.im 0 3 + 1
    let n := o.im 3 5 + 1
    let start := t.pc + 8
    let stop ← skipInstrs bodyParcel n start
    let counts := (List.range d).map fun j => (t.word v j).toNat
    Run.onCur fun t => { (t.orderLater (.v v :: if o.xa then [.s o.a.toNat] else [])) with csr := { t.csr with li := [] } }
    if counts.any (· == 0) then return some stop
    else do
      Run.onCur fun t => { t with nest := ⟨true, start, stop, n, d, counts, t.sup.tlevel⟩ }
      return none) s

/-- NEXIT: the nest ends and control goes on after its body; the indices keep their values. -/
def nestExit (o : Operands) : Run (Option Word) := do
  let t ← Run.cur
  checkIll o t.nestHere
  Run.onCur fun t => { t with nest := { t.nest with active := false } }
  return some t.nest.stop

/-- NEXIT sA: with sA zero the next instruction follows. DESIGN CHOICE (log entry 98): it is then no NEXIT that closes the
convoy. -/
def nestExitIf (o : Operands) : Run (Option Word) := do
  let t ← Run.cur
  checkIll o t.nestHere
  Run.onCur (·.orderLater [.s o.a.toNat])
  if t.s o.a.toNat == 0 then return none else nestExit o

def execNexit (o : Operands) (s : State) : Out := flow o (nestExit o) s
def execNexitL64 (o : Operands) (s : State) : Out := flow o (nestExit o) s
def execNexitReg (o : Operands) (s : State) : Out := flow o (nestExitIf o) s
def execNexitRegL64 (o : Operands) (s : State) : Out := flow o (nestExitIf o) s

/-- The loop-back as an event of its own: nothing but where a body has just ended. -/
def execNestLoopback (s : State) : Out := .next (s.onCur (·.loopBack))

/-! ### Vector length and control registers (R323, R324, R168, R169) -/

def execSetvl (o : Operands) (s : State) : Out :=
  instr o (Run.onCur fun t =>
    let w := o.im 0 2
    let n := min (t.s o.a.toNat).toNat (t.vlmax w)
    let x := t.taintOf (.s o.a.toNat)
    let t := { t with csr := { t.csr with ew := BitVec.ofNat 2 w } }
    (((t.setVl n).setTaint .vl x).setS o.d.toNat (BitVec.ofNat 64 n)).setTaint (.s o.d.toNat) x |>.closeConvoy) s

/-- The number of a control register. -/
def csrNum (o : Operands) : Nat := o.im 0 12

/-- The access rules of R168, for a read. -/
def csrCheck (o : Operands) (write : Bool) : Run Unit := do
  let t ← Run.cur
  let n := csrNum o
  let p0 := parcel0 o
  if n ≥ 0xC00 then Run.trap .priv p0
  else if n ≥ 0x800 then do
    Run.check (t.sup.tlevel != 0) .priv p0
    Run.check (isSupCsr n || isQuotaCsr n) .ill p0
  else Run.check (isUserCsr n || (isRoCsr n && !write)) .ill p0

/-- The set a CSRR gives (R285). -/
def Strand.csrTaint (t : Strand) (n : Nat) : Taint :=
  if [0x000, 0x400, 0x402, 0x403, 0x404, 0x405, 0x409, 0x00B].contains n then t.taintOf .vl
  else if [0x406, 0x407, 0x408].contains n then t.taintOf .mat
  else if n == 0x40A then t.taintOf .sm
  else .empty

def Strand.csrRead (t : Strand) (cyc gtime : Word) (n : Nat) : Word :=
  if n < 0x400 then t.csr.user n else if n < 0x800 then t.roCsr cyc gtime n else t.sup.get n

def execCsrr (o : Operands) (s : State) : Out :=
  instr o (do
    csrCheck o false
    let s ← get
    let n := csrNum o
    Run.onCur fun t => (t.setS o.d.toNat (t.csrRead s.dev.cyc s.dev.gtime n)).setTaint (.s o.d.toNat) (t.csrTaint n)) s

/-- Writes that open a new convoy after them (R53), but for those with rows of their own. -/
def opensConvoy (n : Nat) : Bool :=
  [0x000, 0x001, 0x002, 0x003, 0x004, 0x005, 0x008, 0x009].contains n || (decide (0x010 ≤ n) && decide (n ≤ 0x017))

/-- Writes whose source joins the set of vl (R285). -/
def joinsVl (n : Nat) : Bool := [0x001, 0x002, 0x003, 0x004, 0x005].contains n

/-- What every CSRW does besides its register. -/
def Strand.csrAfter (t : Strand) (n : Nat) (x : Taint) : Strand :=
  let t := if joinsVl n then t.addTaint .vl x else t
  if opensConvoy n then t.closeConvoy else t

/-- A CSRW with the effect f on the strand of the source value. -/
def csrWrite (o : Operands) (f : Strand → Word → Strand) : Run Unit := do
  csrCheck o true
  Run.onCur fun t => (f t (t.s o.a.toNat)).csrAfter (csrNum o) (t.taintOf (.s o.a.toNat))

def execCsrw (o : Operands) (s : State) : Out :=
  instr o (csrWrite o fun t x =>
    if csrNum o < 0x400 then { t with csr := t.csr.setUser (csrNum o) x } else { t with sup := t.sup.put (csrNum o) x }) s

def execCsrwVl (o : Operands) (s : State) : Out :=
  instr o (csrWrite o fun t x =>
    (t.setVl (min (x.toNat % 2 ^ 32) (t.vlmax t.ew))).setTaint .vl (t.taintOf (.s o.a.toNat))) s

def execCsrwEw (o : Operands) (s : State) : Out :=
  instr o (csrWrite o fun t x =>
    let t := { t with csr := { t.csr with ew := x.truncate 2 } }
    t.setVl (min t.vl (t.vlmax t.ew))) s

def execCsrwVstart (o : Operands) (s : State) : Out :=
  instr o (csrWrite o fun t x => { t with csr := { t.csr with vstart := x.truncate 32 } }) s

def execCsrwSrseed (o : Operands) (s : State) : Out :=
  instr o (csrWrite o fun t x =>
    { t with csr := { t.csr with srseed := x.truncate 16 }, regs := { t.regs with sigma := sigmaAll (x.truncate 16) } }) s

def execCsrwQpct (o : Operands) (s : State) : Out :=
  instr o (csrWrite o fun t x => { t with csr := t.csr.setUser 0x009 x }) s

/-- Where the field a quota register views lies, and its size (R89). -/
def quotaField (d : Device) (t : Strand) (n : Nat) : Option (Nat × Nat) :=
  (d.agentOf t.sup.qdom.toNat t.vf).map fun a =>
    if n == 0x841 then (a.addr + 0x20, 4) else if n == 0x842 then (a.addr + 0x24, 4) else (a.addr + 0x28, 8)

/-- The bits of a quota register. -/
def quotaMask (n : Nat) : Word := if n == 0x843 then 0x000FFFFFFFFFFFF0 else 0xFFFFFFFF

def execCsrrQuotaView (o : Operands) (s : State) : Out :=
  instr o (do
    csrCheck o false
    drain
    let s ← get
    let n := csrNum o
    let x := match quotaField s.dev s.cur n with
      | some (a, k) => BitVec.ofNat 64 (s.dev.readLE a k) &&& quotaMask n
      | none => 0
    Run.onCur fun t => (t.setS o.d.toNat x).setTaint (.s o.d.toNat) .empty) s

def execCsrwQuotaView (o : Operands) (s : State) : Out :=
  instr o (do
    csrCheck o true
    awaitStore ((← Run.cur).taintOf (.s o.a.toNat))
    drain
    let s ← get
    let n := csrNum o
    match quotaField s.dev s.cur n with
    | some (a, k) => Run.onDev fun d => d.writeLE a k (s.cur.s o.a.toNat &&& quotaMask n).toNat
    | none => pure ()) s

/-! ### Strip farms and barriers (R337 to R342) -/

def farmBind (o : Operands) : Run Unit := do
  notInNest o
  let t ← Run.cur
  let a := t.s o.a.toNat
  Run.check (aligned a 64) .align a
  Run.onCur fun t => { t with farm := a }

/-- The physical address of the bound farm record, for an atomic there. -/
def farmRecord (o : Operands) : Run Nat := do
  notInNest o
  let t ← Run.cur
  checkIll o (t.farm != 0)
  awaitStore .empty
  drain
  let pa ← translateS .atomic false t.farm
  let s ← get
  Run.check (!s.dev.poisoned pa) .poison t.farm
  translateS .atomic true t.farm

def strip (o : Operands) : Run Unit := do
  let pa ← farmRecord o
  let s ← get
  let t := s.cur
  let next := s.dev.readLE pa 8
  let total := s.dev.readLE (pa + 0x08) 8
  let grain := s.dev.readLE (pa + 0x10) 4
  let vmax := t.vlmax t.ew
  let g := if grain != 0 then grain else vmax
  let len := if next < total then min (min g vmax) (total - next) else 0
  Run.onDev fun d => d.writeLE pa 8 (next + len)
  Run.onCur fun t =>
    let (tag, t) := t.newTag
    (((((t.setS o.d.toNat (BitVec.ofNat 64 next)).setTaint (.s o.d.toNat) tag).setVl len).addTaint .vl tag)).closeConvoy

/-- Release of the barrier at a record where everyone has arrived. -/
def Device.barRelease (d : Device) (pa : Nat) : Device :=
  (d.writeLE (pa + 0x18) 4 0).writeLE (pa + 0x1C) 4 (d.readLE (pa + 0x1C) 4 + 1)

def fbar (o : Operands) : Run (Option Wait) := do
  let pa ← farmRecord o
  let s ← get
  let cnt := s.dev.readLE (pa + 0x18) 4 + 1
  let gen := s.dev.readLE (pa + 0x1C) 4
  if cnt ≥ s.dev.readLE (pa + 0x14) 4 then do
    Run.onDev (·.barRelease pa)
    return none
  else do
    Run.onDev fun d => d.writeLE (pa + 0x18) 4 cnt
    return some (.fbar gen)

def Status.isCbar : Status → Bool
  | .waiting .cbar _ => true
  | _ => false

/-- Where every live strand of a core group has arrived at its CBAR, all pass together (R341). -/
def State.cbarRelease (s : State) (g : Nat) : State :=
  let mine := fun (t : Strand) => t.live && t.group == g
  if (s.strands.filter mine).all (·.status.isCbar) then
    s.mapStrands fun t => if mine t then (match t.status with
      | .waiting .cbar next => t.endWait next
      | _ => t) else t
  else s

/-- CBAR: arrive, with every earlier access performed. -/
def cbar (o : Operands) (s : State) : State :=
  match (do
    notInNest o
    settle : Run Unit) s with
  | .ok _ s =>
    (s.onCur fun t => { t with status := .waiting .cbar (t.pc + BitVec.ofNat 64 (lenOf o)) }).cbarRelease s.cur.group
  | .error e s' => s'.stopAt s.cur.convoy e

/-- YIELD: nothing changes but whose turn it is. -/
def yieldTurn (o : Operands) (s : State) : State :=
  match (notInNest o : Run Unit) s with
  | .ok _ s => (s.onCur (·.retire o)).rotate
  | .error e s' => s'.stopAt s.cur.convoy e

/-- The farm's part of EXIT (R342): PARTS falls, and a barrier that waited only for this strand is released. -/
def exitFarm (o : Operands) : Run Unit := do
  let t ← Run.cur
  if t.farm == 0 then pure ()
  else do
    let pa ← farmRecord o
    let s ← get
    let parts := s.dev.readLE (pa + 0x14) 4 - 1
    Run.onDev fun d => d.writeLE (pa + 0x14) 4 parts
    if parts > 0 && decide (s.dev.readLE (pa + 0x18) 4 ≥ parts) then Run.onDev (·.barRelease pa) else pure ()

/-- The strand has ended: it leaves its core and its group, and its node may be complete (R295). -/
def State.finishExit (s : State) : State :=
  let t := s.cur
  let s := s.onCur fun t => { t with status := .exited, preempt := none }
  let s := s.onDev fun d => (d.dropResident t.uid).nowDue
  let s := s.cbarRelease t.group
  (s.settleNode t.queue t.node.toNat).freeWindows

def exitStrand (o : Operands) (s : State) : State :=
  match (do
    notInNest o
    let t ← Run.cur
    checkIll o (t.sup.tlevel == 0)
    settle
    exitFarm o : Run Unit) s with
  | .ok _ s => s.finishExit
  | .error e s' => s'.stopAt s.cur.convoy e

def execFarm (o : Operands) (s : State) : Out := instr o (farmBind o) s
def execFarmL64 (o : Operands) (s : State) : Out := instr o (farmBind o) s
def execStrip (o : Operands) (s : State) : Out := instr o (strip o) s
def execStripL64 (o : Operands) (s : State) : Out := instr o (strip o) s
def execFbar (o : Operands) (s : State) : Out := waits o (fbar o) s
def execFbarL64 (o : Operands) (s : State) : Out := waits o (fbar o) s
def execCbar (o : Operands) (s : State) : Out := .next (cbar o s)
def execCbarL64 (o : Operands) (s : State) : Out := .next (cbar o s)
def execYield (o : Operands) (s : State) : Out := .next (yieldTurn o s)
def execYieldL64 (o : Operands) (s : State) : Out := .next (yieldTurn o s)
def execExit (o : Operands) (s : State) : Out := .next (exitStrand o s)
def execExitL64 (o : Operands) (s : State) : Out := .next (exitStrand o s)

end Sys2Proof.Machine
end

