-- ==== Sys2Proof/Machine/System.lean ====
section
/-! DEFINITION. System instructions (opcode 0x19: R389 to R394), fences and taint clearing (opcode 0x1A: R107, R287,
R292). -/

namespace Sys2Proof.Machine

/-! ### TRAP, BRK (R390) -/

/-- TRAP and BRK retire, and then the trap is taken with the next instruction's address. -/
def State.trapAfter (s : State) (o : Operands) (c : Cause) : State :=
  let s := s.onCur (·.retire o)
  s.trap c (BitVec.ofNat 64 (o.im 0 12)) s.cur.pc false

/-- BRK of a strand whose queue is debugged halts it at the next instruction (R388, R400). -/
def State.brk (s : State) (o : Operands) : State :=
  if (s.dev.queue s.cur.queue).debug then
    let s := s.onCur (·.retire o)
    s.leave s.cur.uid (.halted none) false true
  else s.trapAfter o .brk

def execTrap (o : Operands) (s : State) : Out := .next (s.trapAfter o .trap)
def execTrapL64 (o : Operands) (s : State) : Out := .next (s.trapAfter o .trap)
def execBrk (o : Operands) (s : State) : Out := .next (s.brk o)
def execBrkL64 (o : Operands) (s : State) : Out := .next (s.brk o)

/-! ### ERET (R391) -/

/-- What ERET checks; the saved pc it would go to must be aligned. -/
def eretChecks (o : Operands) : Run Unit := do
  supervisor o
  notInNest o
  let t ← Run.cur
  let epc := (t.sup.bank t.sup.tlevel.toNat).epc
  Run.check (aligned epc 4) .align epc

def eret (o : Operands) (s : State) : State :=
  match eretChecks o s with
  | .ok _ s => s.onCur (·.leaveTrap)
  | .error e s' => s'.stopAt s.cur.convoy e

def execEret (o : Operands) (s : State) : Out := .next (eret o s)
def execEretL64 (o : Operands) (s : State) : Out := .next (eret o s)

/-! ### WFE (R392) -/

/-- Is the wait over before it begins? -/
def wfeDone (t : Strand) (gtime until_ : Word) : Bool :=
  (until_ != 0 && decide (until_.toNat ≤ gtime.toNat)) || t.preempt == some 0

def wfe (o : Operands) : Run (Option Wait) := do
  let s ← get
  let x := s.cur.s o.a.toNat
  return if wfeDone s.cur s.dev.gtime x then none else some (.wfe x)

def execWfe (o : Operands) (s : State) : Out := waits o (wfe o) s
def execWfeL64 (o : Operands) (s : State) : Out := waits o (wfe o) s

/-! ### KILL (R393) -/

/-- KILL: the strand's context ends with REASON 3; EV holds its address and code (R382). -/
def killSelf (o : Operands) (s : State) : State :=
  match supervisor o s with
  | .ok _ s =>
    let t := s.cur
    s.kill t.uid 3 ⟨causeCode .kill, t.pc, BitVec.ofNat 64 (o.im 0 12), t.csr.vstart.toNat, 0⟩
  | .error e s' => s'.stopAt s.cur.convoy e

def execKill (o : Operands) (s : State) : Out := .next (killSelf o s)
def execKillL64 (o : Operands) (s : State) : Out := .next (killSelf o s)

/-! ### TLBINV (R94, R394) -/

/-- Does an entry go under the form? -/
def tlbGoes (form vf asid va : Nat) (e : TlbEntry) : Bool :=
  e.vf == vf && (match form with
    | 0 => true
    | 1 => e.asid == asid && !e.g
    | _ => (e.g || e.asid == asid) && va / 2 ^ e.shift == e.page)

/-- Stores of a function's strands that have not performed, on a core or on all, perform: their translations were made
before the removal (R94). -/
def State.settleScope (s : State) (core : Option Nat) (vf : Nat) : State :=
  let mine := fun (t : Strand) => t.vf == vf && core.all (t.core == ·)
  let s := s.onDev fun d => (s.strands.filter mine).foldl (fun d t => d.performAll t.buf) d
  s.mapStrands fun t => if mine t then { t with buf := [] } else t

/-- Does a command of a function run that has started, on an engine that shares the core's TLB or on any (R85, R94)? -/
def Device.scopeBusy (d : Device) (core : Option Nat) (vf : Nat) : Bool :=
  d.cmds.any fun (c : Cmd) => c.vf == vf && c.state == .started && core.all fun k => c.port != 2 && c.core == k

/-- Remove entries of a function, in a scope. -/
def State.tlbRemove (s : State) (core : Option Nat) (vf : Nat) (p : TlbEntry → Bool) : State :=
  (s.settleScope core vf).onDev (·.tlbDrop core p)

/-- The address space that TLBINV's sB names. DESIGN CHOICE (log entry 102): bits [63:16] are ignored. -/
def asidOf (x : Word) : Nat := x.toNat % 65536

/-- What TLBINV checks. -/
def tlbinvChecks (o : Operands) : Run Unit := do
  supervisor o
  Run.check (o.im 0 2 != 3) .priv (parcel0 o)

/-- TLBINV: it removes, and retires once no command is left that may have begun before (log entry 84); until then it is
executed again. -/
def tlbinv (o : Operands) (s : State) : State :=
  match tlbinvChecks o s with
  | .ok _ s =>
    let t := s.cur
    let core := if o.im 4 2 == 1 then some t.core else none
    let s := s.tlbRemove core t.vf (tlbGoes (o.im 0 2) t.vf (asidOf (t.s o.b.toNat)) (t.s o.a.toNat).toNat)
    if s.dev.scopeBusy core t.vf then s else s.onCur (·.retire o)
  | .error e s' => s'.stopAt s.cur.convoy e

def execTlbinv (o : Operands) (s : State) : Out := .next (tlbinv o s)
def execTlbinvL64 (o : Operands) (s : State) : Out := .next (tlbinv o s)

/-! ### FENCE and TCLR -/

/-- Every access of the strand that the kinds select has performed (R292); no set changes (R287). -/
def execFence (o : Operands) (s : State) : Out := instr o settle s
def execFenceL64 (o : Operands) (s : State) : Out := instr o settle s

/-- TCLR empties the named set. -/
def tclr (r : RegId) : Run Unit := Run.onCur (·.setTaint r .empty)

/-- The register D of TCLR, which XD may select (R46). DESIGN CHOICE (log entry 106): a bound vector register is not named as a
destination of it. -/
def tclrAt (o : Operands) (f : Nat → RegId) : Run Unit := do
  let t ← Run.cur
  tclr (f (t.names o).d)

def execTclrS (o : Operands) (s : State) : Out := instr o (tclrAt o .s) s
def execTclrSL64 (o : Operands) (s : State) : Out := instr o (tclrAt o .s) s
def execTclrV (o : Operands) (s : State) : Out := instr o (tclrAt o .v) s
def execTclrVL64 (o : Operands) (s : State) : Out := instr o (tclrAt o .v) s
def execTclrP (o : Operands) (s : State) : Out := instr o (tclrAt o .p) s
def execTclrPL64 (o : Operands) (s : State) : Out := instr o (tclrAt o .p) s
def execTclrVl (o : Operands) (s : State) : Out := instr o (tclr .vl) s
def execTclrVlL64 (o : Operands) (s : State) : Out := instr o (tclr .vl) s

end Sys2Proof.Machine
end

