-- ==== Sys2Proof/Machine/ScalarMem.lean ====
section
/-! DEFINITION. Scalar loads and stores, prefetch, acquire, release and atomics (opcodes 0x20 to 0x22: R100 to R106). -/

namespace Sys2Proof.Machine

/-- The n bytes of a type in a scalar register: an I type sign-extends, others zero-extend (R101). -/
def extendTo64 (ty : Ty) (x : Nat) : Word := if ty.signed then BitVec.ofInt 64 (decodeInt ty x) else BitVec.ofNat 64 x

/-- A load into sd: the sources are the address registers (R99). -/
def scalarLoad (o : Operands) (addr : Strand → Word) (srcs : List RegId) : Run Unit := do
  let t ← Run.cur
  let x := t.unionOf srcs
  await x
  let r ← loadAt (addr t) o.ty.bytes
  let x ← tagged true (t.joinTaint x r.taint)
  Run.onCur fun t => (t.setS o.d.toNat (extendTo64 o.ty r.val)).setTaint (.s o.d.toNat) x

/-- A store of sd. -/
def scalarStore (o : Operands) (addr : Strand → Word) (srcs : List RegId) : Run Unit := do
  let t ← Run.cur
  let x := t.unionOf (.s o.d.toNat :: srcs)
  awaitStore x
  let _ ← storeAt (addr t) o.ty.bytes (t.s o.d.toNat).toNat none x

def offsetAddr (o : Operands) (t : Strand) : Word := t.s o.a.toNat + o.simm
def indexAddr (o : Operands) (t : Strand) : Word := t.s o.a.toNat + t.s o.b.toNat

def execLd (o : Operands) (s : State) : Out := instr o (scalarLoad o (offsetAddr o) [.s o.a.toNat]) s
def execLdIndex (o : Operands) (s : State) : Out := instr o (scalarLoad o (indexAddr o) [.s o.a.toNat, .s o.b.toNat]) s

/-- PREF never stops and changes nothing (R102). -/
def execPref (o : Operands) (s : State) : Out := instr o (pure ()) s

def execSt (o : Operands) (s : State) : Out := instr o (scalarStore o (offsetAddr o) [.s o.a.toNat]) s
def execStIndex (o : Operands) (s : State) : Out := instr o (scalarStore o (indexAddr o) [.s o.a.toNat, .s o.b.toNat]) s

/-- LDACQ: a load before which nothing later performs. The strand's earlier stores perform first, so that a release of its
own is ordered before it (R290). -/
def execLdacq (o : Operands) (s : State) : Out :=
  instr o (do
    settle
    scalarLoad o (fun t => t.s o.a.toNat) [.s o.a.toNat]) s

/-- STREL: every earlier access performs before the store (R290). -/
def execStrel (o : Operands) (s : State) : Out :=
  instr o (do
    settle
    scalarStore o (fun t => t.s o.a.toNat) [.s o.a.toNat]) s

/-! ### Atomics (R105) -/

/-- The value the operation AOP writes, or none for no write. w: the element's bits; cmp: the compare value. -/
def amoNew (aop : Nat) (ty : Ty) (old x cmp : Nat) : Option Nat :=
  let m := 2 ^ ty.bits
  let x' := x % m
  match aop with
  | 0x0 => some ((old + x') % m)
  | 0x1 => some (Nat.land old x')
  | 0x2 => some (Nat.lor old x')
  | 0x3 => some (Nat.xor old x')
  | 0x4 => some (if decodeInt ty old < decodeInt ty x' then old else x')
  | 0x5 => some (if decodeInt ty old < decodeInt ty x' then x' else old)
  | 0x6 => some (min old x')
  | 0x7 => some (max old x')
  | 0x8 => some x'
  | 0x9 => if old == cmp % m then some x' else none
  | 0xA => some (roundTo .f32 rne false false 0 ((decodeFloat .f32 old).add rne (decodeFloat .f32 x')).1).1
  | _ => some (if x / 16 % 2 == 0 then old / 16 * 16 + x % 16 else old % 16 + x % 16 * 16)

def amo (o : Operands) : Run Unit := do
  let t ← Run.cur
  let aop := o.fnBits 0 4
  let x := t.unionOf ([.s o.a.toNat, .s o.b.toNat] ++ if aop == 0x9 then [.s o.d.toNat] else [])
  awaitStore x
  let old ← atomicAt (t.s o.a.toNat) o.ty.bytes fun old =>
    amoNew aop o.ty old (t.s o.b.toNat).toNat (t.s o.d.toNat).toNat
  let x ← tagged true x
  Run.onCur fun t => (t.setS o.d.toNat (extendTo64 o.ty old)).setTaint (.s o.d.toNat) x

def execAmo (o : Operands) (s : State) : Out := instr o (amo o) s

end Sys2Proof.Machine
end

