-- ==== Sys2Proof/Machine/VecInt.lean ====
section
/-! DEFINITION. Integer and logic vector instructions by element: opcodes 0x28 to 0x2E (R208 to R215), and the moves
VBCAST and VID of 0x33 (R220). -/

namespace Sys2Proof.Machine

/-! ### Operand B (R201, R208, R212) -/

/-- Where operand B comes from. -/
inductive BKind where
  | vec | scalar | imm
deriving DecidableEq, Repr

/-- Opcode 0x29: FN[7] selects; 0x2A and 0x2C: FN[7:6]; otherwise a vector. -/
def bKind (o : Operands) : BKind :=
  match o.op.toNat with
  | 0x29 => if o.fnBits 7 1 == 1 then .imm else .scalar
  | 0x2A | 0x2C => if o.fnBits 6 2 == 0 then .vec else if o.fnBits 6 2 == 1 then .scalar else .imm
  | _ => .vec

def BKind.reg : BKind → RegK
  | .vec => .v
  | .scalar => .s
  | .imm => .z

/-- Operand B of element i, as W bits. -/
def intB (o : Operands) (t0 : Strand) (n : Names) (i : Nat) : Run Nat :=
  match bKind o with
  | .vec => vecB o t0 n.b i
  | .scalar => pure ((t0.s n.b).toNat % 2 ^ o.ty.bits)
  | .imm => pure (o.simm.toNat % 2 ^ o.ty.bits)

/-- The shape of an arithmetic instruction vd, va, B. -/
def arithShape (o : Operands) : Shape :=
  { cls := .arith, dTy := o.ty, a := .v, b := (bKind o).reg, cross := bKind o == .vec }

/-- Write element i of D. -/
def putElem (o : Operands) (n : Names) (i x : Nat) : Run Unit := Run.onCur fun t => t.setElem o.ty.width n.d i x

/-- vd[i] := f a b, with f on W-bit values. -/
def binOp (f : Ty → Nat → Nat → Nat) : EOp :=
  { sh := arithShape
    body := fun o n t0 i => do
      let a ← src o.ty n.a i
      let b ← intB o t0 n i
      putElem o n i (f o.ty a b) }

/-- vd[i] := Sat(T, f a b) on the exact values; SATF records a clamp (R209). -/
def satOp (f : Int → Int → Int) : EOp :=
  { sh := arithShape
    body := fun o n t0 i => do
      let a ← src o.ty n.a i
      let b ← intB o t0 n i
      let (x, sat) := satInt o.ty (f (decodeInt o.ty a) (decodeInt o.ty b))
      Run.onCur fun t => (t.setElem o.ty.width n.d i (truncBits o.ty.bits x)).raiseInt false sat }

/-- vd[i] := f a. -/
def oneOp (f : Operands → Nat → Nat) : EOp :=
  { sh := fun o => { cls := .arith, dTy := o.ty, a := .v }
    body := fun o n _ i => do
      let a ← src o.ty n.a i
      putElem o n i (f o a) }

/-- The smaller or larger of two values of a type (R208). -/
def pick (larger : Bool) (ty : Ty) (a b : Nat) : Nat :=
  if decodeInt ty a < decodeInt ty b then (if larger then b else a) else (if larger then a else b)

def opVadd : EOp := binOp fun _ a b => a + b
def opVsub : EOp := binOp fun ty a b => a + 2 ^ ty.bits - b
def opVmin : EOp := binOp (pick false)
def opVmax : EOp := binOp (pick true)
def opVaddSat : EOp := satOp (· + ·)
def opVsubSat : EOp := satOp (· - ·)
def opVabs : EOp := oneOp fun o a => (decodeInt o.ty a).natAbs

def opVsel : EOp :=
  { sh := fun o => { arithShape o with more := [.p (o.im 6 3)] }
    body := fun o n t0 i => do
      let a ← src o.ty n.a i
      let b ← vecB o t0 n.b i
      putElem o n i (if t0.p (o.im 6 3) i then a else b) }

/-- VSAT clamps to n bits of the type's signedness (R209). -/
def satBits (ty : Ty) (n : Nat) (x : Int) : Int :=
  if ty.signed then max (-(2 ^ (n - 1) : Int)) (min x (2 ^ (n - 1) - 1)) else max 0 (min x (2 ^ n - 1))

def opVsat : EOp :=
  { sh := fun o => { cls := .arith, dTy := o.ty, a := .v }
    body := fun o n _ i => do
      let a ← src o.ty n.a i
      let x := decodeInt o.ty a
      let y := satBits o.ty o.simm.toNat x
      Run.onCur fun t => (t.setElem o.ty.width n.d i (truncBits o.ty.bits y)).raiseInt false (x != y) }

/-! ### Multiply and divide (R210) -/

def opVmul : EOp := binOp fun _ a b => a * b
def opVmulh : EOp := binOp fun ty a b => truncBits ty.bits (decodeInt ty a * decodeInt ty b / 2 ^ ty.bits)

def opVmac : EOp :=
  { sh := fun o => { arithShape o with readsD := true }
    body := fun o n t0 i => do
      let a ← src o.ty n.a i
      let b ← vecB o t0 n.b i
      let t ← Run.cur
      putElem o n i (t.elem o.ty.width n.d i + a * b) }

/-- VDIV and VREM: INT_DZ at a zero divisor when DZS is 1, else the fixed result and DZF. -/
def divOp (f : Int → Int → Int) (byZero : Ty → Nat → Nat) : EOp :=
  { sh := arithShape
    body := fun o n t0 i => do
      let a ← src o.ty n.a i
      let b ← vecB o t0 n.b i
      let t ← Run.cur
      if b == 0 then
        if t.csr.icsr.getLsbD 1 then Run.trap .intDz 0
        else Run.onCur fun t => (t.setElem o.ty.width n.d i (byZero o.ty a)).raiseInt true false
      else putElem o n i (truncBits o.ty.bits (f (decodeInt o.ty a) (decodeInt o.ty b))) }

def opVdiv : EOp := divOp Int.tdiv fun ty _ => 2 ^ ty.bits - 1
def opVrem : EOp := divOp Int.tmod fun _ a => a

/-! ### Shifts (R212) -/

/-- The amount of a shift: all 64 bits of a scalar. -/
def shiftBy (o : Operands) (t0 : Strand) (n : Names) (i : Nat) : Run Nat :=
  match bKind o with
  | .vec => vecB o t0 n.b i
  | .scalar => pure (t0.s n.b).toNat
  | .imm => pure o.imm.toNat

def shiftOp (f : Ty → Nat → Nat → Nat) : EOp :=
  { sh := arithShape
    body := fun o n t0 i => do
      let a ← src o.ty n.a i
      let k ← shiftBy o t0 n i
      putElem o n i (f o.ty a k) }

def opVshl : EOp := shiftOp fun ty a k => if k ≥ ty.bits then 0 else a * 2 ^ k
def opVshr : EOp := shiftOp fun ty a k => if k ≥ ty.bits then 0 else a / 2 ^ k
def opVsra : EOp := shiftOp fun ty a k =>
  let x : Int := if a ≥ 2 ^ (ty.bits - 1) then (a : Int) - 2 ^ ty.bits else a
  truncBits ty.bits (x / 2 ^ min k ty.bits)

/-- A funnel shift of a : b. -/
def funnelOp (f : Nat → Nat → Nat → Nat) : EOp :=
  { sh := fun o => { cls := .arith, dTy := o.ty, a := .v, b := .v }
    body := fun o n _ i => do
      let a ← src o.ty n.a i
      let b ← src o.ty n.b i
      putElem o n i (f o.ty.bits (a * 2 ^ o.ty.bits + b) o.imm.toNat) }

def opVfsl : EOp := funnelOp fun w ab k => ab * 2 ^ k / 2 ^ w
def opVfsr : EOp := funnelOp fun _ ab k => ab / 2 ^ k

/-! ### Logic, compares, bit fields (R213 to R215) -/

def opVlut3 : EOp :=
  { sh := fun o => { cls := .arith, dTy := o.ty, a := .v, b := .v, readsD := true }
    body := fun o n _ i => do
      let a ← src o.ty n.a i
      let b ← src o.ty n.b i
      let t ← Run.cur
      putElem o n i (lut3 (o.im 0 8) (BitVec.ofNat 64 (t.elem o.ty.width n.d i)) (BitVec.ofNat 64 a)
        (BitVec.ofNat 64 b)).toNat }

/-- A condition of R214 on W-bit values. -/
def intCond (c w a b : Nat) : Bool :=
  let s := fun (x : Nat) => if x ≥ 2 ^ (w - 1) then (x : Int) - 2 ^ w else x
  match c with
  | 0 => a == b
  | 1 => a != b
  | 2 => decide (s a < s b)
  | 3 => decide (s a ≤ s b)
  | 4 => decide (a < b)
  | _ => decide (a ≤ b)

def opVcmp : EOp :=
  { sh := fun o => { arithShape o with d := .p }
    body := fun o n t0 i => do
      let a ← src o.ty n.a i
      let b ← intB o t0 n i
      Run.onCur fun t => t.setP n.d i (intCond (o.fnBits 0 3) o.ty.bits a b) }

def opVpopc : EOp := oneOp fun o a => popCount (BitVec.ofNat 64 a) o.ty.bits
def opVclz : EOp := oneOp fun o a => leadZeros (BitVec.ofNat 64 a) o.ty.bits

def opVextb : EOp := oneOp fun o a =>
  let f := a / 2 ^ o.imPos % 2 ^ o.imLen
  if o.ty.signed && f ≥ 2 ^ (o.imLen - 1) then f + 2 ^ o.ty.bits - 2 ^ o.imLen else f

def opVinsb : EOp :=
  { sh := fun o => { cls := .arith, dTy := o.ty, a := .v, readsD := true }
    body := fun o n _ i => do
      let a ← src o.ty n.a i
      let t ← Run.cur
      putElem o n i (insertField o.imPos o.imLen (BitVec.ofNat 64 (t.elem o.ty.width n.d i)) (BitVec.ofNat 64 a)).toNat }

/-! ### Moves (R220) -/

def opVbcast : EOp :=
  { sh := fun o => { cls := .arith, dTy := o.ty, a := .s }
    body := fun o n t0 i => putElem o n i (t0.s n.a).toNat }

def opVbcastImm : EOp :=
  { sh := fun o => { cls := .arith, dTy := o.ty }
    body := fun o n _ i => putElem o n i o.simm.toNat }

def opVid : EOp :=
  { sh := fun o => { cls := .arith, dTy := o.ty }
    body := fun o n _ i => putElem o n i i }

/-! ### Meanings -/

def execVadd (o : Operands) (s : State) : Out := instr o (runE opVadd o) s
def execVsub (o : Operands) (s : State) : Out := instr o (runE opVsub o) s
def execVmin (o : Operands) (s : State) : Out := instr o (runE opVmin o) s
def execVmax (o : Operands) (s : State) : Out := instr o (runE opVmax o) s
def execVabs (o : Operands) (s : State) : Out := instr o (runE opVabs o) s
def execVsel (o : Operands) (s : State) : Out := instr o (runE opVsel o) s
def execVsat (o : Operands) (s : State) : Out := instr o (runE opVsat o) s
def execVaddSat (o : Operands) (s : State) : Out := instr o (runE opVaddSat o) s
def execVsubSat (o : Operands) (s : State) : Out := instr o (runE opVsubSat o) s
def execVshl (o : Operands) (s : State) : Out := instr o (runE opVshl o) s
def execVshr (o : Operands) (s : State) : Out := instr o (runE opVshr o) s
def execVsra (o : Operands) (s : State) : Out := instr o (runE opVsra o) s
def execVfsl (o : Operands) (s : State) : Out := instr o (runE opVfsl o) s
def execVfsr (o : Operands) (s : State) : Out := instr o (runE opVfsr o) s
def execVlut3 (o : Operands) (s : State) : Out := instr o (runE opVlut3 o) s
def execVcmp (o : Operands) (s : State) : Out := instr o (runE opVcmp o) s
def execVpopc (o : Operands) (s : State) : Out := instr o (runE opVpopc o) s
def execVclz (o : Operands) (s : State) : Out := instr o (runE opVclz o) s
def execVextb (o : Operands) (s : State) : Out := instr o (runE opVextb o) s
def execVinsb (o : Operands) (s : State) : Out := instr o (runE opVinsb o) s
def execVmul (o : Operands) (s : State) : Out := instr o (runE opVmul o) s
def execVmulh (o : Operands) (s : State) : Out := instr o (runE opVmulh o) s
def execVmac (o : Operands) (s : State) : Out := instr o (runE opVmac o) s
def execVdiv (o : Operands) (s : State) : Out := instr o (runE opVdiv o) s
def execVrem (o : Operands) (s : State) : Out := instr o (runE opVrem o) s
def execVbcast (o : Operands) (s : State) : Out := instr o (runE opVbcast o) s
def execVbcastImm (o : Operands) (s : State) : Out := instr o (runE opVbcastImm o) s
def execVid (o : Operands) (s : State) : Out := instr o (runE opVid o) s

end Sys2Proof.Machine
end

