-- ==== Sys2Proof/Machine/VecFloat.lean ====
section
/-! DEFINITION. Float vector instructions by element and conversions: opcodes 0x40 to 0x44 (R222 to R233). -/

namespace Sys2Proof.Machine

/-! ### Operands and commitment (R222, R223) -/

/-- Operand B: a vector, or the low W bits of a scalar. -/
def floatB (o : Operands) (t0 : Strand) (n : Names) (i : Nat) : Run Nat :=
  if o.fnBits 7 1 == 0 then vecB o t0 n.b i else pure ((t0.s n.b).toNat % 2 ^ o.ty.bits)

def floatShape (o : Operands) : Shape :=
  let vec := o.fnBits 7 1 == 0
  { cls := .arith, rm := true, dTy := o.ty, a := .v, b := if vec then .v else .s, cross := vec }

/-- Read an operand under FZ. -/
def Strand.num (t : Strand) (ty : Ty) (x : Nat) : Num := decodeFz t.fz ty x

/-- Round the exact result of element i to TYPE, with NV and DZ of its own; the element stops or commits. -/
def commitRound (o : Operands) (n : Names) (i : Nat) (x : Num) (nv dz : Bool) : Run Unit := do
  let t ← Run.cur
  let lane := laneOf o.ty.width i
  let (r, f) := roundTo o.ty (t.mode o) t.fz false (t.srNext lane) x
  commitFp ((f.nvIf nv).dzIf dz)
  Run.onCur fun t => t.setElem o.ty.width n.d i r
  stepLane (t.mode o) lane

/-- vd[i] := f a b. -/
def floatOp (f : Nat → Num → Num → Num × Bool × Bool) : EOp :=
  { sh := floatShape
    body := fun o n t0 i => do
      let a ← src o.ty n.a i
      let b ← floatB o t0 n i
      let t ← Run.cur
      let (x, nv, dz) := f (t.mode o) (t.num o.ty a) (t.num o.ty b)
      commitRound o n i x nv dz }

/-- vd[i] := f a. -/
def floatOne (f : Num → Num × Bool × Bool) : EOp :=
  { sh := fun o => { cls := .arith, rm := true, dTy := o.ty, a := .v }
    body := fun o n _ i => do
      let a ← src o.ty n.a i
      let t ← Run.cur
      let (x, nv, dz) := f (t.num o.ty a)
      commitRound o n i x nv dz }

/-- vd[i] := d + a × b, or d - a × b. -/
def fmaOp (sub : Bool) : EOp :=
  { sh := fun o => { floatShape o with readsD := true }
    body := fun o n t0 i => do
      let a ← src o.ty n.a i
      let b ← floatB o t0 n i
      let t ← Run.cur
      let d := t.num o.ty (t.elem o.ty.width n.d i)
      let (x, nv) := Num.fma (t.mode o) sub d (t.num o.ty a) (t.num o.ty b)
      commitRound o n i x nv false }

def noDz (r : Num × Bool) : Num × Bool × Bool := (r.1, r.2, false)

def opVfadd : EOp := floatOp fun m a b => noDz (a.add m b)
def opVfsub : EOp := floatOp fun m a b => noDz (a.add m b.negate)
def opVfmul : EOp := floatOp fun _ a b => noDz (a.mul b)
def opVfma : EOp := fmaOp false
def opVfnma : EOp := fmaOp true
def opVfdiv : EOp := floatOp fun _ a b => a.div b
def opVfsqrt : EOp := floatOne fun a => noDz a.sqrt
def opVfrsq : EOp := floatOne Num.rsqrt
def opVfexp2 : EOp := floatOne fun a => noDz a.exp2
def opVflog2 : EOp := floatOne Num.log2

/-! ### Minimum, maximum, class, compare (R227 to R230) -/

/-- Less, with -0 below +0. -/
def lessZero (a b : Num) : Bool := a.lt b || (a.isZero && b.isZero && a.isNeg && !b.isNeg)

/-- The lesser or greater operand; the other operand where one is a NaN (R229). -/
def pickNum (larger : Bool) (a b : Num) : Num :=
  if a.isNan && b.isNan then .nan false
  else if a.isNan then b
  else if b.isNan then a
  else if lessZero a b then (if larger then b else a) else (if larger then a else b)

/-- The bits of a value that the type represents. -/
def exactBits (ty : Ty) (x : Num) : Nat := (roundTo ty rne false false 0 x).1

def minmaxOp (larger : Bool) : EOp :=
  { sh := fun o => { floatShape o with rm := false }
    body := fun o n t0 i => do
      let a ← src o.ty n.a i
      let b ← floatB o t0 n i
      let t ← Run.cur
      let x := t.num o.ty a
      let y := t.num o.ty b
      commitFp (Flags.none.nvIf (x.isSnan || y.isSnan))
      putElem o n i (exactBits o.ty (pickNum larger x y)) }

def opVfmin : EOp := minmaxOp false
def opVfmax : EOp := minmaxOp true

/-- The class bit of an encoding (R230). -/
def classBit (ty : Ty) (bits : Nat) : Nat :=
  let f := fmtOf ty
  let neg := bits / 2 ^ (f.mb + f.eb) % 2 == 1
  let e := bits / 2 ^ f.mb % 2 ^ f.eb
  let m := bits % 2 ^ f.mb
  if e == 2 ^ f.eb - 1 then
    if m == 0 then (if neg then 0 else 7) else if m / 2 ^ (f.mb - 1) == 0 then 8 else 9
  else if e == 0 then
    if m == 0 then (if neg then 3 else 4) else (if neg then 2 else 5)
  else if neg then 1 else 6

def opVfclass : EOp :=
  { sh := fun o => { cls := .arith, dTy := o.ty, a := .v }
    body := fun o n _ i => do
      let a ← src o.ty n.a i
      putElem o n i (2 ^ classBit o.ty a) }

/-- A condition of R228. -/
def floatCond (c : Nat) (a b : Num) : Bool :=
  match c with
  | 0 => a.cmp b == some 0
  | 1 => !(a.cmp b == some 0)
  | 2 => a.lt b
  | 3 => a.le b
  | 4 => b.lt a
  | 5 => b.le a
  | 6 => a.isNan || b.isNan
  | _ => !(a.isNan || b.isNan)

/-- Its NV: a signalling NaN, or for the orderings any NaN. -/
def floatCondNv (c : Nat) (a b : Num) : Bool :=
  a.isSnan || b.isSnan || (decide (2 ≤ c) && decide (c ≤ 5) && (a.isNan || b.isNan))

def opVfcmp : EOp :=
  { sh := fun o => { floatShape o with rm := false, d := .p }
    body := fun o n t0 i => do
      let a ← src o.ty n.a i
      let b ← floatB o t0 n i
      let t ← Run.cur
      let x := t.num o.ty a
      let y := t.num o.ty b
      let c := o.fnBits 0 3
      commitFp (Flags.none.nvIf (floatCondNv c x y))
      Run.onCur fun t => t.setP n.d i (floatCond c x y) }

/-! ### Conversions (R231 to R233) -/

/-- What a conversion gives: the bits, the flags, whether SATF is set, and whether it rounded. -/
structure Cvt where
  bits : Nat
  flags : Flags
  sat : Bool
  rounds : Bool
deriving DecidableEq, Repr

/-- A float to an integer type. -/
def cvtToInt (dt : Ty) (mode sr : Nat) (x : Num) : Cvt :=
  match x with
  | .nan _ => ⟨0, .invalid, false, true⟩
  | .inf neg => ⟨truncBits dt.bits (if neg then intMin dt else intMax dt), .invalid, true, true⟩
  | x =>
    match roundInt mode sr x with
    | none => ⟨0, .invalid, false, true⟩
    | some (k, inex) =>
      let (y, sat) := satInt dt k
      ⟨truncBits dt.bits y, if sat then .invalid else ⟨false, false, false, false, inex⟩, sat, true⟩

/-- The conversion of R232. sat: the SAT field. -/
def convert (st dt : Ty) (mode sr : Nat) (fz : Bool) (sat : Nat) (raw : Nat) : Cvt :=
  if isFloatTy st then
    let x := decodeFz fz st raw
    if isFloatTy dt then
      let (r, f) := roundTo dt mode fz (sat != 2) sr x
      ⟨r, f, false, true⟩
    else cvtToInt dt mode sr x
  else
    let x := decodeInt st raw
    if isFloatTy dt then
      let (r, f) := roundTo dt mode fz (sat != 2) sr (Num.ofInt x)
      ⟨r, f, false, true⟩
    else if st.width < dt.width || sat != 1 then ⟨truncBits dt.bits x, .none, false, false⟩
    else
      let (y, c) := satInt dt x
      ⟨truncBits dt.bits y, .none, c, false⟩

def opVcvt : EOp :=
  { sh := fun o => { cls := .arith, rm := true, d := .vfn, dTy := o.dty, a := .v }
    more := fun o t _ => decide (o.dty.width ≤ o.ty.width) || decide (t.vl ≤ t.vlmax o.dty.width)
    body := fun o n _ i => do
      let a ← src o.ty n.a i
      let t ← Run.cur
      let lane := laneOf o.ty.width i
      let raw := if o.ty == .e2m1 then a % 16 else a
      let c := convert o.ty o.dty (t.mode o) (t.srNext lane) t.fz (o.fnBits 4 2) raw
      commitFp c.flags
      Run.onCur fun t => (t.setElem o.dty.width n.d i c.bits).raiseInt false c.sat
      stepLane (if c.rounds then t.mode o else 0) lane }

/-! ### Meanings -/

def execVfadd (o : Operands) (s : State) : Out := instr o (runE opVfadd o) s
def execVfsub (o : Operands) (s : State) : Out := instr o (runE opVfsub o) s
def execVfmul (o : Operands) (s : State) : Out := instr o (runE opVfmul o) s
def execVfma (o : Operands) (s : State) : Out := instr o (runE opVfma o) s
def execVfnma (o : Operands) (s : State) : Out := instr o (runE opVfnma o) s
def execVfdiv (o : Operands) (s : State) : Out := instr o (runE opVfdiv o) s
def execVfsqrt (o : Operands) (s : State) : Out := instr o (runE opVfsqrt o) s
def execVfrsq (o : Operands) (s : State) : Out := instr o (runE opVfrsq o) s
def execVfexp2 (o : Operands) (s : State) : Out := instr o (runE opVfexp2 o) s
def execVflog2 (o : Operands) (s : State) : Out := instr o (runE opVflog2 o) s
def execVfmin (o : Operands) (s : State) : Out := instr o (runE opVfmin o) s
def execVfmax (o : Operands) (s : State) : Out := instr o (runE opVfmax o) s
def execVfclass (o : Operands) (s : State) : Out := instr o (runE opVfclass o) s
def execVfcmp (o : Operands) (s : State) : Out := instr o (runE opVfcmp o) s
def execVcvt (o : Operands) (s : State) : Out := instr o (runE opVcvt o) s

end Sys2Proof.Machine
end

