-- ==== Sys2Proof/Machine/VecPerm.lean ====
section
/-! DEFINITION. Instructions that never stop (R216): permutations (R217, R218), slides (R219), predicates (R221), and
VEXTS, VINSS and VIOTA (R220). -/

namespace Sys2Proof.Machine

/-! ### Permutations -/

/-- The shape of a permutation vd, va, B. -/
def permShape (o : Operands) (b : RegK) : Shape := { cls := .cross, dTy := o.ty, a := .v, b := b }

/-- An element of a whole source, 0 at or above VLMAX. -/
def srcMax (t : Strand) (ty : Ty) (r j : Nat) : Run Nat := if j < t.vlmax ty.width then srcW t ty r j else pure 0

def vperm (o : Operands) : Run Unit := bulk o (permShape o .v) (fun _ _ => true) fun n t =>
  collect (t.actives o) fun i => do
    let j ← srcW t o.ty n.b i
    srcMax t o.ty n.a j

def vtbl (o : Operands) : Run Unit :=
  bulk o (permShape o .v) (fun t _ => decide (2 ^ o.imm.toNat ≤ t.vlmax t.ew)) fun n t =>
    collect (t.actives o) fun i => do
      let j ← srcW t o.ty n.b i
      srcW t o.ty n.a (j % 2 ^ o.imm.toNat)

/-- The active elements that a predicate picks, ascending. -/
def Strand.picked (t : Strand) (o : Operands) (p : Nat) : List Nat := (t.actives o).filter fun i => t.p p i

/-- VCOMPRESS sets vl and al to the number taken (R218). -/
def vcompress (o : Operands) : Run Unit := do
  let t ← Run.cur
  let sh := permShape o .p
  let n := t.names o
  let m := (t.picked o n.b).length
  let x ← bulkX o sh (fun _ _ => true) fun n t => do
    let xs ← collect (t.picked o n.b) fun i => srcW t o.ty n.a i
    return (List.range xs.length).zip (xs.map (·.2))
  Run.onCur fun t => (((t.setVl m).setAl m).addTaint .vl x).closeConvoy

def vexpand (o : Operands) : Run Unit := bulk o (permShape o .p) (fun _ _ => true) fun n t => do
  let is := t.picked o n.b
  let xs ← collect (List.range is.length) fun m => srcW t o.ty n.a m
  return is.zip (xs.map (·.2))

def vrev (o : Operands) : Run Unit := bulk o (permShape o .z) (fun _ _ => true) fun n t =>
  collect (t.actives o) fun i => srcW t o.ty n.a (t.vl - 1 - i)

def vzip (o : Operands) : Run Unit := bulk o (permShape o .v) (fun _ _ => true) fun n t =>
  collect (t.actives o) fun i =>
    srcMax t o.ty (if i % 2 == 0 then n.a else n.b) (o.imm.toNat * ((t.vl + 1) / 2) + i / 2)

def vunzip (o : Operands) : Run Unit := bulk o (permShape o .v) (fun _ _ => true) fun n t =>
  collect (t.actives o) fun i =>
    let k := 2 * i + o.imm.toNat
    if k < t.vl then srcW t o.ty n.a k else srcW t o.ty n.b (k - t.vl)

def execVperm (o : Operands) (s : State) : Out := instr o (vperm o) s
def execVtbl (o : Operands) (s : State) : Out := instr o (vtbl o) s
def execVcompress (o : Operands) (s : State) : Out := instr o (vcompress o) s
def execVexpand (o : Operands) (s : State) : Out := instr o (vexpand o) s
def execVrev (o : Operands) (s : State) : Out := instr o (vrev o) s
def execVzip (o : Operands) (s : State) : Out := instr o (vzip o) s
def execVunzip (o : Operands) (s : State) : Out := instr o (vunzip o) s

/-! ### Slides -/

/-- The shift amount, at most vl. -/
def slideBy (o : Operands) (t : Strand) : Nat :=
  min t.vl (if o.fnBits 1 1 == 1 then (t.s (o.auxBits 0 5)).toNat else o.simm.toNat)

def slideShape (o : Operands) : Shape :=
  { permShape o .v with more := if o.fnBits 1 1 == 1 then [.s (o.auxBits 0 5)] else [] }

def vslideup (o : Operands) : Run Unit := bulk o (slideShape o) (fun _ _ => true) fun n t =>
  let k := slideBy o t
  collect (t.actives o) fun i => if i ≥ k then srcW t o.ty n.a (i - k) else srcW t o.ty n.b (t.vl - k + i)

def vslidedn (o : Operands) : Run Unit := bulk o (slideShape o) (fun _ _ => true) fun n t =>
  let k := slideBy o t
  collect (t.actives o) fun i => if i + k < t.vl then srcW t o.ty n.a (i + k) else srcW t o.ty n.b (i + k - t.vl)

def execVslideup (o : Operands) (s : State) : Out := instr o (vslideup o) s
def execVslidedn (o : Operands) (s : State) : Out := instr o (vslidedn o) s

/-! ### Moves -/

/-- VEXTS from index j: sign-extended for I types. -/
def vexts (o : Operands) (b : RegK) (j : Strand → Nat) : Run Unit := do
  let sh : Shape := { cls := .arith, d := .s, dTy := .i8, a := .v, b := b, usesMif := false }
  let n ← prep o sh fun _ _ => true
  let t ← Run.cur
  let x ← srcMax t o.ty n.a (j t)
  Run.onCur (·.setS n.d (extendTo64 o.ty x))
  bulkEnd o sh n t

def execVexts (o : Operands) (s : State) : Out := instr o (vexts o .s fun t => (t.s o.b.toNat).toNat) s
def execVextsImm (o : Operands) (s : State) : Out := instr o (vexts o .z fun _ => o.imm.toNat) s

/-- VINSS at index j. -/
def vinss (o : Operands) (b : RegK) (j : Strand → Nat) : Run Unit :=
  bulk o { cls := .arith, dTy := o.ty, a := .s, b := b, usesMif := false } (fun _ _ => true) fun n t =>
    if j t < t.vlmax o.ty.width then return [(j t, (t.s n.a).toNat)] else return []

def execVinss (o : Operands) (s : State) : Out := instr o (vinss o .s fun t => (t.s o.b.toNat).toNat) s
def execVinssImm (o : Operands) (s : State) : Out := instr o (vinss o .z fun _ => o.imm.toNat) s

def viota (o : Operands) : Run Unit :=
  bulk o { cls := .arith, dTy := o.ty, a := .p } (fun _ _ => true) fun n t =>
    let ps := t.picked o n.a
    return (t.actives o).map fun i => (i, (ps.filter fun j => decide (j < i)).length)

def execViota (o : Operands) (s : State) : Out := instr o (viota o) s

/-! ### Predicates -/

/-- pd bit i := f a b. -/
def predOp (b : RegK) (f : Bool → Bool → Bool) : EOp :=
  { sh := fun _ => { cls := .arith, ew := false, d := .p, dTy := .i8, a := .p, b := b }
    body := fun _ n _ i => Run.onCur fun t => t.setP n.d i (f (t.p n.a i) (t.p n.b i)) }

def opPand : EOp := predOp .p (· && ·)
def opPor : EOp := predOp .p (· || ·)
def opPxor : EOp := predOp .p xor
def opPnot : EOp := predOp .z fun a _ => !a

/-- PSET: bits below vl are 1, all others 0. -/
def pset (o : Operands) : Run Unit := do
  let sh : Shape := { cls := .arith, ew := false, d := .p, dTy := .i8, usesMif := false }
  let n ← prep o sh fun _ _ => true
  let t ← Run.cur
  Run.onCur (·.setPAll n.d (BitVec.ofNat 16384 (2 ^ min t.vl (4 * t.gvl) - 1)))
  bulkEnd o sh n t

/-- PFIRST: 1 at the lowest active element whose bit is set, 0 at every other active one. -/
def pfirst (o : Operands) : Run Unit := do
  let sh : Shape := { cls := .arith, ew := false, d := .p, dTy := .i8, a := .p }
  let n ← prep o sh fun _ _ => true
  let t ← Run.cur
  let first := (t.picked o n.a).head?
  each (t.actives o) fun i => Run.onCur fun c => c.setP n.d i (first == some i)
  bulkEnd o sh n t

def pcount (o : Operands) : Run Unit := do
  let sh : Shape := { cls := .arith, ew := false, d := .s, dTy := .i8, a := .p }
  let n ← prep o sh fun _ _ => true
  let t ← Run.cur
  Run.onCur (·.setS n.d (BitVec.ofNat 64 (t.picked o n.a).length))
  bulkEnd o sh n t

/-- PMOVS: word w must lie in the predicate. -/
def pmovsOk (o : Operands) (t : Strand) : Bool := decide (o.imm.toNat < t.gvl / 16)

def pmovsToScalar (o : Operands) : Run Unit := do
  let sh : Shape := { cls := .arith, ew := false, d := .s, dTy := .i8, a := .p, usesMif := false }
  let n ← prep o sh fun t _ => pmovsOk o t
  let t ← Run.cur
  let w := o.imm.toNat
  let x := (List.range 64).foldl (fun acc k => acc + bitVal (t.p n.a (64 * w + k)) * 2 ^ k) 0
  Run.onCur (·.setS n.d (BitVec.ofNat 64 x))
  bulkEnd o sh n t

def pmovsToPredicate (o : Operands) : Run Unit := do
  let sh : Shape := { cls := .arith, ew := false, d := .p, dTy := .i8, a := .s, usesMif := false }
  let n ← prep o sh fun t _ => pmovsOk o t
  let t ← Run.cur
  let w := o.imm.toNat
  each (List.range 64) fun k => Run.onCur fun c => c.setP n.d (64 * w + k) ((t.s n.a).getLsbD k)
  bulkEnd o sh n t

def execPand (o : Operands) (s : State) : Out := instr o (bulkE opPand o) s
def execPandL64 (o : Operands) (s : State) : Out := instr o (bulkE opPand o) s
def execPor (o : Operands) (s : State) : Out := instr o (bulkE opPor o) s
def execPorL64 (o : Operands) (s : State) : Out := instr o (bulkE opPor o) s
def execPxor (o : Operands) (s : State) : Out := instr o (bulkE opPxor o) s
def execPxorL64 (o : Operands) (s : State) : Out := instr o (bulkE opPxor o) s
def execPnot (o : Operands) (s : State) : Out := instr o (bulkE opPnot o) s
def execPnotL64 (o : Operands) (s : State) : Out := instr o (bulkE opPnot o) s
def execPset (o : Operands) (s : State) : Out := instr o (pset o) s
def execPsetL64 (o : Operands) (s : State) : Out := instr o (pset o) s
def execPfirst (o : Operands) (s : State) : Out := instr o (pfirst o) s
def execPfirstL64 (o : Operands) (s : State) : Out := instr o (pfirst o) s
def execPcount (o : Operands) (s : State) : Out := instr o (pcount o) s
def execPcountL64 (o : Operands) (s : State) : Out := instr o (pcount o) s
def execPmovsToScalar (o : Operands) (s : State) : Out := instr o (pmovsToScalar o) s
def execPmovsToPredicate (o : Operands) (s : State) : Out := instr o (pmovsToPredicate o) s

end Sys2Proof.Machine
end

