-- ==== Sys2Proof/Machine/Quant.lean ====
section
/-! DEFINITION. Block scales and quantisation: QSCALE, VQNT, VDQNT (R234 to R238). -/

namespace Sys2Proof.Machine

/-- Elements of a block of a format. -/
def blockSize (f : Ty) : Nat := if f == .sf4 then 8 else 32

/-- The band scale B: bits [15:0] of sC (R234). -/
def bandOf (o : Operands) (t : Strand) : Num := decodeFloat .bf16 ((t.s (o.auxBits 0 5)).toNat % 65536)

/-- The registers that a band scale adds to the sources. -/
def bandRegs (o : Operands) (f : Ty) : List RegId := if f == .sf4 then [.s (o.auxBits 0 5)] else []

/-- Elements of block b below vl. -/
def blockLen (bs vl b : Nat) : Nat := min (bs * (b + 1)) vl - bs * b

/-- The active elements of block b, with vstart vs. -/
def Strand.blockActives (t : Strand) (o : Operands) (bs vs b : Nat) : List Nat :=
  ((List.range (blockLen bs t.vl b)).map (bs * b + ·)).filter fun i => decide (vs ≤ i) && t.allows o i

/-! ### QSCALE (R235) -/

def qscaleShape (o : Operands) : Shape :=
  { cls := .arith, dTy := .n8, a := .v, more := bandRegs o o.dty }

/-- The scale byte of a block's values. -/
def blockScale (f : Ty) (xs : List Num) (qpct : Nat) (band : Num) : Nat :=
  if f == .sf4 then sf4Scale xs qpct band else mxScale f (xs.filterMap Num.eps) qpct

def qscale (o : Operands) : Run Unit := do
  let sh := qscaleShape o
  let n ← prep o sh fun _ n => n.d != n.a
  let t ← Run.cur
  let bs := blockSize o.dty
  let cells ← withSweep (sh.allReads o t n) <| collect ((List.range ((t.vl + bs - 1) / bs)).filter fun b => !(t.blockActives o bs 0 b).isEmpty) fun b => do
    let xs ← collect (t.blockActives o bs 0 b) fun i => srcW t o.ty n.a i
    return blockScale o.dty (xs.map fun e => t.num o.ty e.2) t.csr.qpct.toNat (bandOf o t)
  Run.onCur fun c => cells.foldl (fun c (b, x) => c.setElem 0 n.d b x) c
  bulkEnd o sh n t

def execQscale (o : Operands) (s : State) : Out := instr o (qscale o) s

/-! ### The loop by blocks (R236) -/

/-- A step whose registers count only if it does not stop. -/
def whole {α : Type} (m : Run α) : Run α := fun s =>
  match m s with
  | .ok x s' => .ok x s'
  | .error e s' =>
    .error e (s'.onCur fun t => { t with
      regs := s.cur.regs
      csr := s.cur.csr
      ctxDirty := s.cur.ctxDirty
      fileDirty := s.cur.fileDirty })

/-- Blocks in ascending order: element computes and writes one element, finish ends a block. -/
def blockLoop (o : Operands) (sh : Shape) (more : Strand → Names → Bool) (bs : Nat)
    (element : Names → Strand → Nat → Run Unit) (finish : Names → Strand → Nat → Run Unit) : Run Unit := do
  let n ← prep o sh fun t n => more t n && t.csr.vstart.toNat % bs == 0
  let t ← Run.cur
  let vs := t.csr.vstart.toNat
  let bound := sh.bound t n
  let set := streamTags bound (t.sourceSet o sh n)
  let blocks := (t.vl + bs - 1) / bs - vs / bs
  let (_, r) ← loopFrom (fun t b => !(t.blockActives o bs vs b).isEmpty) (vs / bs) (64 * epslot t.ew / bs)
    (fun b _ => whole (do
      let t ← Run.cur
      each (t.blockActives o bs vs b) (element n t)
      finish n t b)) blocks (vs / bs) ()
  let (al, x) ← match r with
    | none => do
      Run.onCur fun c => (c.setAl t.vl).setVstart 0
      let x ← set
      pure (t.vl, x)
    | some (b, e) => do
      sweepAt e (((List.range' b (vs / bs + blocks - b)).flatMap (t.blockActives o bs vs)).flatMap (sh.reads o t n))
      if bs * b == vs then Run.stop e
      else do
        let x ← set
        shorten (bs * b) e x
        pure (bs * b, x)
  Run.onCur fun c => (c.consume bound al).taintDst sh n x

/-! ### VQNT (R237) -/

def vqntShape (o : Operands) : Shape :=
  { cls := .arith, rm := true, dTy := .n8, a := .v, b := .v, bRaw := true, more := bandRegs o o.dty }

/-- An element of a block whose scale byte is sc: its code, its flags, and whether it rounded. -/
def quantCode (f : Ty) (mode sr : Nat) (sat : Bool) (sc : Nat) (band x : Num) : Nat × Flags × Bool :=
  if f == .sf4 then
    let usable := match band with
      | .fin _ m _ _ => m != 0
      | _ => false
    if sc == 0 || !usable then (0, .none, false)
    else
      let (r, fl) := roundTo .e2m1 mode false true sr (sf4Quot x (e3m5 sc) band)
      (r, fl.nvIf x.isSnan, true)
  else
    match e8m0 sc with
    | none => (canonNan f, .invalid, false)
    | some k =>
      let (r, fl) := roundTo f mode false sat sr (x.scale (-k))
      (r, fl, true)

/-- Write nibble k of the bytes of a register from byte at_ on. -/
def Strand.setNibble (t : Strand) (r at_ k x : Nat) : Strand :=
  let old := t.elem 0 r (at_ + k / 2)
  t.setElem 0 r (at_ + k / 2) (if k % 2 == 0 then old / 16 * 16 + x else old % 16 + 16 * x)

def vqntElement (o : Operands) (n : Names) (_t0 : Strand) (i : Nat) : Run Unit := do
  let a ← src o.ty n.a i
  let t ← Run.cur
  let bs := blockSize o.dty
  let lane := laneOf o.ty.width i
  let (r, f, rounds) := quantCode o.dty (t.mode o) (t.srNext lane) (o.im 0 1 == 0) (t.elem 0 n.b (i / bs)) (bandOf o t)
    (t.num o.ty a)
  commitFp f
  Run.onCur fun t => if o.dty == .sf4 then t.setNibble n.d (5 * (i / 8)) (i % 8) r else t.setElem 0 n.d i r
  stepLane (if rounds then t.mode o else 0) lane

/-- The scale byte of a sorus, and the zero nibble of a ragged one. -/
def vqntFinish (o : Operands) (n : Names) (_t0 : Strand) (b : Nat) : Run Unit := do
  if o.dty == .sf4 then
    Run.onCur fun t =>
      let j := blockLen 8 t.vl b
      let t := if j % 2 == 1 then t.setNibble n.d (5 * b) j 0 else t
      t.setElem 0 n.d (5 * b + (j + 1) / 2) (t.elem 0 n.b b)
  else pure ()

def vqnt (o : Operands) : Run Unit :=
  blockLoop o (vqntShape o) (fun _ n => n.d != n.a && n.d != n.b) (blockSize o.dty) (vqntElement o) (vqntFinish o)

def execVqnt (o : Operands) (s : State) : Out := instr o (vqnt o) s

/-! ### VDQNT (R238) -/

def vdqntShape (o : Operands) : Shape :=
  { cls := .arith, rm := true, d := .vfn, dTy := o.dty, a := .v, b := if o.ty == .sf4 then .z else .v,
    aRaw := o.ty == .sf4, bRaw := o.ty != .sf4, more := bandRegs o o.ty }

/-- The value of element i. -/
def dequant (o : Operands) (n : Names) (i : Nat) : Run (Num × Bool) := do
  let t ← Run.cur
  if o.ty == .sf4 then
    let b := i / 8
    let code := t.elem 0 n.a (5 * b + i % 8 / 2) / 2 ^ (4 * (i % 2)) % 16
    let sc := t.elem 0 n.a (5 * b + (blockLen 8 t.vl b + 1) / 2)
    return ((decodeFloat .e2m1 code).mul (e3m5 sc)).1.mul (bandOf o t)
  else do
    let code ← src o.ty n.a i
    let x := decodeFloat o.ty (if o.ty == .e2m1 then code % 16 else code)
    return (match x, e8m0 (t.elem 0 n.b (i / 32)) with
      | .nan _, _ => .nan false
      | _, none => .nan false
      | x, some k => x.scale k, false)

def vdqntElement (o : Operands) (n : Names) (_t0 : Strand) (i : Nat) : Run Unit := do
  let (x, nv) ← dequant o n i
  let t ← Run.cur
  let lane := laneOf o.ty.width i
  let (r, f) := roundTo o.dty (t.mode o) t.fz false (t.srNext lane) x
  commitFp (f.nvIf nv)
  Run.onCur fun t => t.setElem o.dty.width n.d i r
  stepLane (t.mode o) lane

def vdqnt (o : Operands) : Run Unit :=
  blockLoop o (vdqntShape o)
    (fun t n => n.d != n.a && (o.ty == .sf4 || n.d != n.b) && decide (t.vl ≤ t.vlmax o.dty.width))
    (blockSize o.ty) (vdqntElement o) fun _ _ _ => pure ()

def execVdqnt (o : Operands) (s : State) : Out := instr o (vdqnt o) s

end Sys2Proof.Machine
end

