-- ==== Sys2Proof/Machine/VecMem.lean ====
section
/-! DEFINITION. Vector loads and stores (opcodes 0x58 to 0x5F: R108 to R123): unit-stride, strided, indexed, tile,
compressed, stream and window binding, vector atomics, spill and fill. -/

namespace Sys2Proof.Machine

/-! ### Addresses -/

/-- The address of element i of the three forms of R108. -/
def unitAddr (o : Operands) (n : Names) (t : Strand) (i : Nat) : Word :=
  t.s n.a + BitVec.ofNat 64 (if o.ty == .e2m1 then i / 2 else i * o.ty.bytes)

def stridedAddr (n : Names) (t : Strand) (i : Nat) : Word := t.s n.a + BitVec.ofNat 64 i * t.s n.b

/-- Element e of a tile (R112). -/
def tileAddr (o : Operands) (n : Names) (t : Strand) (e : Nat) : Word :=
  t.s n.a + BitVec.ofNat 64 (e / t.vl) * t.csr.pitch + BitVec.ofNat 64 (e % t.vl * o.ty.bytes)

/-- The address of an indexed element: the offset may come from a stream. -/
def indexedAddr (o : Operands) (n : Names) (i : Nat) : Run Word := do
  let k ← src o.ty n.b i
  let t ← Run.cur
  return t.s n.a + BitVec.ofNat 64 k

/-- An address through its window, if it is in the window range and the form is redirected (R109). -/
def redirect (acc : Acc) (windows : Bool) (va : Word) (n : Nat) : Run Word := do
  if windows && inWindows va then do
    let (target, w) ← windowTarget acc va n
    match w with
    | some k => do
      let t ← Run.cur
      let x := t.taintOf (.win k)
      if acc == .load then await x else awaitStore x
      return target
    | none => return target
  else return va

/-- The set of the window an address goes through. -/
def Strand.windowTaint (t : Strand) (windows : Bool) (va : Word) : Taint :=
  if windows && inWindows va then t.taintOf (.win ((va.toNat - 0x7F0000000000) / 2 ^ 32)) else .empty

/-! ### Loading and storing one element -/

/-- Load element i at an address; the sets of own stores and of a window join those that the load takes. ALIGN comes before
the window's causes (R97); the target that a window gives is checked for ALIGN after them (log entry 95). DESIGN CHOICE (log
entry 100): POISON met through a window has the target's address as its tval. -/
def loadElem (o : Operands) (n : Names) (windows : Bool) (i : Nat) (va : Word) (acc : Taint) : Run Taint := do
  Run.check (aligned va o.ty.bytes) .align va
  let target ← redirect .load windows va o.ty.bytes
  let r ← loadAt target o.ty.bytes
  let x := if o.ty == .e2m1 then r.val / 2 ^ (4 * (i % 2)) % 16 else r.val
  Run.onCur fun t => t.setElem o.ty.width n.d i x
  let t ← Run.cur
  return t.joinTaint (t.joinTaint acc r.taint) (t.windowTaint windows va)

/-- Put a byte in the place of the one that the same instruction under .u has buffered for that address, if it has (R110,
R298): both halves are then one store. -/
def Strand.merge (t : Strand) (u : Option Nat) (pa : Nat) (x : Byte) : Option (List PendStore) :=
  if u.isSome && t.buf.any fun p => p.u == u && p.pa == pa && p.bytes.length == 1 then
    some (t.buf.map fun p => if p.u == u && p.pa == pa && p.bytes.length == 1 then { p with bytes := [x] } else p)
  else none

/-- The set that a store's data takes from the streams it was read from. -/
def Strand.readSets (t : Strand) : Taint :=
  t.binds.foldl (fun acc b => t.joinTaint acc (b.reads.getD .empty)) .empty

/-- Store element i; a half byte is read and written whole (R110). Answers the bytes written so far. DESIGN CHOICE (log entry
104): after ALIGN the data is read from its stream, before the window and the translation of the address. -/
def storeElem (o : Operands) (n : Names) (windows : Bool) (u : Option Nat) (x : Taint) (i : Nat) (va : Word)
    (acc : List Nat) : Run (List Nat) := do
  Run.check (aligned va o.ty.bytes) .align va
  let data ← src o.ty n.d i
  let target ← redirect .store windows va o.ty.bytes
  let t ← Run.cur
  let x := t.joinTaint (t.joinTaint x t.readSets) (t.windowTaint windows va)
  if o.ty == .e2m1 then do
    let pa ← translateS .store true target
    let s ← get
    let old := (s.seeByte pa).toNat
    let byte := if i % 2 == 0 then old / 16 * 16 + data % 16 else old % 16 + 16 * (data % 16)
    match s.cur.merge u pa (BitVec.ofNat 8 byte) with
    | some buf => do
      Run.onCur fun t => { t with buf := buf }
      return pa :: acc
    | none => do
      let pa ← storeAt target 1 byte u x
      return pa :: acc
  else do
    let pa ← storeAt target o.ty.bytes data u x
    return (List.range o.ty.bytes).map (pa + ·) ++ acc

/-- A number for a store under .u. -/
def newGroupU (u : Bool) : Run (Option Nat) := do
  if u then do
    let s ← get
    Run.onDev fun d => { d with nextUGroup := d.nextUGroup + 1 }
    return some s.dev.nextUGroup
  else return none

/-- Lines that the committed elements cover become clean when the last of them performs (R67): at once where all of them
have. -/
def cleanAfter (addrs : List Nat) : Run Unit := fun s =>
  match s.cur.buf.reverse with
  | [] => .ok () (s.onDev fun d => d.cleanLines (wholeLines addrs))
  | p :: rest => .ok () (s.onCur fun t =>
      { t with buf := (({ p with cleans := p.cleans ++ wholeLines addrs } : PendStore) :: rest).reverse })

/-! ### The loops -/

/-- The accesses of element i for a sweep: its address, from a stream or not, through a window or not, and its data, from
the registers of a list. -/
def memSweep (acc : Acc) (windows : Bool) (ty : Ty) (t : Strand) (data : List Nat) (addr : Nat → Run Word) (i : Nat) :
    List (Run Unit) :=
  (do let va ← addr i
      let target ← redirect acc windows va ty.bytes
      sweepTo acc target) :: data.flatMap (streamReads t · i)

/-- A vector load. addr: the address of an element. -/
def vecLoad (o : Operands) (sh : Shape) (windows : Bool) (addr : Names → Nat → Run Word) : Run Unit := do
  let n ← prep o sh fun _ _ => true
  let t ← Run.cur
  await (t.sourceSet o sh n)
  let x := (← Run.cur).sourceSet o sh n
  let bound := sh.bound t n
  let (_, al, x) ← elementLoop o
    (fun own => do
      let t ← Run.cur
      let x ← streamTags bound (t.joinTaint x own)
      tagged true x)
    (memSweep .load windows o.ty t [] (addr n))
    (fun i acc => do
      let va ← addr n i
      loadElem o n windows i va acc) .empty
  Run.onCur fun c => (c.consume bound al).taintDst sh n x

/-- A vector store. The reads of bound registers have their tags before the stores that depend on them. -/
def vecStore (o : Operands) (sh : Shape) (windows : Bool) (addr : Names → Nat → Run Word) : Run Unit := do
  let n ← prep o sh fun _ _ => true
  let t ← Run.cur
  awaitStore (t.sourceSet o sh n)
  let t ← Run.cur
  let bound := sh.bound t n
  let x ← streamTags bound (t.sourceSet o sh n)
  let u ← newGroupU o.u
  let (addrs, al, _) ← elementLoop o (fun _ => do
      let t ← Run.cur
      return t.joinTaint x t.readSets)
    (memSweep .store windows o.ty t [n.d] (addr n))
    (fun i acc => do
      let va ← addr n i
      storeElem o n windows u x i va acc) []
  cleanAfter addrs
  Run.onCur fun c => c.consume bound al

def memShape (o : Operands) (b : RegK) (store : Bool) : Shape :=
  { cls := .mem, dTy := o.ty, writes := !store, a := .s, b := b }

/-- A pure address as a step. -/
def plainAddr (f : Names → Strand → Nat → Word) (n : Names) (i : Nat) : Run Word := do
  let t ← Run.cur
  return f n t i

def vld (o : Operands) : Run Unit :=
  vecLoad o (memShape o .z false) (o.ty != .e2m1) (plainAddr (unitAddr o))
def vst (o : Operands) : Run Unit :=
  vecStore o (memShape o .z true) (o.ty != .e2m1) (plainAddr (unitAddr o))
def vlds (o : Operands) : Run Unit := vecLoad o (memShape o .s false) false (plainAddr stridedAddr)
def vsts (o : Operands) : Run Unit := vecStore o (memShape o .s true) false (plainAddr stridedAddr)
def vldx (o : Operands) : Run Unit := vecLoad o (memShape o .v false) false (indexedAddr o)
def vstx (o : Operands) : Run Unit := vecStore o (memShape o .v true) false (indexedAddr o)

def execVld (o : Operands) (s : State) : Out := instr o (vld o) s
def execVst (o : Operands) (s : State) : Out := instr o (vst o) s
def execVlds (o : Operands) (s : State) : Out := instr o (vlds o) s
def execVsts (o : Operands) (s : State) : Out := instr o (vsts o) s
def execVldx (o : Operands) (s : State) : Out := instr o (vldx o) s
def execVstx (o : Operands) (s : State) : Out := instr o (vstx o) s

/-! ### Tiles (R112, R113) -/

def vld2d (o : Operands) : Run Unit := do
  let sh := memShape o .z false
  let n ← prep o sh tileFits
  let t ← Run.cur
  await (t.sourceSet o sh n)
  let x := (← Run.cur).sourceSet o sh n
  let (own, _) ← tileLoop o (memSweep .load false o.ty t [] (plainAddr (tileAddr o) n))
    (fun e acc => do
      let t ← Run.cur
      loadElem o n false e (tileAddr o n t e) acc) .empty
  let t ← Run.cur
  let x ← tagged true (t.joinTaint x own)
  Run.onCur fun c => c.taintDst sh n x

def vst2d (o : Operands) : Run Unit := do
  let sh := memShape o .z true
  let n ← prep o sh tileFits
  let t ← Run.cur
  awaitStore (t.sourceSet o sh n)
  let t ← Run.cur
  let bound := sh.bound t n
  let x ← streamTags bound (t.sourceSet o sh n)
  let u ← newGroupU o.u
  let (addrs, al) ← tileLoop o (memSweep .store false o.ty t [n.d] (plainAddr (tileAddr o) n))
    (fun e acc => do
      let t ← Run.cur
      storeElem o n false u x e (tileAddr o n t e) acc) []
  cleanAfter addrs
  Run.onCur fun c => c.consume bound al

def execVld2d (o : Operands) (s : State) : Out := instr o (vld2d o) s
def execVst2d (o : Operands) (s : State) : Out := instr o (vst2d o) s

/-! ### Compressed loads (R114, R195) -/

/-- Bytes at an address, one by one, with the sets of own stores. -/
def loadBytes (va : Word) : Nat → Run (List Nat × Taint)
  | 0 => pure ([], .empty)
  | n + 1 => do
    let r ← loadAt va 1
    let (bs, x) ← loadBytes (va + 1) n
    let t ← Run.cur
    return (r.val :: bs, t.joinTaint r.taint x)

/-- The 64 raw bytes of a block: where the bitmap has a bit, the next byte. -/
def zbpExpand (bitmap : Nat) : Nat → Nat → List Nat → List Nat
  | 0, _, _ => []
  | k + 1, j, bs => if bitmap / 2 ^ j % 2 == 1 then bs.headD 0 :: zbpExpand bitmap k (j + 1) (bs.drop 1)
    else 0 :: zbpExpand bitmap k (j + 1) bs

/-- Bytes of a block with header h. -/
def zbpSize (h : Nat) : Nat := if h ≥ 128 then 65 else 9 + h % 128

/-- Bytes of a block that come before its data: the header, and the bitmap where there is one. -/
def zbpHead (h : Nat) : Nat := if h ≥ 128 then 0 else 8

/-- Is a block malformed (R114)? bitmap: its eight bytes after the header. -/
def zbpBad (h bitmap : Nat) : Bool :=
  if h ≥ 128 then h != 128 else decide (h ≥ 56) || popCount (BitVec.ofNat 64 bitmap) 64 != h

/-- The raw bytes of a whole block, from its bitmap and its data. -/
def zbpDecode (h bitmap : Nat) (data : List Nat) : List Nat :=
  if h ≥ 128 then data.take 64 else zbpExpand bitmap 64 0 data

/-- Where VLDC stands: bytes consumed, elements decoded, sets taken; and the stop it met. -/
structure Zbp where
  pos : Nat
  n : Nat
  own : Taint
  stop : Option Stop := none

/-- One block after another until none fits. -/
def vldcLoop (base : Word) (limit vmax d : Nat) : Nat → Zbp → Run Zbp
  | 0, z => pure z
  | k + 1, z => do
    let pend ← if z.n % 256 == 0 then atBoundary (z.n == 0) else pure false
    if pend then
      if z.n == 0 then Run.stop .before else return { z with stop := some (.cause .preempt 0) }
    else if z.pos + 1 > limit || z.n + 64 > vmax then return z
    else do
      let at_ := base + BitVec.ofNat 64 z.pos
      let r ← trial (do
        let h ← loadAt at_ 1
        let size := zbpSize h.val
        if z.pos + size > limit then return none
        else if h.val ≥ 56 && h.val != 128 then Run.trap .streamEnd 0
        else do
          let (hd, xh) ← loadBytes (at_ + 1) (zbpHead h.val)
          let bitmap := hd.foldr (fun b acc => b + 256 * acc) 0
          if zbpBad h.val bitmap then Run.trap .streamEnd 0
          else do
            let (bs, x) ← loadBytes (at_ + BitVec.ofNat 64 (1 + zbpHead h.val)) (size - 1 - zbpHead h.val)
            let t ← Run.cur
            return some (zbpDecode h.val bitmap bs, size, t.joinTaint h.taint (t.joinTaint xh x)) :
          Run (Option (List Nat × Nat × Taint)))
      match r with
      | .error e => return { z with stop := some e }
      | .ok none => return z
      | .ok (some (raw, size, x)) => do
        Run.onCur fun t => ((List.range 64).zip raw).foldl (fun t (j, b) => t.setElem 0 d (z.n + j) b) t
        let t ← Run.cur
        vldcLoop base limit vmax d k { pos := z.pos + size, n := z.n + 64, own := t.joinTaint z.own x }

def vldc (o : Operands) : Run Unit := do
  let sh : Shape := { memShape o .s false with usesMif := false }
  let n ← prep o sh fun t _ => t.csr.vstart == 0
  let t ← Run.cur
  await (t.sourceSet o sh n)
  let x := (← Run.cur).sourceSet o sh n
  let z ← vldcLoop (t.s n.a) (t.s n.b).toNat (t.vlmax 0) n.d 257 ⟨0, 0, .empty, none⟩
  match z.stop with
  | some e =>
    if z.n == 0 then Run.stop e
    else do
      requestStop e e.va
      Run.onCur (·.setTrim e.trimCause z.n)
  | none => Run.onCur (·.closeConvoy)
  let t ← Run.cur
  let x ← tagged true (t.joinTaint x z.own)
  Run.onCur fun c =>
    let c := ((c.setVl z.n).setAl z.n).setVstart 0
    ({ c with csr := { c.csr with cbytes := BitVec.ofNat 64 z.pos } }.addTaint .vl x).taintDst sh n x

def execVldc (o : Operands) (s : State) : Out := instr o (vldc o) s

/-! ### Stream binding (R115 to R118) -/

/-- A failure to read the record traps with tval = sA. -/
def withTval {α : Type} (va : Word) (m : Run α) : Run α := do
  let r ← trial m
  match r with
  | .ok x => return x
  | .error (.cause c _) => Run.stop (.cause c va)
  | .error e => Run.stop e

/-- The rules of R116 on a record of 64 bytes. -/
def recordOk (bs : List Byte) : Bool :=
  let at_ := fun (o n : Nat) => natLE ((bs.drop o).take n)
  let fmt := at_ 0x30 1
  let ty := Ty.ofCode (BitVec.ofNat 4 fmt)
  let mx := fmt / 16 % 2 == 1
  let rowlen := at_ 0x28 4
  fmt / 32 == 0 && (!mx || ty == .e4m3 || ty == .e5m2 || ty == .e2m1) && decide (at_ 0x20 8 ≤ at_ 0x18 8) &&
  decide (1 ≤ rowlen) && decide (rowlen ≤ 2 ^ 31) && (!mx || rowlen % 32 == 0) && (mx || ty != .sf4 || rowlen % 8 == 0) &&
  (mx || at_ 0x08 8 == 0) && ((!mx && ty == .sf4) || at_ 0x10 8 == 0) && at_ 0x31 15 == 0

/-- Write POS back and release a binding (R118). -/
def unbind (r : Nat) : Run Unit := do
  let t ← Run.cur
  match t.bindOf r with
  | none => pure ()
  | some b => do
    awaitStore .empty
    let _ ← storeAt (b.addr + 0x20) 8 b.pos.toNat none .empty
    Run.onCur fun t => { t with binds := t.binds.filter fun (x : Binding) => x.reg != r }

def bindShape (a : RegK) : Shape :=
  { cls := .mem, ew := false, d := .z, dTy := .i8, writes := false, a := a, usesVl := false, usesMif := false }

/-- A step that leaves the strand as it was where it stops, but for stores of it that have performed meanwhile. -/
def undone {α : Type} (m : Run α) : Run α := fun s =>
  match m s with
  | .ok x s' => .ok x s'
  | .error e s' => .error e { s' with cur := { s.cur with buf := s'.cur.buf.filter s.cur.buf.contains } }

/-- VBIND. A register that is bound is unbound before the record is read, so its POS is in a record read again. The bound of
eight is a dispatch check (log entry 82). -/
def vbind (o : Operands) : Run Unit := do
  let n ← prep o (bindShape .s) fun t n => (t.bindOf n.d).isSome || decide (t.binds.length < 8)
  let t ← Run.cur
  await (t.taintOf (.s n.a))
  let a := t.s n.a
  Run.check (aligned a 64) .align a
  let bytes ← undone (do
    unbind n.d
    let (bs, _) ← withTval a (loadBytes a 64)
    let bytes := bs.map (BitVec.ofNat 8)
    checkIll o (recordOk bytes)
    return bytes)
  Run.onCur fun t => { t with binds := t.binds ++ [Binding.ofRecord n.d a bytes] }

def vunbind (o : Operands) : Run Unit := do
  let n ← prep o (bindShape .z) fun _ _ => true
  unbind n.d

def execVbind (o : Operands) (s : State) : Out := instr o (vbind o) s
def execVunbind (o : Operands) (s : State) : Out := instr o (vunbind o) s

/-! ### Gather windows (R119) -/

def wbind (o : Operands) : Run Unit := do
  let sh : Shape := { cls := .mem, d := .z, dTy := .i8, writes := false, a := .s, b := .v, usesMif := false }
  let n ← prep o sh fun t _ => decide (t.vl ≤ t.gvl)
  let t ← Run.cur
  let idx ← withSweep (sh.allReads o t n) (collect (List.range t.vl) fun j => srcW t o.ty n.b j)
  let w := o.im 0 4
  let bound := sh.bound t n
  let x ← streamTags bound (t.sourceSet o sh n)
  Run.onCur fun c =>
    let win : Window := ⟨w, c.s n.a, 2 ^ o.im 4 2, idx.map (·.2)⟩
    (({ c with wins := win :: c.wins.filter fun (k : Window) => k.w != w }).consume bound t.vl).setTaint (.win w) x

def wunbind (o : Operands) : Run Unit := do
  let _ ← prep o { bindShape .z with usesVl := false } fun _ _ => true
  let w := o.im 0 4
  Run.onCur fun c => ({ c with wins := c.wins.filter fun (k : Window) => k.w != w }).setTaint (.win w) .empty

def execWbind (o : Operands) (s : State) : Out := instr o (wbind o) s
def execWunbind (o : Operands) (s : State) : Out := instr o (wunbind o) s

/-! ### Vector atomics (R120) -/

/-- The register of CAS's compare value, or pair. -/
def casReg (o : Operands) (n : Names) : Nat := if o.ty.width == 3 then n.d + 2 else n.d + 1

def vamo (o : Operands) : Run Unit := do
  let aop := o.fnBits 0 4
  let n0 := (← Run.cur).names o
  let sh : Shape := { memShape o .v false with readsD := true, vmore := if aop == 0x9 then [casReg o n0] else [] }
  let n ← prep o sh fun _ n => o.vamoDOk (BitVec.ofNat 6 n.d)
  let t ← Run.cur
  awaitStore (t.sourceSet o sh n)
  let x := (← Run.cur).sourceSet o sh n
  let bound := sh.bound t n
  let (_, al, x) ← elementLoop o
    (fun _ => do
      let x ← streamTags bound x
      tagged true x)
    (memSweep .atomic false o.ty t (if aop == 0x9 then [casReg o n] else []) (indexedAddr o n))
    (fun i _ => do
      let va ← indexedAddr o n i
      let cmp ← if aop == 0x9 then src o.ty (casReg o n) i else pure 0
      let t ← Run.cur
      let old ← atomicAt va o.ty.bytes fun old => amoNew aop o.ty old (t.elem o.ty.width n.d i) cmp
      Run.onCur fun t => t.setElem o.ty.width n.d i old) ()
  Run.onCur fun c => (c.consume bound al).taintDst sh n x

def execVamo (o : Operands) (s : State) : Out := instr o (vamo o) s

/-! ### Spill and fill (R121 to R123) -/

/-- The registers of the range, first of each pair for 64-bit types. -/
def spillRegs (o : Operands) (n : Names) : List Nat :=
  let cnt := o.im 0 6 + 1
  let p := if o.ty.width == 3 then 2 else 1
  (List.range (cnt / p)).map fun q => n.d + p * q

/-- The dirty-map option skips a register whose bit, or whose bits of the pair, are clear. -/
def spillSkips (o : Operands) (t : Strand) (r : Nat) : Bool :=
  o.im 6 1 == 1 && !(t.csr.dmap.getLsbD r) && (o.ty.width != 3 || !(t.csr.dmap.getLsbD (r + 1)))

def sprWord (r i : Nat) : Word := BitVec.ofNat 64 (2 ^ 63 + r % 64 * 2 ^ 32 + i % 2 ^ 32)

/-- The transfers in order: (register, its place in the range, element). -/
def transfers (o : Operands) (n : Names) (t : Strand) : List (Nat × Nat × Nat) :=
  let regs := spillRegs o n
  let valid := t.csr.spr.getLsbD 63
  let r0 := if valid then t.csr.spr.toNat / 2 ^ 32 % 64 else n.d
  let e0 := if valid then t.csr.spr.toNat % 2 ^ 32 else 0
  (regs.zip (List.range regs.length)).flatMap fun (r, q) =>
    if r < r0 || spillSkips o t r then []
    else
      let from_ := if r == r0 then e0 else 0
      (List.range (t.vl - from_)).map fun k => (r, q, from_ + k)

/-- How a spill or a fill ended: whether it is complete, the transfers it made, and the bytes it wrote. -/
structure Spilled where
  done : Bool
  made : List (Nat × Nat × Nat)
  addrs : List Nat

/-- Transfer one after another (R121 to R123); where one stops, spr says where. rest: the accesses of a transfer, for a
sweep. A register read back that is poisoned kills the context, wherever it stands. -/
def spillLoop (o : Operands) (rest : Nat × Nat × Nat → List (Run Unit)) (one : Nat → Nat → Nat → Run (List Nat)) :
    Bool → Spilled → List (Nat × Nat × Nat) → Run Spilled
  | _, z, [] => pure { z with done := true }
  | first, z, (r, q, i) :: more => do
    let t ← Run.cur
    let pend ← if first || i % (64 * epslot t.ew) == 0 then atBoundary first else pure false
    if pend && first then Run.stop .before
    else do
      let res ← if pend then pure (.error (.cause .preempt 0)) else trial (one r q i)
      match res with
      | .ok new => spillLoop o rest one false { z with made := z.made ++ [(r, q, i)], addrs := new ++ z.addrs } more
      | .error .lost => Run.stop .lost
      | .error e => do
        sweepAt e (((r, q, i) :: more).flatMap rest)
        match first, e with
        | true, .s2 _ _ _ _ _ => Run.stop e
        | _, _ => do
          Run.onCur fun t => { t with csr := { t.csr with spr := sprWord r i } }
          if first then Run.stop e
          else do
            Run.onCur fun t => t.setTrim e.trimCause (q * t.vl + i)
            return { z with done := false }

/-- The dispatch checks of R121 after selection, and of R123. -/
def spillOk (o : Operands) (t : Strand) (n : Names) : Bool :=
  let r := t.csr.spr.toNat / 2 ^ 32 % 64
  o.rangeOk (BitVec.ofNat 6 n.d) &&
  (!(t.csr.spr.getLsbD 63) || ((spillRegs o n).contains r && decide (t.csr.spr.toNat % 2 ^ 32 < t.vl)))

/-- The address of element i of the q-th register of the range (R122). -/
def spillAddr (o : Operands) (t : Strand) (n : Names) (q i : Nat) : Word :=
  t.s n.a + BitVec.ofNat 64 ((q * t.vl + i) * o.ty.bytes)

def spillIds (o : Operands) (n : Names) : List RegId := (List.range (o.im 0 6 + 1)).map fun k => .v (n.d + k)

/-- The registers of one transfer are named as it is made (R158). -/
def spillName (o : Operands) (r : Nat) : Run Unit := touch (if o.ty.width == 3 then [r, r + 1] else [r])

def spillShape (o : Operands) (n : Names) (store : Bool) : Shape :=
  { cls := .mem2, d := .z, dTy := .i8, writes := false, a := .s, usesMif := false, apart := true,
    vmore := if store then spillRegs o n else [], wrote := if store then [] else spillIds o n }

def spillEnd (done : Bool) : Run Unit :=
  if done then Run.onCur fun t => { t with csr := { t.csr with spr := 0 } } else pure ()

/-- VSAVE. A bound register of the range is saved from its stream, and consumes what it has saved (R117, log entry 96). -/
def vsave (o : Operands) : Run Unit := do
  let n0 := (← Run.cur).names o
  let sh := spillShape o n0 true
  let n ← prep o sh (spillOk o)
  let t ← Run.cur
  awaitStore (t.sourceSet o sh n)
  let t ← Run.cur
  let bound := sh.bound t n
  let x ← streamTags bound (t.sourceSet o sh n)
  let z ← spillLoop o
    (fun e => (do
      let t ← Run.cur
      sweepTo .store (spillAddr o t n e.2.1 e.2.2)) :: streamReads t e.1 e.2.2)
    (fun r q i => do
      spillName o r
      let data ← src o.ty r i
      let t ← Run.cur
      let pa ← storeAt (spillAddr o t n q i) o.ty.bytes data none (t.joinTaint x t.readSets)
      return (List.range o.ty.bytes).map (pa + ·)) true ⟨false, [], []⟩ (transfers o n t)
  cleanAfter z.addrs
  Run.onCur fun t => bound.foldl (fun t r => t.consume [r] (z.made.filter (·.1 == r)).length) t
  spillEnd z.done

def vload (o : Operands) : Run Unit := do
  let n0 := (← Run.cur).names o
  let sh := spillShape o n0 false
  let n ← prep o sh (spillOk o)
  let t ← Run.cur
  await (t.sourceSet o sh n)
  let x := (← Run.cur).sourceSet o sh n
  let z ← spillLoop o
    (fun e => [do
      let t ← Run.cur
      sweepTo .load (spillAddr o t n e.2.1 e.2.2)])
    (fun r q i => do
      spillName o r
      let t ← Run.cur
      let v ← loadAt (spillAddr o t n q i) o.ty.bytes
      Run.onCur fun t => (spillIds o n).foldl (fun t id => t.addTaint id v.taint) (t.setElem o.ty.width r i v.val)
      return []) true ⟨false, [], []⟩ (transfers o n t)
  let x ← tagged true x
  Run.onCur fun t => t.taintDst sh n x
  spillEnd z.done

def execVsave (o : Operands) (s : State) : Out := instr o (vsave o) s
def execVload (o : Operands) (s : State) : Out := instr o (vload o) s

end Sys2Proof.Machine
end

