-- ==== Sys2Proof/Machine/Scratchpad.lean ====
section
/-! DEFINITION. The scratchpad, its tag table and the lane slices (R124 to R137): opcodes 0x68 to 0x6A. -/

namespace Sys2Proof.Machine

/-! ### Windows and descriptors -/

/-- Bytes of a group's window; 0 without one. -/
def Device.windowSize (d : Device) (g : Nat) : Nat :=
  match d.window g with
  | some w => 4096 * w.slots
  | none => 0

/-- A descriptor's fields (R127). -/
def descPitch (x : Word) : Nat := x.toNat % 65536
def descTile (x : Word) : Nat := x.toNat / 65536 % 65536
def descRot (x : Word) : Nat := x.toNat / 2 ^ 32 % 16
def descOk (x : Word) : Bool := x.toNat / 2 ^ 36 == 0 && decide (descRot x ≤ 3)

/-- Placement of an address under a descriptor with base b (R128); the row is the floor of the quotient, so that an
address below the base lies in a row below 0. -/
def scrPlace (desc b a : Word) : Nat :=
  let p := descPitch desc
  if descRot desc == 0 || p == 0 then a.toNat
  else
    let r : Int := (a - b).toInt / p
    let bank := (((a.toNat / 64 : Nat) + r * descRot desc) % 4).toNat
    a.toNat / 256 * 256 + bank * 64 + a.toNat % 64

/-- n bytes of a window. -/
def Device.scrGet (d : Device) (g at_ n : Nat) : Nat :=
  match d.window g with
  | some w => w.bytes.getLE at_ n
  | none => 0

/-- Write n bytes of a window: its slot counts as written (R150), and the bytes as clean (R129). Every strand of the group
sees them at once (log entry 85). -/
def Device.scrPut (d : Device) (g at_ n x : Nat) : Device :=
  match d.window g with
  | some w => d.setWindow { w with bytes := w.bytes.setLE at_ n x, written := insertSorted w.written (at_ / 4096),
                                   bad := keysOutside at_ n w.bad }
  | none => d

/-- Is the 64-byte group of a byte poisoned (R129)? -/
def Device.scrBad (d : Device) (g at_ : Nat) : Bool :=
  match d.window g with
  | some w => w.bad.any fun k => k / 64 == at_ / 64
  | none => false

/-! ### The tag table (R130, R131) -/

/-- The strand's window, with no slots where there is none. -/
def State.myTags (s : State) : List (Nat × Word) :=
  match s.dev.window s.cur.group with
  | some w => w.tags
  | none => []

def State.mySlots (s : State) : Nat := s.dev.windowSize s.cur.group / 4096

def setTags (f : List (Nat × Word) → List (Nat × Word)) : Run Unit := fun s =>
  .ok () (s.onDev fun d => match d.window s.cur.group with
    | some w => d.setWindow { w with tags := f w.tags }
    | none => d)

def splk (o : Operands) : Run Unit := do
  let s ← get
  let x := s.cur.s o.a.toNat
  let r : Word := match s.myTags.find? (·.2 == x) with
    | some (k, _) => BitVec.ofNat 64 k
    | none => BitVec.allOnes 64
  Run.onCur (·.putS o.d.toNat r [.s o.a.toNat])

/-- A slot operand must lie in the window. -/
def slotOperand (o : Operands) : Run Nat := do
  let s ← get
  let k := s.cur.s o.a.toNat
  Run.check (decide (k.toNat < s.mySlots)) .tpStore (k * 4096)
  return k.toNat

def sptag (o : Operands) : Run Unit := do
  let k ← slotOperand o
  let t ← Run.cur
  let x := t.s o.b.toNat
  setTags fun l => (l.filter fun e => !(e.1 == k || e.2 == x)) ++ [(k, x)]

def spinv (o : Operands) : Run Unit := do
  let k ← slotOperand o
  setTags fun l => l.filter fun e => !(e.1 == k)

def execSplk (o : Operands) (s : State) : Out := instr o (splk o) s
def execSptag (o : Operands) (s : State) : Out := instr o (sptag o) s
def execSpinv (o : Operands) (s : State) : Out := instr o (spinv o) s
def execSpinvAll (o : Operands) (s : State) : Out := instr o (setTags fun _ => []) s

/-! ### Scratchpad data (R132 to R134) -/

/-- The checks of R133, and the place of the access. -/
def scrCheck (acc : Acc) (place : Word → Nat) (a : Word) (n : Nat) : Run Nat := do
  Run.check (aligned a n) .align a
  let s ← get
  Run.check (decide (a.toNat < s.dev.windowSize s.cur.group)) acc.tp a
  let p := place a
  Run.check (acc != .load || !(s.dev.scrBad s.cur.group p)) .poison a
  return p

def scrLoad (o : Operands) (n : Names) (place : Word → Nat) (a : Word) (i : Nat) : Run Unit := do
  let p ← scrCheck .load place a o.ty.bytes
  let s ← get
  Run.onCur fun t => t.setElem o.ty.width n.d i (s.dev.scrGet s.cur.group p o.ty.bytes)

def scrStore (o : Operands) (n : Names) (place : Word → Nat) (a : Word) (i : Nat) : Run Unit := do
  let data ← src o.ty n.d i
  let p ← scrCheck .store place a o.ty.bytes
  let s ← get
  Run.onDev fun d => d.scrPut s.cur.group p o.ty.bytes data

/-- SPLD, SPST and SPLDX without a descriptor, by element. -/
def opSpld : EOp :=
  { sh := fun o => memShape o .z false
    body := fun o n _ i => do
      let t ← Run.cur
      scrLoad o n (·.toNat) (t.s n.a + BitVec.ofNat 64 (i * o.ty.bytes)) i }

def opSpst : EOp :=
  { sh := fun o => memShape o .z true
    body := fun o n _ i => do
      let t ← Run.cur
      scrStore o n (·.toNat) (t.s n.a + BitVec.ofNat 64 (i * o.ty.bytes)) i }

def opSpldx : EOp :=
  { sh := fun o => memShape o .v false
    body := fun o n _ i => do
      let a ← indexedAddr o n i
      scrLoad o n (·.toNat) a i }

/-- The element loop of an access on the core: it waits for the loads it depends on (R286). -/
def onCore (e : EOp) (o : Operands) : Run Unit := do
  let t ← Run.cur
  let sh := e.sh o
  let x := t.sourceSet o sh (t.names o)
  if sh.writes then await x else awaitStore x
  runE e o

/-- Element e of a tile through a descriptor sB. -/
def scrTileAddr (o : Operands) (n : Names) (t : Strand) (e : Nat) : Word :=
  t.s n.a + BitVec.ofNat 64 (e / t.vl * descPitch (t.s n.b) + e % t.vl * o.ty.bytes)

def scrTile (o : Operands) (store : Bool) : Run Unit := do
  let sh := memShape o .s store
  let n ← prep o sh fun t n => tileFits t n && descOk (t.s n.b)
  let t ← Run.cur
  let x := t.sourceSet o sh n
  if store then awaitStore x else await x
  let place := scrPlace (t.s n.b) (t.s n.a)
  let bound := sh.bound t n
  let (_, al) ← tileLoop o (sh.reads o t n) (fun e _ => do
    let t ← Run.cur
    if store then scrStore o n place (scrTileAddr o n t e) e else scrLoad o n place (scrTileAddr o n t e) e) ()
  let x ← streamTags bound ((← Run.cur).sourceSet o sh n)
  Run.onCur fun c => (c.consume bound al).taintDst sh n x

def execSpld (o : Operands) (s : State) : Out := instr o (onCore opSpld o) s
def execSpst (o : Operands) (s : State) : Out := instr o (onCore opSpst o) s
def execSpldTile (o : Operands) (s : State) : Out := instr o (scrTile o false) s
def execSpstTile (o : Operands) (s : State) : Out := instr o (scrTile o true) s
def execSpldx (o : Operands) (s : State) : Out := instr o (onCore opSpldx o) s

/-! ### Lane slices (R135 to R137) -/

/-- k(i): the place of element i among its lane's elements. -/
def lanePlace (w i : Nat) : Nat := slotOf w i / 64 * epslot w + i % epslot w

def sliceCheck (acc : Acc) (lane : Nat) (a : Word) (n : Nat) : Run Unit := do
  Run.check (aligned a n) .align a
  let t ← Run.cur
  Run.check (decide (a.toNat < 1024 * t.kern.slice)) acc.tp a
  Run.check (acc != .load || !(t.slicePoisoned lane a.toNat)) .poison a

/-- The offset of element i of the first two forms. -/
def laneOffset (o : Operands) (n : Names) (t : Strand) (i : Nat) : Word :=
  t.s n.a + BitVec.ofNat 64 (lanePlace o.ty.width i * o.ty.bytes)

def sliceLoad (o : Operands) (n : Names) (i : Nat) (a : Word) : Run Unit := do
  let lane := laneOf o.ty.width i
  sliceCheck .load lane a o.ty.bytes
  Run.onCur fun t => t.setElem o.ty.width n.d i (t.sliceGet lane a.toNat o.ty.bytes)

def sliceStore (o : Operands) (n : Names) (i : Nat) (a : Word) : Run Unit := do
  let data ← src o.ty n.d i
  let lane := laneOf o.ty.width i
  sliceCheck .store lane a o.ty.bytes
  Run.onCur fun t => t.slicePut lane a.toNat o.ty.bytes data

def opLpld : EOp :=
  { sh := fun o => memShape o .z false
    body := fun o n _ i => do
      let t ← Run.cur
      sliceLoad o n i (laneOffset o n t i) }

def opLpst : EOp :=
  { sh := fun o => memShape o .z true
    body := fun o n _ i => do
      let t ← Run.cur
      sliceStore o n i (laneOffset o n t i) }

def opLpldIndex : EOp :=
  { sh := fun o => memShape o .v false
    body := fun o n _ i => do
      let a ← indexedAddr o n i
      sliceLoad o n i a }

def opLpstIndex : EOp :=
  { sh := fun o => memShape o .v true
    body := fun o n _ i => do
      let a ← indexedAddr o n i
      sliceStore o n i a }

def execLpld (o : Operands) (s : State) : Out := instr o (onCore opLpld o) s
def execLpst (o : Operands) (s : State) : Out := instr o (onCore opLpst o) s
def execLpldIndex (o : Operands) (s : State) : Out := instr o (onCore opLpldIndex o) s
def execLpstIndex (o : Operands) (s : State) : Out := instr o (onCore opLpstIndex o) s

end Sys2Proof.Machine
end

