-- ==== Sys2Proof/Machine/Engines.lean ====
section
/-! DEFINITION. Engine commands (R138 to R148): the engine instructions (opcode 0x6B), the copy engines' commands, and
what the completion of a command delivers. -/

namespace Sys2Proof.Machine

/-! ### Commands and engines -/

/-- Cores of a die (R3). -/
abbrev coresPerDie : Nat := 38
def dieOf (core : Nat) : Nat := core / coresPerDie

/-- Word k of a command, and words k and k + 1. -/
def wordOf (x : BitVec 1024) (k : Nat) : Nat := (x >>> (32 * k)).toNat % 2 ^ 32
def Cmd.w (c : Cmd) (k : Nat) : Nat := wordOf c.words k
def Cmd.w64 (c : Cmd) (k : Nat) : Nat := c.w k + 2 ^ 32 * c.w (k + 1)

def Cmd.kind (c : Cmd) : Nat := c.w 0 % 256
def Cmd.flag (c : Cmd) (k : Nat) : Bool := (c.w 0).testBit (8 + k)

/-- The engine of a command: its port, and its core or, for the collective engine, its die (R138). -/
def Cmd.engine (c : Cmd) : Nat × Nat := (c.port, if c.port == 2 then dieOf c.core else c.core)

/-- The context a command runs in (R141). A copy engine shares its core's TLB (R85); a die's collective engine has its
own. -/
def Cmd.ctx (c : Cmd) : Ctx :=
  ⟨if c.port == 2 then 2048 + dieOf c.core else c.core, c.vf, c.asid.toNat, c.s1root.toNat / 4096 % 2 ^ 40, c.tlevel != 0⟩

/-- Commands an engine may hold (R144, R315). -/
def engineRoom (port : Nat) : Nat := if port == 2 then 64 else 32

/-- Can an engine take no command: it is full, or of a core that has failed (R420)? -/
def Device.engineFull (d : Device) (port core : Nat) : Bool :=
  let e := if port == 2 then dieOf core else core
  (port != 2 && d.failed.contains core) || decide ((d.cmds.filter fun (c : Cmd) => c.engine == (port, e) && !c.completed).length ≥ engineRoom port)

def Device.cmd (d : Device) (id : Nat) : Option Cmd := d.cmds.find? fun (c : Cmd) => c.id == id

def Device.setCmd (d : Device) (x : Cmd) : Device :=
  { d with cmds := d.cmds.map fun (c : Cmd) => if c.id == x.id then x else c }

/-- May a pushed command start now: is it first of its engine, has no collective command before it still to take its group's
number, and has its time come (R141, R148, R315)? -/
def Device.canStart (d : Device) (c : Cmd) : Bool :=
  c.state == .pushed &&
  (match d.cmds.find? fun (o : Cmd) => o.engine == c.engine && o.state == .pushed with
    | some o => o.id == c.id
    | none => false) &&
  !(d.cmds.any fun (o : Cmd) => o.engine == c.engine && o.port == 2 && o.state == .started && o.own.isNone) &&
  (!c.flag 1 || decide (c.w64 30 ≤ d.gtime.toNat))

/-- A timed command starts (R148). -/
def Device.timedStart (d : Device) (id : Nat) : Device :=
  match d.cmd id with
  | some c => if c.flag 1 && d.canStart c then d.setCmd { c with state := .started } else d
  | none => d

def execTimedCommandStart (cmd : Nat) (s : State) : Out := .next (s.onDev (·.timedStart cmd))

/-- KINDs a port accepts (R138). -/
def portTakes (port kind : Nat) : Bool :=
  if port == 2 then decide (0x10 ≤ kind) && decide (kind ≤ 0x15) else decide (1 ≤ kind) && decide (kind ≤ 3)

/-- Reserved bits of word 0 are 0 and the kind is one of its port's (R138). -/
def Cmd.headOk (c : Cmd) : Bool := portTakes c.port c.kind && c.w 0 / 2 ^ 12 % 16 == 0 && c.w 0 / 2 ^ 20 == 0

/-! ### The engine instructions (R143 to R147) -/

/-- The 128 bytes of 32-bit elements 0 to 31 of a register. -/
def Strand.packWords (t : Strand) (r n : Nat) : Nat :=
  (List.range n).foldr (fun k acc => (t.word r k).toNat + 2 ^ 32 * acc) 0

/-- The command as its pusher leaves it. -/
def Strand.command (t : Strand) (id port now : Nat) (x : BitVec 1024) : Cmd :=
  { id := id, uid := t.uid, queue := t.queue, core := t.core, port := port, words := x, vf := t.vf, agent := t.agent,
    asid := t.sup.asid, s1root := t.sup.s1root, tlevel := t.sup.tlevel, group := t.group, slot := t.slot, node := 0,
    gid := 0, seq := 0, limit := 0, state := .pushed, drop := false, pushedAt := now, joinedAt := 0, own := none }

/-- A counter of mode 1 takes note of a signalling command that is pushed (R147). -/
def Strand.notePush (t : Strand) (c : Cmd) : Strand :=
  let k := c.w 0 / 2 ^ 16 % 16
  let e := t.evCtr k
  if c.flag 2 && e.mode then t.setEv k { e with run := e.run ++ [(c.id, false)] } else t

/-- Push a command of a strand (R144). -/
def State.push (s : State) (uid port : Nat) (x : BitVec 1024) : State :=
  match s.find uid with
  | none => s
  | some t =>
    let c := t.command s.dev.nextCmd port s.dev.gtime.toNat x
    (s.onDev fun d => { d with nextCmd := d.nextCmd + 1, cmds := d.cmds ++ [c] }).upd uid (·.notePush c)

/-- EPUSH reads words of vA whatever its type, so that no stream pairs with it: ILL where vA is bound (log entry 80). -/
def epush (o : Operands) : Run (Option Wait) := do
  let t ← Run.cur
  checkIll o (t.bindOf o.a.toNat).isNone
  touch [o.a.toNat]
  awaitStore (t.taintOf (.v o.a.toNat))
  drain
  let s ← get
  let t := s.cur
  let port := o.eng 0 3
  let x := BitVec.ofNat 1024 (t.packWords o.a.toNat 32)
  if s.dev.engineFull port t.core then return some (.push port x)
  else do
    modify fun s => s.push t.uid port x
    return none

/-- Write the 32-bit words of a record to a register, whatever ew holds. -/
def Strand.putWords (t : Strand) (r n x : Nat) : Strand :=
  (List.range n).foldl (fun t k => t.setElem 2 r k (x / 2 ^ (32 * k) % 2 ^ 32)) t

/-- A completion record (R145). -/
def Cmd.record (c : Cmd) (status progress addr : Nat) : BitVec 256 :=
  BitVec.ofNat 256 (c.w64 24 + 2 ^ 64 * (progress % 2 ^ 64)
    + 2 ^ 128 * (status % 65536 + 65536 * c.kind + 2 ^ 24 * (c.port % 8)) + 2 ^ 160 * (addr % 2 ^ 64))

/-- The record of EPOP with no command to wait for (R146). -/
def noRecord : BitVec 256 := BitVec.ofNat 256 (2 ^ 128 * 0xFF)

/-- Records of a strand and port. -/
def Strand.recordsAt (t : Strand) (port : Nat) : List (BitVec 256) := (t.recs.filter fun e => e.1 == port).map (·.2)

/-- The first record of a port that waits for room joins the queue. -/
def State.admitHeld (s : State) (uid port : Nat) : State :=
  match s.dev.cmds.find? fun (c : Cmd) => c.uid == uid && c.port == port && c.completed with
  | some c => match c.state with
    | .held st pr ad =>
      (s.onDev fun d => { d with cmds := d.cmds.filter fun (x : Cmd) => x.id != c.id }).upd uid fun t =>
        { t with recs := t.recs ++ [(port, c.record st pr ad)] }
    | _ => s
  | none => s

/-- EPOP's answer (R146): the oldest record, or NOREC where no command will make one; none where it waits. -/
def State.popRecord (s : State) (t : Strand) (port : Nat) : Option (BitVec 256 × State) :=
  match t.recs.findIdx? fun e => e.1 == port with
  | some k => (t.recs[k]?).map fun e =>
      (e.2, (s.upd t.uid fun t => { t with recs := t.recs.eraseIdx k }).admitHeld t.uid port)
  | none =>
    if s.dev.cmds.any fun (c : Cmd) => c.uid == t.uid && c.port == port && c.flag 0 && c.node == 0 then none
    else some (noRecord, s)

def epop (o : Operands) : Run (Option Wait) := do
  let t ← Run.cur
  let port := o.eng 0 3
  checkIll o (t.bindOf o.d.toNat).isNone
  touch [o.d.toNat]
  let s ← get
  match s.popRecord s.cur port with
  | some (r, s') => do
    set s'
    Run.onCur (·.putWords o.d.toNat 8 r.toNat)
    return none
  | none => return some (.epop port o.d.toNat)

def epoll (o : Operands) : Run Unit := Run.onCur fun t =>
  t.putS o.d.toNat (BitVec.ofNat 64 (t.recordsAt (o.eng 0 3)).length) []

/-- n of WAITEV: LIT32 in X96, 0 in L64. -/
def waitCount (o : Operands) : Nat :=
  match o.form with
  | .x96 => o.imm.toNat
  | _ => 0

def waitev (o : Operands) : Run (Option Wait) := do
  let t ← Run.cur
  let k := o.eng 0 4
  let n := (t.s o.b.toNat).toNat + waitCount o
  return if (t.evCtr k).val.toNat ≥ n then none else some (.waitev k n)

def evrd (o : Operands) : Run Unit := Run.onCur fun t => t.putS o.d.toNat (t.evCtr (o.eng 0 4)).val []

def evset (o : Operands) : Run Unit := Run.onCur fun t =>
  let x := t.s o.a.toNat
  t.setEv (o.eng 0 4) ⟨x, o.eng 4 1 == 1, x, []⟩

def execEpush (o : Operands) (s : State) : Out := waits o (epush o) s
def execEpop (o : Operands) (s : State) : Out := waits o (epop o) s
def execEpoll (o : Operands) (s : State) : Out := instr o (epoll o) s
def execWaitev (o : Operands) (s : State) : Out := waits o (waitev o) s
def execEvrd (o : Operands) (s : State) : Out := instr o (evrd o) s
def execEvset (o : Operands) (s : State) : Out := instr o (evset o) s

/-! ### Accesses of an engine -/

/-- Why an element of a command fails: status, failing address, and the page request of a stage-2 miss. -/
structure EngErr where
  status : Nat
  addr : Nat
  page : Option (Nat × Nat × Bool × Word)
deriving DecidableEq, Repr

abbrev EngM (α : Type) := EStateM EngErr Device α

def Stop.engErr : Stop → EngErr
  | .cause c v => ⟨causeCode c, v.toNat, none⟩
  | .s2 _ kind gpage perm v => ⟨0x81, v.toNat, some (kind, gpage, perm, v)⟩
  | .before | .lost => ⟨0, 0, none⟩

def eng {α : Type} (m : DevM α) : EngM α := fun d =>
  match m d with
  | .ok x d' => .ok x d'
  | .error e d' => .error e.engErr d'

def engFail {α : Type} (status addr : Nat) : EngM α := fun d => .error ⟨status, addr, none⟩ d

/-- One side of a copy command: memory from an address, or the scratchpad from a base with a placement (R139). -/
structure Side where
  scr : Bool
  base : Word
  desc : Word
deriving DecidableEq, Repr

def sideOf (scr : Bool) (x : Nat) : Side :=
  if scr then ⟨true, BitVec.ofNat 64 (x % 2 ^ 22), BitVec.ofNat 64 (x / 2 ^ 32 % 65536 + 2 ^ 32 * (x / 2 ^ 48 % 16))⟩
  else ⟨false, BitVec.ofNat 64 x, 0⟩

def Cmd.source (c : Cmd) : Side := sideOf ((c.w 5).testBit 8) (c.w64 1)
def Cmd.dest (c : Cmd) : Side := sideOf ((c.w 5).testBit 9) (c.w64 3)

/-- Where an access falls: in memory, or at a place of the pusher's window. -/
inductive Place where
  | mem (pa : Nat)
  | scr (at_ : Nat)
deriving DecidableEq, Repr

/-- Check n bytes of a side at an address (R97, R133, R140). -/
def engPlace (c : Cmd) (sd : Side) (acc : Acc) (a : Word) (n : Nat) : EngM Place := do
  if a.toNat % n != 0 then engFail (causeCode .align) a.toNat
  else if sd.scr then do
    let d ← get
    if a.toNat ≥ d.windowSize c.group then engFail (causeCode acc.tp) a.toNat
    else
      let p := scrPlace sd.desc sd.base a
      if acc == .load && d.scrBad c.group p then engFail (causeCode .poison) a.toNat else return .scr p
  else do
    let pa ← eng (translate c.ctx acc (acc == .store) a)
    let d ← get
    if acc == .load && d.poisoned pa then engFail (causeCode .poison) a.toNat else return .mem pa

def engGet (c : Cmd) (sd : Side) (a : Word) (n : Nat) : EngM Nat := do
  let p ← engPlace c sd .load a n
  let d ← get
  match p with
  | .mem pa => return d.readLE pa n
  | .scr k => return d.scrGet c.group k n

def engPut (c : Cmd) (sd : Side) (a : Word) (n x : Nat) : EngM Place := do
  let p ← engPlace c sd .store a n
  modify fun d => match p with
    | .mem pa => if d.remoteLost pa then { d with linkLost := d.linkLost + 1 } else d.writeLE pa n x
    | .scr k => d.scrPut c.group k n x
  return p

/-! ### Copy commands (R139, R140) -/

def Cmd.conv (c : Cmd) : Nat := c.w 5 / 16 % 16
def Cmd.sz (c : Cmd) : Nat := 2 ^ (c.w 5 % 4)
def Cmd.p64 (c : Cmd) : Nat := c.w64 28
def Cmd.count (c : Cmd) (k : Nat) : Nat := c.w (6 + k)
def Cmd.total (c : Cmd) : Nat := ((List.range 6).map c.count).foldl (· * ·) 1

/-- The signed stride of dimension k: sk 12 for the source, 18 for the destination. -/
def Cmd.stride (c : Cmd) (first k : Nat) : Int := (BitVec.ofNat 32 (c.w (first + k))).toInt

/-- Bytes of a destination element. -/
def Cmd.dstSize (c : Cmd) : Nat :=
  match c.conv with
  | 0 => c.sz
  | 1 => 2
  | 2 => 4
  | 3 => 1
  | 4 => 2
  | _ => 4

/-- The index of dimension k of the element at position q (R140). -/
def Cmd.index (c : Cmd) (q k : Nat) : Nat := q / ((List.range k).map c.count).foldl (· * ·) 1 % c.count k

/-- Σ i_k × stride_k over the dimensions from lo on. -/
def Cmd.offset (c : Cmd) (first lo q : Nat) : Int :=
  ((List.range 6).map fun k => if k < lo then 0 else (c.index q k : Int) * c.stride first k).sum

def Side.at_ (sd : Side) (off : Int) : Word := sd.base + BitVec.ofInt 64 off

/-- What ZBP decoding carries: bytes of the source read, and the raw bytes of the current block. -/
structure ZbpAt where
  pos : Nat
  raw : List Nat
deriving DecidableEq, Repr

/-- n single bytes of a side. -/
def engBytes (c : Cmd) (sd : Side) (a : Word) : Nat → EngM (List Nat)
  | 0 => pure []
  | n + 1 => do
    let x ← engGet c sd a 1
    let xs ← engBytes c sd (a + 1) n
    return x :: xs

/-- The next block, within the bound P64 (R114, R140). -/
def engBlock (c : Cmd) (z : ZbpAt) : EngM ZbpAt := do
  let a := c.source.base + BitVec.ofNat 64 z.pos
  if z.pos + 1 > c.p64 then engFail 0x82 a.toNat
  else do
    let h ← engGet c c.source a 1
    let size := zbpSize h
    if z.pos + size > c.p64 then engFail 0x82 a.toNat
    else if h ≥ 56 && h != 128 then engFail 0x82 a.toNat
    else do
      let hd ← engBytes c c.source (a + 1) (zbpHead h)
      let bitmap := hd.foldr (fun b acc => b + 256 * acc) 0
      if zbpBad h bitmap then engFail 0x82 a.toNat
      else do
        let body ← engBytes c c.source (a + BitVec.ofNat 64 (1 + zbpHead h)) (size - 1 - zbpHead h)
        return ⟨z.pos + size, zbpDecode h bitmap body⟩

/-- The row number of R140, from the indices of dimensions 1 to 5. -/
def Cmd.row (c : Cmd) (q : Nat) : Nat :=
  ([5, 4, 3, 2, 1]).foldl (fun acc k => c.index q k + c.count k * acc) 0

/-- Where the code, the block scale and the band scale of an SF4 element stand (R140, R192). -/
def Cmd.sf4Block (c : Cmd) (q : Nat) : Word :=
  c.source.at_ (c.offset 12 1 q) + BitVec.ofNat 64 (5 * (c.index q 0 / 8))
def Cmd.sf4Code (c : Cmd) (q : Nat) : Word := c.sf4Block q + BitVec.ofNat 64 (c.index q 0 % 8 / 2)
def Cmd.sf4Scale (c : Cmd) (q : Nat) : Word :=
  c.sf4Block q + BitVec.ofNat 64 ((min 8 (c.count 0 - c.index q 0 / 8 * 8) + 1) / 2)
def Cmd.sf4Band (c : Cmd) (q : Nat) : Word := BitVec.ofNat 64 (c.p64 + 2 * (c.row q / 64))

/-- The side of addresses in memory. -/
def memSide : Side := ⟨false, 0, 0⟩

/-- An SF4 element as a destination element (R140, R188, R192). -/
def engSf4 (c : Cmd) (q : Nat) : EngM Nat := do
  let code ← engGet c c.source (c.sf4Code q) 1
  let sc ← engGet c c.source (c.sf4Scale q) 1
  let band ← engGet c memSide (c.sf4Band q) 2
  let v := decodeFloat .e2m1 (code / 2 ^ (4 * (c.index q 0 % 2)) % 16)
  return exactBits (if c.conv == 4 then .bf16 else .f32) (v.mul ((e3m5 sc).mul (decodeFloat .bf16 band)).1).1

/-- The destination element at position q. -/
def engValue (c : Cmd) (q : Nat) (z : ZbpAt) : EngM (Nat × ZbpAt) := do
  if c.kind == 2 then return (c.p64 % 2 ^ (8 * c.sz), z)
  else
    let a := c.source.at_ (c.offset 12 0 q)
    match c.conv with
    | 0 => return (← engGet c c.source a c.sz, z)
    | 1 => return (exactBits .bf16 (decodeFloat .f32 (← engGet c c.source a 4)), z)
    | 2 => return (exactBits .f32 (decodeFloat .bf16 (← engGet c c.source a 2)), z)
    | 3 => do
      let z ← if q % 64 == 0 then engBlock c z else pure z
      return (z.raw.getD (q % 64) 0, z)
    | _ => return (← engSf4 c q, z)

/-- One element: read, converted, written. DESIGN CHOICE (log entry 108): its source is read whole before its destination is
checked, of SF4 the code, then the block scale, then the band scale. -/
def engElement (c : Cmd) (q : Nat) (z : ZbpAt) : EngM (Place × ZbpAt) := do
  let (x, z) ← engValue c q z
  let p ← engPut c c.dest (c.dest.at_ (c.offset 18 0 q)) c.dstSize x
  return (p, z)

/-- Elements q, q + 1, ... in loop order: places written, and where, with what carried, and why the command stopped. -/
def engLoop (c : Cmd) : Nat → Nat → ZbpAt → List Place → Device → List Place × Option (Nat × ZbpAt × EngErr) × Device
  | 0, _, _, ps, d => (ps, none, d)
  | k + 1, q, z, ps, d =>
    match engElement c q z d with
    | .ok (p, z) d => engLoop c k (q + 1) z (p :: ps) d
    | .error e d => (ps, some (q, z, e), d)

/-- Lines whose 64 bytes the command's elements wrote are clean (R67). -/
def Device.engClean (d : Device) (c : Cmd) (ps : List Place) : Device :=
  d.cleanLines (wholeLines (ps.flatMap fun p => match p with
    | .mem pa => (List.range c.dstSize).map (pa + ·)
    | .scr _ => []))

/-- A page request of a command, unless its pusher has one unanswered (R88, R142). -/
def Device.engRequest (d : Device) (c : Cmd) (e : EngErr) : Device :=
  match e.page with
  | none => d
  | some (kind, gpage, perm, va) =>
    if d.prqs.any fun r => r.uid == c.uid && r.gpage == gpage && r.vf == c.vf then d
    else (d.pageRequest c.vf c.uid c.agent c.slot c.core kind gpage perm va none).2

/-- The page of an address of a side is requested if it misses. -/
def engTouch (c : Cmd) (acc : Acc) (sd : Side) (d : Device) (a : Word) : Device :=
  if sd.scr then d else
    match eng (translate c.ctx acc false a) d with
    | .ok _ d => d
    | .error e d => d.engRequest c e

/-- The pages of a ZBP block, whose header gives its size, and where the next block begins; none where that cannot be
known. -/
def engTouchBlock (c : Cmd) (pos : Option Nat) (d : Device) : Option Nat × Device :=
  match pos with
  | none => (none, d)
  | some pos =>
    let a := c.source.base + BitVec.ofNat 64 pos
    if pos + 1 > c.p64 then (none, d)
    else match engGet c c.source a 1 (engTouch c .load c.source d a) with
      | .error _ d => (none, d)
      | .ok h d =>
        if pos + zbpSize h > c.p64 || (h ≥ 56 && h != 128) then (none, d)
        else (some (pos + zbpSize h), (List.range (zbpSize h)).foldl (fun d k =>
          engTouch c .load c.source d (a + BitVec.ofNat 64 k)) d)

/-- The pages of the source of the element at position q. -/
def engTouchSource (c : Cmd) (q : Nat) (pos : Option Nat) (d : Device) : Option Nat × Device :=
  if c.kind == 2 then (pos, d)
  else match c.conv with
    | 3 => if q % 64 == 0 then engTouchBlock c pos d else (pos, d)
    | 4 | 5 => (pos, engTouch c .load memSide ([c.sf4Code q, c.sf4Scale q].foldl (engTouch c .load c.source) d) (c.sf4Band q))
    | _ => (pos, engTouch c .load c.source d (c.source.at_ (c.offset 12 0 q)))

/-- The sweep after a stage-2 miss (R87, R142): of the elements not moved, every page of the source and of the destination
that misses is requested. -/
def engSweep (c : Cmd) : Nat → Nat → Option Nat → Device → Device
  | 0, _, _, d => d
  | k + 1, q, pos, d =>
    let (pos, d) := engTouchSource c q pos d
    engSweep c k (q + 1) pos (engTouch c .store c.dest d (c.dest.at_ (c.offset 18 0 q)))

/-- The sweep over elements i, i + 1, ... of n bytes from an address in memory. -/
def engSweepElems (c : Cmd) (acc : Acc) (base n : Nat) : Nat → Nat → Device → Device
  | 0, _, d => d
  | k + 1, i, d => engSweepElems c acc base n k (i + 1) (engTouch c acc memSide d (BitVec.ofNat 64 (base + i * n)))

/-- Reserved bits of a scratchpad side are 0 and its ROT is one of 0 to 3 (R139). -/
def sideOk (scr : Bool) (x : Nat) : Bool :=
  !scr || (x / 2 ^ 52 == 0 && x / 2 ^ 22 % 2 ^ 10 == 0 && decide (x / 2 ^ 48 % 16 ≤ 3))

/-- Is a copy command well formed (R138 to R142)? -/
def Cmd.copyOk (c : Cmd) : Bool :=
  let ssp := (c.w 5).testBit 8
  let dsp := (c.w 5).testBit 9
  c.headOk && c.w 5 / 2 ^ 10 == 0 && c.w 5 / 4 % 4 == 0 && decide (c.conv ≤ 5) && decide (c.total ≤ 2 ^ 48) &&
  sideOk ssp (c.w64 1) && sideOk dsp (c.w64 3) &&
  (c.conv != 3 || (c.w 5 % 4 == 0 && c.count 0 % 64 == 0 && c.stride 18 0 == 1)) &&
  (match c.kind with
    | 1 => true
    | 2 => !ssp && c.conv == 0 && c.w64 1 == 0 && ((List.range 6).all fun k => c.w (12 + k) == 0)
    | _ => dsp && decide (c.conv ≤ 2))

/-- The least and the greatest byte offset of the destination from its base, for a command that moves something. -/
def Cmd.extent (c : Cmd) : Int × Int :=
  let ends := (List.range 6).map fun k => ((c.count k : Int) - 1) * c.stride 18 k
  ((ends.map fun x => min x 0).sum, (ends.map fun x => max x 0).sum + c.dstSize - 1)

/-- The two checks of SCRATCH-INSTALL (R140): status and address, or none. -/
def Device.installCheck (d : Device) (c : Cmd) : Option (Nat × Nat) :=
  let b := c.dest.base.toNat
  let slot : Int := b / 4096
  if b ≥ d.windowSize c.group then some (causeCode .tpStore, b)
  else if c.total != 0 && (decide ((b + c.extent.1) / 4096 ≠ slot) || decide ((b + c.extent.2) / 4096 ≠ slot)) then
    some (0x83, b)
  else none

/-- SPTAG of a slot of a window (R131). -/
def Device.tagSlot (d : Device) (g k : Nat) (x : Word) : Device :=
  match d.window g with
  | some w => d.setWindow { w with tags := (w.tags.filter fun e => !(e.1 == k || e.2 == x)) ++ [(k, x)] }
  | none => d

/-- Do the work of a copy command: the device, and how the command ends. Where no element access fails, the address of the
record is 0 for a malformed command and the base b for a slot out of range (log entry 87). -/
def Device.copyWork (d : Device) (c : Cmd) : Device × CmdState :=
  if !c.copyOk then (d, .ended 0x80 0 0)
  else
    match if c.kind == 3 then d.installCheck c else none with
    | some (st, a) => (d, .ended st 0 a)
    | none =>
      let (ps, r, d) := engLoop c c.total 0 ⟨0, []⟩ [] d
      let d := d.engClean c ps
      match r with
      | some (q, z, e) =>
        let d := d.engRequest c e
        let d := if e.page.isSome then engSweep c (c.total - q) q (some z.pos) d else d
        (d, .ended e.status q e.addr)
      | none =>
        (if c.kind == 3 then d.tagSlot c.group (c.dest.base.toNat / 4096) (BitVec.ofNat 64 c.p64) else d,
          .ended 0 c.total 0)

/-- A copy command of a kind runs, if it may start or has started (R141). -/
def Device.copyRun (d : Device) (kind id : Nat) : Device :=
  match d.cmd id with
  | some c =>
    if c.kind == kind && portTakes c.port kind && (c.state == .started || d.canStart c) then
      let (d, st) := d.copyWork c
      d.setCmd { c with state := st }
    else d
  | none => d

/-- A command has moved on: strands that waited to be saved until their window's commands had ended are saved (R150), and
windows that nothing uses any more are freed (R125). -/
def State.unit (s : State) (f : Device → Device) : State := (s.onDev f).departures

def execCopy6d (cmd : Nat) (s : State) : Out := .next (s.unit (·.copyRun 1 cmd))
def execFillCopy (cmd : Nat) (s : State) : Out := .next (s.unit (·.copyRun 2 cmd))
def execScratchInstall (cmd : Nat) (s : State) : Out := .next (s.unit (·.copyRun 3 cmd))

/-! ### Completion (R145, R147, R148, R361) -/

/-- The longest run from the first command that has completed. -/
def runLength : List (Nat × Bool) → Nat
  | [] => 0
  | (_, done) :: rest => if done then runLength rest + 1 else 0

/-- A counter hears of a completed command (R147). -/
def EvCtr.complete (e : EvCtr) (id : Nat) : EvCtr :=
  if e.mode then
    let run := e.run.map fun (k, done) => (k, done || k == id)
    { e with run := run, val := e.base + BitVec.ofNat 64 (runLength run) }
  else { e with val := e.val + 1 }

/-- A wait of WFE ends (R392). -/
def Strand.wake (t : Strand) : Strand :=
  match t.status with
  | .waiting (.wfe _) next => t.endWait next
  | _ => t

/-- The record of a completed command joins its pusher's queue, or waits for room there (R145). -/
def State.deliverRecord (s : State) (c : Cmd) (st pr ad : Nat) : State :=
  let gone := s.onDev fun d => { d with cmds := d.cmds.filter fun (x : Cmd) => x.id != c.id }
  match s.find c.uid with
  | none => gone
  | some t =>
    if !c.flag 0 || c.drop || c.node != 0 then gone
    else if (t.recordsAt c.port).length < 64 &&
        !(s.dev.cmds.any fun (x : Cmd) => x.uid == c.uid && x.port == c.port && x.completed) then
      gone.upd c.uid fun t => ({ t with recs := t.recs ++ [(c.port, c.record st pr ad)] }).wake
    else gone.onDev fun d => { d with cmds := d.cmds ++ [{ c with state := .held st pr ad }] }

/-- A COPY node ends with its command (R359), also after its graph has ended (R362) unless an ABORT ended it; another
command signals its graph node on OK (R361). -/
def endOfNode (c : Cmd) (st : Nat) : DevM Unit := do
  let d ← get
  if c.node != 0 then
    if !c.drop && ((d.queue c.queue).run c.node).launched then
      if st == 0 then doneAll c.queue c.node else failNode c.queue c.node true
    else pure ()
  else if st == 0 && c.flag 3 then
    match d.queueOfNode c.vf c.agent (c.w64 26) with
    | some q => signalNode q (c.w64 26)
    | none => pure ()
  else pure ()

/-- How a command has ended: a command whose kind its port does not take ends malformed when it starts. -/
def Device.ending (d : Device) (c : Cmd) : Option (Nat × Nat × Nat) :=
  match c.state with
  | .ended st pr ad => some (st, pr, ad)
  | .held _ _ _ => none
  | _ => if !(portTakes c.port c.kind) && (c.state == .started || d.canStart c) then some (0x80, 0, 0) else none

/-- Does a strand's context stand in its context area? -/
def Strand.away (t : Strand) : Bool :=
  t.leaving.isNone && match t.status with
    | .parked | .preempted _ | .halted _ => true
    | _ => false

/-- A counter's new value; that of a strand that is saved goes to its context area too, from which it is restored (R148,
R385). -/
def State.countEv (s : State) (uid k id : Nat) : State :=
  let s := s.upd uid fun t => (t.setEv k ((t.evCtr k).complete id)).wake
  match s.find uid with
  | some t =>
    match t.ctxArea with
    | some area =>
      if t.away then (s.devRun (gpwrite t.vf (area + 0x3C0 + 8 * k) (bytesLE 8 (t.evCtr k).val.toNat))).2 else s
    | none => s
  | none => s

/-- A command completes: its record, its counter, its node, and its pusher's node. -/
def State.complete (s : State) (id : Nat) : State :=
  match s.dev.cmd id with
  | none => s
  | some c =>
    match s.dev.ending c with
    | none => s
    | some (st, pr, ad) =>
      let k := c.w 0 / 2 ^ 16 % 16
      let s := s.deliverRecord c st pr ad
      let s := if c.flag 2 && c.node == 0 then s.countEv c.uid k c.id else s
      let s := (s.devRun (endOfNode c st)).2
      (match s.find c.uid with
        | some t => if c.node == 0 then s.settleNode t.queue t.node.toNat else s
        | none => s).departures

def execCommandCompletion (cmd : Nat) (s : State) : Out := .next (s.complete cmd)

end Sys2Proof.Machine
end

