-- ==== Sys2Proof/Machine/Mail.lean ====
section
/-! DEFINITION. Mailbox and graph instructions (opcodes 0x7C, 0x7D: R345 to R353), and the end of a strand's wait
(R319). -/

namespace Sys2Proof.Machine

/-! ### Capabilities and messages -/

/-- The capability c of a strand, as it counts now (R344, R349). -/
def State.cap (s : State) (t : Strand) (c : Nat) : Option Cap := s.dev.capOf t.agent (t.caps.getD c 0)

/-- The capability an instruction names, with the right it needs (R349). -/
def needCap (o : Operands) (right : Cap → Bool) : Run Cap := do
  let s ← get
  let c := o.im 0 6
  match s.cap s.cur c with
  | some k => if right k then return k else Run.trap .priv (BitVec.ofNat 64 c)
  | none => Run.trap .priv (BitVec.ofNat 64 c)

/-- Does the strand's agent hold an RCV capability for a mailbox? -/
def State.receives (s : State) (t : Strand) (mb : Nat) : Bool :=
  t.caps.any fun raw => match s.dev.capOf t.agent raw with
    | some k => k.rcv && k.mbox == mb
    | none => false

/-- A message has been accepted into a mailbox: waits of WFE for it end (R392). -/
def State.wakeMail (s : State) (mb : Nat) : State :=
  s.mapStrands fun t => if s.receives t mb then t.wake else t

/-- A send (R346, R350): 1 where it is refused. -/
def State.send (s : State) (mb : Nat) (msg : BitVec 512) (sender : BitVec 32) : Word × State :=
  if s.dev.mboxFull mb then (1, s) else (0, (s.onDev fun d => d.accept mb msg sender).wakeMail mb)

/-- Send, and write sd. -/
def sendFrom (o : Operands) (mb : Nat) (msg : BitVec 512) (x : Taint) : Run Unit := fun s =>
  let t := s.cur
  let (r, s) := s.send mb msg (senderWord false false t.vf t.agent)
  .ok () (s.onCur fun t => (t.setS o.d.toNat r).setTaint (.s o.d.toNat) x)

/-! ### MBSEND, MBRECV, MBPOLL -/

/-- MBSEND reads words of vA, as EPUSH does (log entry 80); the capability is looked up at execution, after the dispatch
checks (R349). -/
def mbsend (o : Operands) : Run Unit := do
  checkIll o ((← Run.cur).bindOf o.a.toNat).isNone
  let k ← needCap o (·.snd)
  touch [o.a.toNat]
  let x := (← Run.cur).taintOf (.v o.a.toNat)
  awaitStore x
  drain
  let t ← Run.cur
  sendFrom o k.mbox (BitVec.ofNat 512 (t.packWords o.a.toNat 16)) (t.taintOf (.v o.a.toNat))

/-- The receivers that wait on a mailbox their agent owns, by ticket and rank (R345, R347): of those that began in one
clock the strand on the lower core goes first, then the lower slot, then a walker. -/
def State.tickets (s : State) (mb : Nat) : List (Nat × Nat) :=
  s.dev.nodeTickets mb ++ s.strands.filterMap fun t => match t.status with
    | .waiting (.mbrecv m _ k) _ =>
      if m == mb && s.dev.mayReceive t.agent mb && t.leaving.isNone then some (k, 4 * t.core + t.slot) else none
    | _ => none

/-- Did the first of two receivers begin to wait before the other? -/
def waitsBefore (a b : Nat × Nat) : Bool := decide (a.1 < b.1) || (a.1 == b.1 && decide (a.2 < b.2))

/-- The message for a receiver: the oldest, if the mailbox is its agent's and no other receiver began to wait before it
(R345 to R347). -/
def State.messageFor (s : State) (mb agent : Nat) (who : Nat × Nat) : Option (BitVec 512 × BitVec 32) :=
  if s.dev.mayReceive agent mb && !((s.tickets mb).any fun x => waitsBefore x who) then (s.dev.mbox mb).ring.head?
  else none

/-- Take a strand's message out of the ring, if there is one for its ticket: the 17 words that its register gets. -/
def State.takeMail (s : State) (uid mb ticket : Nat) : Option (Nat × State) :=
  (s.find uid).bind fun t =>
    (s.messageFor mb t.agent (ticket, 4 * t.core + t.slot)).map fun (msg, sender) =>
      (msg.toNat + 2 ^ 512 * sender.toNat, s.onDev fun d => d.takeMsg mb 0)

def mbrecv (o : Operands) : Run (Option Wait) := do
  checkIll o ((← Run.cur).bindOf o.d.toNat).isNone
  let k ← needCap o (·.rcv)
  touch [o.d.toNat]
  let s ← get
  let ticket := s.dev.nextTicket
  Run.onDev fun d => { d with nextTicket := d.nextTicket + 1 }
  let s ← get
  match s.takeMail s.cur.uid k.mbox ticket with
  | some (x, s') => do
    set s'
    Run.onCur (·.putWords o.d.toNat 17 x)
    return none
  | none => return some (.mbrecv k.mbox o.d.toNat ticket)

def mbpoll (o : Operands) : Run Unit := do
  let k ← needCap o (·.rcv)
  let s ← get
  Run.onCur fun t => t.putS o.d.toNat (BitVec.ofNat 64 (s.dev.mbox k.mbox).ring.length) []

def execMbsend (o : Operands) (s : State) : Out := instr o (mbsend o) s
def execMbrecv (o : Operands) (s : State) : Out := waits o (mbrecv o) s
def execMbpoll (o : Operands) (s : State) : Out := instr o (mbpoll o) s

/-! ### GLAUNCH, GSIG -/

def glaunch (o : Operands) : Run Unit := do
  let k ← needCap o fun k => k.snd && k.l
  let t ← Run.cur
  awaitStore (t.unionOf [.s o.a.toNat, .s o.b.toNat])
  drain
  let t ← Run.cur
  let msg := 1 + 2 ^ 64 * (t.s o.a.toNat).toNat + 2 ^ 128 * (t.s o.b.toNat).toNat
  sendFrom o k.mbox (BitVec.ofNat 512 msg) (t.unionOf [.s o.a.toNat, .s o.b.toNat])

/-- GSIG (R353). -/
def gsig (o : Operands) : Run Unit := do
  let t ← Run.cur
  let a := t.s o.a.toNat
  Run.check (aligned a 64) .align a
  awaitStore (t.taintOf (.s o.a.toNat))
  drain
  let pa ← translateS .store false a
  let s ← get
  Run.check (!s.dev.poisoned pa) .poison a
  let answer := fun (x : Word) => Run.onCur fun t => t.putS o.d.toNat x [.s o.a.toNat]
  match s.dev.queueOfNode t.vf t.agent a.toNat with
  | none => answer 2
  | some q =>
    if (s.dev.readByte (pa + nFlags)).toNat % 2 == 0 then answer 2
    else if (s.dev.readByte (pa + nState)).toNat != stWaiting then answer 1
    else do
      Run.dev (propagate q manyDecrs [(a.toNat, .done)])
      answer 0

def execGlaunch (o : Operands) (s : State) : Out := instr o (glaunch o) s
def execGsig (o : Operands) (s : State) : Out := instr o (gsig o) s

/-! ### The end of a wait (R319) -/

/-- The generation of a strand's barrier (R340), where its record can be read. -/
def State.barGen (s : State) (t : Strand) : Option Nat :=
  match vread t.ctx (t.farm + 0x1C) 4 s.dev with
  | .ok bs _ => some (natLE bs)
  | .error _ _ => none

/-- A wait ends with words in a register of the strand, which is named first (R158, R160): poison in its backing area kills
with REASON 7. -/
def State.waitEndsWith (s : State) (uid vd n words : Nat) (next : Word) : State :=
  match s.nameFor uid [vd] with
  | some s => s.upd uid fun t => (t.putWords vd n words).endWait next
  | none => match s.find uid with
    | some t => s.kill uid 7 t.plainEv
    | none => s

/-- A waiting strand's wait ends, if what it waits for has happened. -/
def State.waitEnd (s : State) (uid : Nat) : State :=
  match s.find uid with
  | none => s
  | some t =>
    match t.status with
    | .waiting w next =>
      match w with
      | .epop port vd =>
        match s.popRecord t port with
        | some (r, s) => s.waitEndsWith uid vd 8 r.toNat next
        | none => s
      | .waitev ev n => if (t.evCtr ev).val.toNat ≥ n then s.upd uid (·.endWait next) else s
      | .fbar gen =>
        match s.barGen t with
        | some g => if g == gen then s else s.upd uid (·.endWait next)
        | none => s
      | .cbar => s.cbarRelease t.group
      | .mbrecv mb vd ticket =>
        match s.takeMail uid mb ticket with
        | some (x, s) => s.waitEndsWith uid vd 17 x next
        | none => s
      | .wfe x => if wfeDone t s.dev.gtime x then s.upd uid (·.endWait next) else s
      | .push port cmd =>
        if s.dev.engineFull port t.core then s else (s.push uid port cmd).upd uid (·.endWait next)
    | _ => s

def execStrandWaitEnd (uid : Nat) (s : State) : Out := .next (s.waitEnd uid)

/-- The device ends a wait of WFE, at any moment (R392). -/
def execWfeWaitEndByDevice (uid : Nat) (s : State) : Out := .next (s.upd uid (·.wake))

end Sys2Proof.Machine
end

