-- ==== Sys2Proof/Machine/Launch.lean ====
section
/-! DEFINITION. Placing strands: the launch of a COMPUTE node, the resumption of saved strands, and the scheduling
decision (R124, R135, R318, R343, R363 to R367, R387, R405). -/

namespace Sys2Proof.Machine

/-! ### Cores -/

/-- Logical cores (R3). -/
abbrev coreCount : Nat := 152

/-- The cores of a queue's mask that take placements (R354, R420). -/
def Device.maskCores (d : Device) (q : Nat) : List Nat :=
  (List.range coreCount).filter fun c => (d.queue q).mask.getLsbD c && !(d.failed.contains c)

def State.onCore (s : State) (core : Nat) : List Strand := s.strands.filter fun t => t.resident && t.core == core

/-- Strands of a node resident on a core. -/
def State.nodeOnCore (s : State) (q : Nat) (n : Word) (core : Nat) : Nat :=
  ((s.onCore core).filter fun t => t.queue == q && t.node == n).length

/-- The lowest free strand slot of a core. -/
def State.freeSlot (s : State) (core : Nat) : Option Nat :=
  (List.range 4).find? fun k => !((s.onCore core).any fun t => t.slot == k)

/-- The lowest place for a window of so many slots on a core (R124). -/
def Device.windowPlace (d : Device) (core slots : Nat) : Option Nat :=
  (List.range 768).find? fun b => decide (b + slots ≤ 768) && (d.scratch.all fun w =>
    w.core != core || !w.live || decide (b + slots ≤ w.base) || decide (w.base + w.slots ≤ b))

def Kern.slots (k : Kern) : Nat := (k.scratch + 3) / 4

/-- KiB of the lane slices that a core has left (R135). -/
def State.sliceLeft (s : State) (core : Nat) : Nat := 16 - ((s.onCore core).map fun t => t.kern.slice).sum

/-- Can a core take k strands of a node (R365)? window: the node's window must find room there. -/
def State.canTake (s : State) (q : Nat) (n : Word) (kern : Kern) (core k : Nat) (window : Bool) : Bool :=
  decide ((s.onCore core).length + k ≤ 4) && decide (s.nodeOnCore q n core + k ≤ kern.strands) &&
  (!window || kern.slots == 0 || (s.dev.windowPlace core kern.slots).isSome) &&
  decide (k * kern.slice ≤ s.sliceLeft core)

/-- Of the cores that can take it, the one with the fewest resident strands, the lowest at a tie (R365). -/
def State.pickCore (s : State) (cores : List Nat) (can : Nat → Bool) : Option Nat :=
  (cores.filter can).foldl (fun best c => match best with
    | none => some c
    | some b => if (s.onCore c).length < (s.onCore b).length then some c else some b) none

/-! ### Grants (R367) -/

/-- The largest power of two of those R367 allows, for the n-th strand of a core. -/
def grant (req n : Nat) : Nat :=
  if 4096 ≤ req ∧ n * 4096 ≤ 4096 then 4096
  else if 2048 ≤ req ∧ n * 2048 ≤ 4096 then 2048
  else if 1024 ≤ req ∧ n * 1024 ≤ 4096 then 1024
  else if 512 ≤ req ∧ n * 512 ≤ 4096 then 512
  else 256

/-! ### A node's launch (R318, R343, R358, R405) -/

/-- What a COMPUTE node launches: its kernel, entry, farm record, arguments, level and count of strands. -/
structure Plan where
  kern : Kern
  entry : Word
  farm : Word
  args : List Word
  level : Nat
  nstr : Nat
deriving DecidableEq, Repr

/-- Read a COMPUTE node's kernel table entry and launch record; none where a read faults or the kernel's code object is
not one of its function's that is loaded and not unloading (R408). -/
def readPlan (q n : Nat) : DevM (Option Plan) := do
  let kent ← DevM.attempt (wget q (n + 0x18) 8)
  let nstr ← DevM.attempt (wget q (n + 0x28) 2)
  let args ← DevM.attempt (wget q (n + 0x20) 8)
  let e ← DevM.attempt (wgetBytes q (kent.getD 0) 64)
  let a ← DevM.attempt (wgetWords q (args.getD 0) 8)
  let d ← get
  match e, a, nstr with
  | some bs, some a, some nstr =>
    let at_ := fun (o n : Nat) => natLE ((bs.drop o).take n)
    match d.loaded.find? fun (l : Loaded) => l.gen == at_ 0x38 8 && l.vf == (d.queue q).vf && !l.unloading with
    | none => return none
    | some l =>
      return some { kern := ⟨max 256 (at_ 0x20 2), at_ 0x22 1, at_ 0x24 2, at_ 0x26 1, at_ 0x38 8⟩,
                    entry := BitVec.ofNat 64 (at_ 0 8), level := l.level, nstr := nstr,
                    farm := if at_ 0x23 1 % 2 == 1 then BitVec.ofNat 64 (at_ 0x28 8) else 0,
                    args := a.map (BitVec.ofNat 64) }
  | _, _, _ => return none

/-- The capability table of an agent (R343). -/
def Device.capTable (d : Device) (vf agent : Nat) : List Word :=
  match d.agentOf agent vf with
  | none => []
  | some a => (List.range 64).map fun c => BitVec.ofNat 64 (d.readLE (a.addr + 0x40 + 8 * c) 8)

/-- The supervisor registers of a new strand of an agent (R89, R343). -/
def Device.agentSups (d : Device) (vf agent : Nat) : Sups :=
  match d.agentOf agent vf with
  | none => { Sups.reset with qdom := BitVec.ofNat 8 agent }
  | some a =>
    let w := fun (o n : Nat) => BitVec.ofNat 64 (d.readLE (a.addr + o) n)
    ((((({ Sups.reset with qdom := BitVec.ofNat 8 agent }).put 0x831 (w 2 2)).put 0x830 (w 8 8)).put 0x801
      (w 0x10 8)).put 0x802 (w 0x18 8))

/-- Room in the queue's pool for a strand's areas (R385). -/
def State.poolRoom (s : State) (q : Nat) (kern : Kern) : Option Nat :=
  let qu := s.dev.queue q
  poolPlace qu.poolBase qu.poolSize kern.poolNeed (s.strands.filterMap fun t =>
    if (t.live || t.dying.isSome) && t.queue == q then t.ctxArea.map fun a => (a, t.kern.poolNeed) else none)

/-- The physical address of the backing area that follows a context area, through stage 2; its pages lie one after another
(log entry 89). None where the area cannot be reached. -/
def backingOf (vf : Nat) (kern : Kern) (area : Nat) : DevM (Option Nat) := do
  let pa ← DevM.attempt (guestPhys vf ⟨.tfStore, 1, 0⟩ (area + kern.areaSize) true true false true)
  let d ← get
  return pa.filter fun a => d.backed a && d.backed (a + 256 * kern.gvl - 1)

/-- The areas of a new strand, its backing area zeroed as its registers are (R157, R318, log entry 89). -/
def State.newAreas (s : State) (q : Nat) (kern : Kern) : Option (Nat × Nat) × State :=
  match s.poolRoom q kern with
  | none => (none, s)
  | some area =>
    match s.devRun (backingOf (s.dev.queue q).vf kern area) with
    | (some (some pa), s) => (some (area, pa), s.onDev (·.clearRange pa (256 * kern.gvl)))
    | (_, s) => (none, s)

/-- A strand as it starts (R318). -/
def Strand.launched (uid q : Nat) (n : Word) (p : Plan) (qu : Queue) (core slot group gvl : Nat) (sup : Sups)
    (caps : List Word) (areas : Option (Nat × Nat)) : Strand :=
  let t := { Strand.reset with
    uid := uid, queue := q, agent := qu.agent, vf := qu.vf, core := core, slot := slot, node := n, kern := p.kern,
    status := .running, pc := p.entry, sup := sup, farm := p.farm, group := group, caps := caps,
    ctxArea := areas.map (·.1), backing := (areas.map (·.2)).getD 0,
    csr := { Csrs.reset with gvl := BitVec.ofNat 13 gvl, level := BitVec.ofNat 2 p.level } }
  (p.args.zip (List.range 8)).foldl (fun t (x, k) => t.setS (k + 1) x) t

/-- The group of a node's strands on a core, and the device with its window if this is the first there (R124, R125,
R341). -/
def State.groupOn (s : State) (q : Nat) (n : Word) (kern : Kern) (core : Nat) : Nat × Device :=
  match s.strands.find? fun t => t.live && t.queue == q && t.node == n && t.core == core with
  | some t => (t.group, s.dev)
  | none =>
    let g := s.dev.nextGroup
    let d := { s.dev with nextGroup := g + 1 }
    if kern.slots == 0 then (g, d)
    else (g, { d with scratch := d.scratch ++ [⟨g, core, (d.windowPlace core kern.slots).getD 0, kern.slots, [], [], [],
        [], true, 0⟩] })

/-- One strand of a node placed on the core that R365 picks, if one can take it. -/
def State.placeNew (s : State) (q : Nat) (n : Word) (p : Plan) (cores : List Nat) : Option State :=
  let first := fun (c : Nat) => !(s.strands.any fun t => t.live && t.queue == q && t.node == n && t.core == c)
  match s.pickCore cores fun c => s.canTake q n p.kern c 1 (first c) with
  | none => none
  | some core =>
    (s.freeSlot core).map fun slot =>
      let (areas, s) := s.newAreas q p.kern
      let (g, d) := s.groupOn q n p.kern core
      let qu := d.queue q
      let t := Strand.launched d.nextUid q n p qu core slot g (grant p.kern.gvl ((s.onCore core).length + 1))
        (d.agentSups qu.vf qu.agent) (d.capTable qu.vf qu.agent) areas
      let d := (d.updRun q n.toNat fun r => { r with strands := r.strands ++ [t.uid] })
      { s with others := s.others ++ [t], dev := { d with nextUid := d.nextUid + 1 } }

/-- So many strands one by one, all or none (R365). -/
def State.placeAll (q : Nat) (n : Word) (p : Plan) (cores : List Nat) : Nat → State → Option State
  | 0, s => some s
  | k + 1, s => (s.placeNew q n p cores).bind (State.placeAll q n p cores k)

/-- Would the node fit on its mask with every core empty (R365)? -/
def State.placeable (s : State) (q : Nat) (n : Word) (p : Plan) : Bool :=
  let bare : State := { s with cur := .reset, others := [], dev := { s.dev with scratch := [] } }
  (State.placeAll q n p (s.dev.maskCores q) p.nstr bare).isSome

/-- A ready COMPUTE node is offered; one that could never be placed fails at once (R359, R365). -/
def State.offerNode (s : State) (q n : Nat) : State :=
  if !(s.dev.isReady q n) then s
  else match s.devRun (do
      let k ← DevM.attempt (wget q (n + nKind) 1)
      if k == some 1 then readPlan q n else pure none) with
    | (some (some p), s) =>
      if s.placeable q (addr64 n) p then s.onDev fun d => d.updRun q n fun r => { r with offered := true }
      else (s.devRun (failNode q n false)).2
    | (_, s) =>
      match (wget q (n + nKind) 1) s.dev with
      | .ok 1 _ => (s.devRun (failNode q n false)).2
      | _ => s

def execComputeNode (queue node : Nat) (s : State) : Out := .next (s.offerNode queue node)

/-- The record of a farm kernel before the node's first strand starts (R337). -/
def farmStart (q : Nat) (p : Plan) : DevM Unit :=
  if p.farm == 0 then pure ()
  else do
    wput q p.farm.toNat 8 0
    wput q (p.farm.toNat + 0x18) 4 0
    wput q (p.farm.toNat + 0x14) 4 p.nstr

/-- Launch an offered node on cores, if all its strands fit: the new state, or none. -/
def State.launchNode (s : State) (q n : Nat) (cores : List Nat) : Option State :=
  match s.devRun (readPlan q n) with
  | (some (some p), s) =>
    match State.placeAll q (addr64 n) p cores p.nstr s with
    | none => none
    | some s' =>
      match s.devRun (farmStart q p) with
      | (none, s) => some (s.devRun (failNode q n false)).2
      | (some _, _) => some (s'.devRun (do
          farmStart q p
          startNode q n
          let d ← get
          let _ ← DevM.attempt (wput q (n + nRuns) 4 ((d.queue q).run n).runs)
          pure ())).2
  | (_, s) => some (s.devRun (failNode q n false)).2

/-! ### Resumption (R366, R387) -/

/-- Is a saved strand ready to be placed again: pre-empted, or parked with every request answered (R87, R363)? -/
def Strand.offerable (t : Strand) : Bool :=
  t.leaving.isNone && match t.status with
    | .preempted _ => true
    | .parked => t.pageTags.isEmpty
    | _ => false

/-- The status of a restored strand. A wait goes on; MBRECV waits afresh (R351); a push to a full engine has not begun and
is executed again (R144). -/
def Status.resumed (st : Status) (ticket : Nat) : Status :=
  match st with
  | .preempted (some (.mbrecv mb vd _, next)) => .waiting (.mbrecv mb vd ticket) next
  | .preempted (some (.push _ _, _)) => .running
  | .preempted (some (w, next)) => .waiting w next
  | _ => .running

/-- The group of a strand that is placed again on a core, and the device. A group with a window stays together (R366); of
a node without one, the strands on one core are a group (R341). -/
def State.groupAgain (s : State) (t : Strand) (core : Nat) : Nat × Device :=
  let mate := fun (o : Strand) => o.live && o.uid != t.uid && o.queue == t.queue && o.node == t.node
  if (s.dev.window t.group).isSome then (t.group, s.dev)
  else match s.strands.find? fun o => mate o && o.resident && o.core == core with
    | some o => (o.group, s.dev)
    | none =>
      if t.core != core && s.strands.any fun o => mate o && o.group == t.group then
        (s.dev.nextGroup, { s.dev with nextGroup := s.dev.nextGroup + 1 })
      else (t.group, s.dev)

/-- After an overrun the strands are offered again with a fresh count (R369). -/
def Device.freshCount (d : Device) (q n : Nat) : Device :=
  if ((d.queue q).run n).overran then d.updRun q n fun r => { r with overran := false, ran := 0 } else d

/-- Restore a strand onto a core; a context that cannot be read kills it with REASON 7. -/
def State.restoreOn (s : State) (uid core : Nat) : State :=
  match (s.find uid).filter (·.offerable) with
  | none => s
  | some t =>
    let slot := (s.freeSlot core).getD 0
    let gvl := grant t.kern.gvl ((s.onCore core).length + 1)
    match s.devRun (restoreBytes t (t.ctxArea.getD 0) gvl) with
    | (none, s) => s.kill uid 7 t.plainEv
    | (some t', s) =>
      let (g, d) := s.groupAgain t core
      let s := ({ s with dev := d.freshCount t.queue t.node.toNat } : State).upd uid fun _ =>
        { t' with core := core, slot := slot, group := g, status := t.status.resumed d.nextTicket,
                  caps := d.capTable t.vf t.agent }
      if g == t.group then s else s.cbarRelease t.group

/-- Give a saved window a place on a core, with the bytes and tags that its saver's context area holds (R150, R366); one
that cannot be read kills with REASON 7 (R384). -/
def State.rehome (s : State) (g core : Nat) : State :=
  match s.dev.window g with
  | none => s
  | some w =>
    match s.find w.saver with
    | none => s
    | some t =>
      match s.devRun (restoreScr t (t.ctxArea.getD 0) w) with
      | (none, s) => s.kill t.uid 7 t.plainEv
      | (some w, s) => s.onDev fun d =>
          d.setWindow { w with core := core, base := (d.windowPlace core w.slots).getD 0, live := true, saver := 0 }

/-- Place a saved strand again (R366): alone; on the core that holds its group's window; or, where the window is saved,
with every strand of its group that is ready. -/
def State.placeAgain (s : State) (t : Strand) (cores : List Nat) : Option State :=
  match s.dev.window t.group with
  | none =>
    (s.pickCore cores fun c => s.canTake t.queue t.node t.kern c 1 false).map fun c => s.restoreOn t.uid c
  | some w =>
    if w.live then
      if s.canTake t.queue t.node t.kern w.core 1 false && cores.contains w.core then some (s.restoreOn t.uid w.core)
      else none
    else
      let us := (s.strands.filter fun o => o.group == t.group && o.offerable).map (·.uid)
      (s.pickCore cores fun c => s.canTake t.queue t.node t.kern c us.length true).map fun c =>
        us.foldl (fun s u => s.restoreOn u c) (s.rehome t.group c)

/-! ### The scheduling decision (R363, R364) -/

/-- A candidate: a saved strand or a ready node, and when it was offered. -/
inductive Cand where
  | strand (uid offered : Nat)
  | node (n offered : Nat)
deriving DecidableEq, Repr

def Cand.since : Cand → Nat
  | .strand _ t => t
  | .node _ t => t

/-- The earliest of a list. -/
def earliest (l : List Cand) : Option Cand :=
  l.foldl (fun best c => match best with
    | none => some c
    | some b => if c.since < b.since then some c else some b) none

/-- A queue's candidate (R363): none while it is paused. -/
def State.candidate (s : State) (q : Nat) : Option Cand :=
  let qu := s.dev.queue q
  if qu.pause then none
  else match earliest ((s.strands.filter fun t => t.queue == q && t.offerable).map fun t => .strand t.uid t.offered) with
    | some c => some c
    | none => if qu.active then
        earliest ((qu.runs.filter fun r => r.offered && !r.launched).map fun r => .node r.node r.readyAt) else none

/-- What identifies a candidate: its kind and number. -/
def Cand.key : Cand → Nat × Nat
  | .strand uid _ => (0, uid)
  | .node n _ => (1, n)

/-- Since when a queue's candidate is offered without being launched (R364). -/
def State.offeredSince (s : State) (q : Nat) (c : Cand) : Nat :=
  match (s.dev.queue q).offer with
  | some (k, n, since) => if (k, n) == c.key then since else s.dev.gtime.toNat
  | none => s.dev.gtime.toNat

/-- PRIO + min(2, ⌊w / 1 ms⌋) (R364). -/
def State.effPrio (s : State) (q : Nat) (c : Cand) : Nat :=
  (s.dev.queue q).prio + min 2 ((s.dev.gtime.toNat - s.offeredSince q c) / 1000000)

/-- A queue offers its candidate, from now or since it began to; one that has waited 10 ms reserves the cores of its mask
(R364). -/
def State.offerQueue (s : State) (q : Nat) : State :=
  match s.candidate q with
  | none =>
    if (s.dev.queue q).offer.isNone && !(s.dev.queue q).reserved then s
    else s.onDev fun d => d.updQueue q fun qu => { qu with offer := none, reserved := false }
  | some c =>
    let since := s.offeredSince q c
    s.onDev fun d => d.updQueue q fun qu => { qu with
      offer := some (c.key.1, c.key.2, since)
      reserved := decide (s.dev.gtime.toNat - since ≥ 10000000) }

/-- Every ready COMPUTE node is offered, or fails where it could never be placed (R365); then every queue offers its
candidate. -/
def State.offerAll (s : State) : State :=
  let ready := s.dev.queues.flatMap fun (q, qu) =>
    (qu.runs.filter fun r => !r.offered && !r.launched && r.got == []).map fun r => (q, r.node)
  (List.range 64).foldl (fun s q => s.offerQueue q) (ready.foldl (fun s e => s.offerNode e.1 e.2) s)

/-- Launch a queue's candidate on cores, if it can be placed. -/
def State.launch (s : State) (q : Nat) (c : Cand) (cores : List Nat) : Option State :=
  match c with
  | .node n _ => s.launchNode q n cores
  | .strand uid _ => (s.find uid).bind fun t => s.placeAgain t cores

/-- Candidates with their queues and effective priorities. -/
def State.candidates (s : State) : List (Nat × Cand × Nat) :=
  (List.range 64).filterMap fun q => (s.candidate q).map fun c => (q, c, s.effPrio q c)

/-- The cores a candidate may use: its mask but for cores reserved by a candidate of higher priority (R364). -/
def State.openCores (s : State) (l : List (Nat × Cand × Nat)) (q p : Nat) : List Nat :=
  (s.dev.maskCores q).filter fun c => !(l.any fun (q', _, p') =>
    q' != q && decide (p < p') && (s.dev.queue q').reserved && (s.dev.queue q').mask.getLsbD c)

/-- Queue numbers of one priority in turn: ascending, after the one that last launched at it (R364). -/
def State.inTurn (s : State) (l : List (Nat × Cand × Nat)) (p : Nat) : List (Nat × Cand × Nat) :=
  let last := (s.dev.rr.find? (·.1 == p)).map (·.2)
  let l := l.filter fun e => e.2.2 == p
  match last with
  | none => l
  | some k => (l.filter fun e => decide (k < e.1)) ++ l.filter fun e => decide (e.1 ≤ k)

/-- The first of a list that can be placed is launched. -/
def State.tryAll (s : State) (all : List (Nat × Cand × Nat)) : List (Nat × Cand × Nat) → Option State
  | [] => none
  | (q, c, p) :: rest =>
    match s.launch q c (s.openCores all q p) with
    | some s' => some (s'.onDev fun d =>
        { d.updQueue q fun qu => { qu with reserved := false, offer := none } with rr := (p, q) :: d.rr.filter fun e => e.1 != p })
    | none => s.tryAll all rest

/-- One decision (R363, R364): priorities 9 down to 0. -/
def State.decide1 (s : State) : Option State :=
  let l := s.candidates
  s.tryAll l ((List.range 10).reverse.flatMap (s.inTurn l))

/-- A burst of decisions ends when no candidate can be placed (R363). Each launch uses up a core slot; a node that fails
instead may make others ready, which calls for another decision. -/
def State.decisions : Nat → State → State
  | 0, s => s
  | k + 1, s =>
    let s := (s.onDev fun d => { d with due := false }).offerAll
    match s.decide1 with
    | some s' => State.decisions k s'
    | none => if s.dev.due then State.decisions k s else s

/-- Core slots of the device: more launches than that no burst can make. -/
abbrev maxBurst : Nat := 4 * coreCount

/-- A burst of decisions at one moment. Receivers that begin to wait in it share a ticket (R347). -/
def State.burst (s : State) : State :=
  (State.decisions maxBurst s).onDev fun d => { d with nextTicket := d.nextTicket + 1 }

/-- Take the decisions that are due (R363). -/
def State.decideDue (s : State) : State := if s.dev.due then s.burst else s

def execSchedulingDecision (s : State) : Out := .next s.burst

/-- A candidate that has waited 10 ms reserves the cores of its mask (R364). -/
def execCandidateReservation (queue : Nat) (s : State) : Out := .next (s.offerQueue queue)

/-! ### Resuming a halted strand, pre-empting (R378, R379, R388) -/

/-- Set or clear HALTED in a saved strand's context area. -/
def State.markHalted (s : State) (t : Strand) (on : Bool) : State :=
  match t.ctxArea with
  | none => s
  | some a => (s.devRun (do
      let bs ← gpread t.vf (a + 0x10) 8
      let x := natLE bs
      gpwrite t.vf (a + 0x10) (bytesLE 8 (if on then x ||| 16 else if x.testBit 4 then x - 16 else x)))).2

/-- A halted strand is offered again, and HALTED is cleared (R388); stepping: it halts after one instruction (R400). One
that still waits to be saved is saved as pre-empted. -/
def State.unhalt (s : State) (uid : Nat) (stepping : Bool) : State :=
  match s.find uid with
  | none => s
  | some t =>
    match t.status with
    | .halted w =>
      let s := if t.leaving.isNone then s.markHalted t false else s
      s.upd uid fun t => { t with status := .preempted w, offered := s.dev.gtime.toNat, step1 := stepping,
                                  leaving := t.leaving.map fun _ => (false, false) }
    | _ => s

/-- RESUME: HALTED is cleared and the strand is placed again, by a decision. -/
def execResumeStrand (uid : Nat) (s : State) : Out := .next (s.unhalt uid false).burst

/-- A request becomes pending (R378): now, or after so many of the strand's boundaries; one that is pending stays so, and the
nearer is taken. A waiting strand's wait is a boundary; the wait of WFE ends (R392). A strand that is off its core takes it
when it issues again. -/
def Strand.requestPreempt (t : Strand) (boundary : Nat) : Strand :=
  match t.status with
  | .absent | .exited | .killed => t
  | .waiting _ _ => ({ t with preempt := some 0 }).wake
  | _ => { t with preempt := some (min boundary (t.preempt.getD boundary)) }

def execPreemptionRequest (uid boundary : Nat) (s : State) : Out := .next (s.upd uid (·.requestPreempt boundary))

/-- A pending request is taken, where it may be: between instructions, or at a wait (R378, R379). -/
def State.preemptTake (s : State) (uid : Nat) : State :=
  match s.find uid with
  | some t => if t.resident && t.preemptNow then s.takePreempt uid else s
  | none => s

def execPreemptionTake (uid : Nat) (s : State) : Out := .next (s.preemptTake uid)

/-- A context kill that the device itself begins (R380): a parity failure, a swap that meets poison, or device
recovery. The other reasons arise in the instructions and events that name them. -/
def State.deviceKill (s : State) (uid reason : Nat) : State :=
  match s.find uid with
  | some t => if 6 ≤ reason ∧ reason ≤ 8 then s.kill uid reason t.plainEv else s
  | none => s

def execContextKill (uid reason : Nat) (s : State) : Out := .next (s.deviceKill uid reason)

end Sys2Proof.Machine
end

