-- ==== Sys2Proof/Machine/Host.lean ====
section
/-! DEFINITION. The host port: control page registers, messages, page request replies, the BAR2 aperture, and SPDM (R395
to R398, R402, R410, R411). -/

namespace Sys2Proof.Machine

/-- Functions of the device: the physical one and 63 virtual ones (R395). -/
abbrev functionCount : Nat := 64

/-- An event of a function of the device that the host port carries, while its link is up (R409). -/
def State.fromHost (s : State) (vf : Nat) (f : State → State) : State :=
  if s.dev.hostUp && decide (vf < functionCount) then f s else s

/-! ### Registers (R397) -/

/-- Word k of ADMBUF. -/
def FuncPage.adm (p : FuncPage) (k : Nat) : Word := Tab.get 0 p.admbuf k

/-- OP codes of R400 that exist. -/
def admOps : List Nat := [1, 2, 3, 4, 5, 6, 7, 8, 9, 0x10, 0x11, 0x12, 0x13, 0x14]

/-- A command ends with a status; MSI-X vector 0 signals it (R397, R401). -/
def Device.admEnd (d : Device) (vf status : Nat) : Device :=
  { d.setFpage vf { d.fpage vf with admbusy := false, admstat := status } with msix := d.msix ++ [(vf, 0)] }

/-- ADMGO: the command in ADMBUF starts, unless one runs; an OP that does not exist is BADARG (R401). -/
def Device.admGo (d : Device) (vf : Nat) : Device :=
  let p := d.fpage vf
  if p.admbusy then d
  else if admOps.contains ((p.adm 0).toNat % 256) && (p.adm 0).toNat / 256 == 0 then d.setFpage vf { p with admbusy := true }
  else d.admEnd vf 0x42

/-- A write of a register with no row of its own: MSGBUF, ADMBUF, ADMGO, PRQBASE, APBASE. Others are read-only or
reserved, and nothing changes. -/
def Device.regWrite (d : Device) (vf off : Nat) (x : Word) : Device :=
  let p := d.fpage vf
  if off % 8 != 0 then d
  else if off < 0x40 then d.setFpage vf { p with msgbuf := Tab.set 0 p.msgbuf (off / 8) x }
  else if 0x80 ≤ off ∧ off < 0xC0 then d.setFpage vf { p with admbuf := Tab.set 0 p.admbuf ((off - 0x80) / 8) x }
  else if off == 0xC0 then d.admGo vf
  else if off == 0x100 then d.setFpage vf { p with prqbase := x &&& 0xFFFFFFFFFFFFF000 }
  else if off == 0x120 then d.setFpage vf { p with apbase := x &&& 0xFFFFFFF000000000 }
  else d

def execRegisterWrite (vf offset : Nat) (value : BitVec 64) (s : State) : Out :=
  .next (s.fromHost vf (·.onDev fun d => d.regWrite vf offset value))

/-! ### MSGSEND (R398) -/

/-- May a function send to a mailbox? -/
def Device.hostMaySend (d : Device) (vf mb : Nat) : Bool :=
  ownerOf d.mOwner mb == vf || (match (d.mbox mb).owner with
    | .control q => ownerOf d.qOwner q == vf
    | _ => false)

/-- The message in MSGBUF. -/
def FuncPage.message (p : FuncPage) : BitVec 512 :=
  BitVec.ofNat 512 ((List.range 8).foldr (fun k acc => (Tab.get 0 p.msgbuf k : Word).toNat + 2 ^ 64 * acc) 0)

def State.hostSend (s : State) (vf : Nat) (value : Word) : State :=
  let mb := value.toNat % 4096
  let p := s.dev.fpage vf
  if s.dev.hostMaySend vf mb then
    let (r, s) := s.send mb p.message (senderWord false true vf 0)
    s.onDev fun d => d.setFpage vf { d.fpage vf with msgstat := r }
  else s.onDev fun d => d.setFpage vf { p with msgstat := 2 }

def execMsgsend (vf : Nat) (value : BitVec 64) (s : State) : Out := .next (s.fromHost vf (·.hostSend vf value))

/-! ### Page requests (R88, R402) -/

def execPrqhead (vf : Nat) (value : BitVec 64) (s : State) : Out :=
  .next (s.fromHost vf (·.onDev fun d => (d.setFpage vf { d.fpage vf with prqhead := value }).flushPrq vf d.prqs.length))

/-- The cause of a kill for a failed request, by its KIND (R382). -/
def kindCause (kind : Nat) : Cause := if kind == 1 then .tfStore else if kind == 2 then .tfExec else .tfLoad

/-- A strand hears that a request of its own is answered with success; with its last one it is offerable (R87, R363). -/
def Strand.answered (t : Strand) (tag now : Nat) : Strand :=
  if t.pageTags.contains tag then
    let tags := t.pageTags.filter fun k => k != tag
    { t with pageTags := tags, offered := if tags.isEmpty && t.status == .parked then now else t.offered }
  else t

/-- A reply (R88, R402): one of a tag that is not outstanding changes nothing. A failure kills the strand with REASON 2: the
event names the instruction that met the miss, with its element k (R382). -/
def State.prqReply (s : State) (vf : Nat) (value : Word) : State :=
  let tag := value.toNat % 65536
  match s.dev.prqs.find? fun (r : PageReq) => r.vf == vf && r.tag == tag && r.written with
  | none => s
  | some r =>
    let s := s.onDev fun d => { d with prqs := d.prqs.filter fun (x : PageReq) => !(x.vf == vf && x.tag == tag) }
    if value.getLsbD 16 then
      match s.find r.uid with
      | some t =>
        let (pc, vst) := r.at_.getD (t.pc, t.csr.vstart.toNat)
        s.kill r.uid 2 ⟨causeCode (kindCause r.kind), pc, r.va, vst, 0⟩
      | none => s
    else (s.onDev (·.nowDue)).mapStrands fun t => if t.uid == r.uid && t.vf == vf then t.answered tag s.dev.gtime.toNat else t

def execPrqreply (vf : Nat) (value : BitVec 64) (s : State) : Out := .next (s.fromHost vf (·.prqReply vf value))

/-! ### BAR2 (R396) -/

/-- Bytes of the aperture. -/
abbrev apertureSize : Nat := 2 ^ 36

/-- A host access through the aperture: an address of the function from APBASE on. A read answers its bytes; one that
cannot be translated, or does not exist, changes nothing and answers no bytes. -/
def Device.aperture (d : Device) (vf off : Nat) (write : Option (List Byte)) (n : Nat) : Device :=
  let a := (d.fpage vf).apbase.toNat + off
  let len := match write with
    | some bs => bs.length
    | none => n
  if off + len > apertureSize then d
  else match write with
    | some bs => ((gpwrite vf a bs).on d).2
    | none =>
      let (r, d) := (gpread vf a n).on d
      { d with bar2 := d.bar2 ++ [(vf, r.getD [])] }

def execBar2Access (vf offset : Nat) (write : Option (List (BitVec 8))) (bytes : Nat) (s : State) : Out :=
  .next (s.fromHost vf (·.onDev fun d => d.aperture vf offset write bytes))

/-! ### SPDM (R410, R411) -/

/-- Measurement 4: a digest of the eight KEYSET slots and their masks, in the order of slots (log entry 12). -/
def Device.keyMeasurement (d : Device) : List Byte :=
  sha256 ((List.range 8).flatMap fun k => match d.keys.find? fun e => e.1 == k with
    | some (_, h, m) => bytesLE 32 h.toNat ++ bytesLE 8 m.toNat
    | none => bytesLE 40 0)

/-- The fused configuration: rollback count, enabled-core map, link lane map (R411, log entry 12). -/
def fusedConfig : List Byte := bytesLE 8 Config.rollback ++ Config.enabledCores ++ Config.laneMap

/-- The four measurements of R411: the boot ROM, the firmware image that runs, the fused configuration, the key slots. -/
def Device.measurements (d : Device) : List Byte :=
  sha256 Config.bootRom ++ sha256 (Config.firmware d.resets) ++ sha256 fusedConfig ++ d.keyMeasurement

/-- What the device tells of itself (R411): SPDM version 1.2; certificates, challenges and signed measurements, and no
session key exchange; ECDSA P-256 and SHA-256 alone, as DMTF numbers them. -/
def spdmVersion : List Byte := [0x12]
def spdmCapabilities : List Byte := [1, 1, 1, 0]
def spdmAlgorithms : List Byte := [0x10, 0x01]

/-- The device answers a request: what it tells, in the frame that DMTF SPDM 1.2 gives the answer (log entry 12). -/
def Device.spdmReply (d : Device) (code : Nat) (request facts : List Byte) : Device :=
  if d.hostUp then
    { d with spdm := (Config.spdmFrame code request).1 ++ facts ++ (Config.spdmFrame code request).2 }
  else d

def execGetVersion (request : List (BitVec 8)) (s : State) : Out :=
  .next (s.onDev fun d => d.spdmReply 0x84 request spdmVersion)
def execGetCapabilities (request : List (BitVec 8)) (s : State) : Out :=
  .next (s.onDev fun d => d.spdmReply 0xE1 request spdmCapabilities)
def execNegotiateAlgorithms (request : List (BitVec 8)) (s : State) : Out :=
  .next (s.onDev fun d => d.spdmReply 0xE3 request spdmAlgorithms)
def execGetDigests (request : List (BitVec 8)) (s : State) : Out :=
  .next (s.onDev fun d => d.spdmReply 0x81 request (sha256 Config.certChain))
def execGetCertificate (request : List (BitVec 8)) (s : State) : Out :=
  .next (s.onDev fun d => d.spdmReply 0x82 request Config.certChain)
/-- A challenge is answered with a signature over the request and the measurements. -/
def execChallenge (request : List (BitVec 8)) (s : State) : Out :=
  .next (s.onDev fun d => d.spdmReply 0x83 request
    (d.measurements ++ bytesLE 64 (Config.deviceSign (request ++ d.measurements)).toNat))
def execGetMeasurements (request : List (BitVec 8)) (s : State) : Out :=
  .next (s.onDev fun d => d.spdmReply 0xE0 request
    (d.measurements ++ bytesLE 64 (Config.deviceSign (request ++ d.measurements)).toNat))

end Sys2Proof.Machine
end

