-- ==== Sys2Proof/Machine/Admin.lean ====
section
/-! DEFINITION. The admin commands of the host port (R399 to R401): agents, queues, mailboxes, context pools, debugging,
ownership, stage-2 roots, far windows and keys. A command runs once ADMGO has started it. -/

namespace Sys2Proof.Machine

/-! ### Running a command -/

abbrev admOk : Nat := 0x00
abbrev admNoPerm : Nat := 0x40
abbrev admInUse : Nat := 0x41
abbrev admBadArg : Nat := 0x42

/-- Run a function's started command of an OP: its work answers a status and the state (R401). -/
def State.admin (s : State) (vf op : Nat) (work : (Nat → Nat) → State → Nat × State) : State :=
  s.fromHost vf fun s =>
    let p := s.dev.fpage vf
    if p.admbusy && (p.adm 0).toNat == op then
      let (st, s) := work (fun k => (p.adm k).toNat) s
      s.onDev fun d => d.admEnd vf st
    else s

/-- A command of the physical function alone. -/
def pfOnly (vf : Nat) (work : (Nat → Nat) → State → Nat × State) : (Nat → Nat) → State → Nat × State :=
  fun w s => if vf == 0 then work w s else (admNoPerm, s)

/-- Status, with the device changed where it is OK. -/
def answer (st : Nat) (f : Device → Device) (s : State) : Nat × State := (st, if st == admOk then s.onDev f else s)

/-! ### What is in use -/

def State.agentInUse (s : State) (a : Nat) : Bool :=
  (s.dev.queues.any fun (_, qu) => qu.agent == a && qu.active) || s.strands.any fun t => t.live && t.agent == a

def State.queueInUse (s : State) (q : Nat) : Bool :=
  (s.dev.queue q).active || s.strands.any fun t => t.live && t.queue == q

/-! ### Agents -/

/-- The physical address of a record that a function names. -/
def physOf (vf gpa : Nat) (d : Device) : Option Nat :=
  match guestPhys vf ⟨.tfLoad, 0, 0⟩ gpa true true false true d with
  | .ok pa d => if d.backed pa then some pa else none
  | .error _ _ => none

def agentCreate (vf : Nat) (w : Nat → Nat) (s : State) : Nat × State :=
  let a := w 1
  if a ≥ 256 || w 2 % 64 != 0 then (admBadArg, s)
  else if ownerOf s.dev.aOwner a != vf then (admNoPerm, s)
  else if s.agentInUse a then (admInUse, s)
  else match physOf vf (w 2) s.dev with
    | none => (admBadArg, s)
    | some pa => answer admOk (fun d => { d with agents := d.agents.filter (fun e => e.1 != a) ++ [(a, ⟨vf, pa⟩)] }) s

def agentDestroy (vf : Nat) (w : Nat → Nat) (s : State) : Nat × State :=
  let a := w 1
  if a ≥ 256 then (admBadArg, s)
  else if ownerOf s.dev.aOwner a != vf then (admNoPerm, s)
  else if (s.dev.agentOf a vf).isNone then (admBadArg, s)
  else if s.agentInUse a then (admInUse, s)
  else answer admOk (fun d => { d with agents := d.agents.filter fun e => e.1 != a }) s

def execAgentCreate (vf : Nat) (s : State) : Out := .next (s.admin vf 1 (agentCreate vf))
def execAgentDestroy (vf : Nat) (s : State) : Out := .next (s.admin vf 2 (agentDestroy vf))

/-! ### Queues and mailboxes -/

/-- Are the fields of a queue record those of R354? -/
def queueRecordOk (vf : Nat) (bs : List Byte) : Bool :=
  let at_ := fun (o n : Nat) => natLE ((bs.drop o).take n)
  at_ 0 2 == vf && decide (at_ 3 1 < 8) && decide (at_ 4 2 < 4096) && at_ 6 1 / 2 % 8 == 0 && decide (at_ 7 1 < 4) &&
  at_ 0x0C 4 == 0 && at_ 0x10 24 / 2 ^ coreCount == 0 && at_ 0x30 16 == 0

/-- A queue with a new record. An ABORT that is pending stays: the device alone clears the bit (R354). -/
def Queue.ofRecord (qu : Queue) (bs : List Byte) : Queue :=
  let at_ := fun (o n : Nat) => natLE ((bs.drop o).take n)
  { qu with
    vf := at_ 0 2, agent := at_ 2 1, prio := at_ 3 1, cmbox := at_ 4 2, requeueKill := at_ 6 1 % 2 == 1,
    ovrmax := at_ 6 1 / 16, pause := at_ 7 1 % 2 == 1, abort := qu.abort || at_ 7 1 / 2 % 2 == 1, budget := at_ 8 4,
    mask := BitVec.ofNat 192 (at_ 0x10 24), status := at_ 0x28 8 }

def queueSet (vf : Nat) (w : Nat → Nat) (s : State) : Nat × State :=
  let q := w 1
  if q ≥ 64 then (admBadArg, s)
  else if ownerOf s.dev.qOwner q != vf then (admNoPerm, s)
  else match s.devRun (gpread vf (w 2) 64) with
    | (none, s) => (admBadArg, s)
    | (some bs, s) =>
      let agent := (bs.getD 2 0).toNat
      if !(queueRecordOk vf bs) then (admBadArg, s)
      else if ownerOf s.dev.aOwner agent != vf then (admNoPerm, s)
      else if s.queueInUse q && agent != (s.dev.queue q).agent then (admInUse, s)
      else answer admOk (fun d => (d.updQueue q fun qu => qu.ofRecord bs).nowDue) s

def mboxSet (vf : Nat) (w : Nat → Nat) (s : State) : Nat × State :=
  let mb := w 1
  let who := w 2 / 256 % 256
  let control := w 2 % 2 == 1
  if mb ≥ 4096 || w 2 / 2 % 128 != 0 || w 2 / 65536 != 0 || (control && who ≥ 64) then (admBadArg, s)
  else if ownerOf s.dev.mOwner mb != vf ||
      ownerOf (if control then s.dev.qOwner else s.dev.aOwner) who != vf then (admNoPerm, s)
  else answer admOk (fun d => d.setMbox mb ⟨if control then .control who else .agent who, []⟩) s

def ctxpool (vf : Nat) (w : Nat → Nat) (s : State) : Nat × State :=
  let q := w 1
  if q ≥ 64 || w 2 % 4096 != 0 || w 3 % 4096 != 0 then (admBadArg, s)
  else if ownerOf s.dev.qOwner q != vf then (admNoPerm, s)
  else if s.queueInUse q then (admInUse, s)
  else answer admOk (fun d => d.updQueue q fun qu => { qu with poolBase := w 2, poolSize := w 3 }) s

def preemptQueue (vf : Nat) (w : Nat → Nat) (s : State) : Nat × State :=
  let q := w 1
  if q ≥ 64 then (admBadArg, s)
  else if ownerOf s.dev.qOwner q != vf then (admNoPerm, s)
  else (admOk, s.mapStrands fun t => if t.live && t.queue == q then t.requestPreempt 0 else t)

def execQueueSet (vf : Nat) (s : State) : Out := .next (s.admin vf 3 (queueSet vf))
def execMboxSet (vf : Nat) (s : State) : Out := .next (s.admin vf 4 (mboxSet vf))
def execCtxpool (vf : Nat) (s : State) : Out := .next (s.admin vf 5 (ctxpool vf))
def execPreemptQueue (vf : Nat) (s : State) : Out := .next (s.admin vf 6 (preemptQueue vf))

/-! ### DEBUG (R388, R400) -/

/-- The strand of a queue at a core and slot: a resident one, else a saved one. -/
def State.strandAt (s : State) (q core slot : Nat) : Option Strand :=
  let l := s.strands.filter fun t => t.live && t.queue == q && t.core == core && t.slot == slot
  match l.find? (·.resident) with
  | some t => some t
  | none => l.head?

/-- Halt a strand: one on its core is saved; a saved one stays so. A pending pre-emption request stays pending (R378). -/
def State.halt (s : State) (t : Strand) : State :=
  if t.resident then
    let (t', w) := t.keepWait
    (s.upd t.uid fun _ => t').leave t.uid (.halted w) false true
  else (s.upd t.uid fun t => { t with status := .halted t.status.wait }).markHalted t true

/-- Let a strand retire one instruction and halt (R400): a saved one is placed first. -/
def State.stepOnce (s : State) (t : Strand) : State :=
  match t.status with
  | .halted _ => (s.unhalt t.uid true).burst
  | _ => s.upd t.uid fun t => { t with step1 := true }

/-- DEBUG of an action that word 2 names. -/
def debug (vf action : Nat) (f : Nat → State → Nat × State) (w : Nat → Nat) (s : State) : Nat × State :=
  if w 1 ≥ 64 || w 2 != action then (admBadArg, s)
  else if ownerOf s.dev.qOwner (w 1) != vf then (admNoPerm, s)
  else f (w 1) s

/-- DEBUG of the strand that word 3 names. -/
def debugStrand (vf action : Nat) (f : State → Strand → State) (w : Nat → Nat) (s : State) : Nat × State :=
  debug vf action (fun q s =>
    if w 3 / 1024 != 0 then (admBadArg, s)
    else match s.strandAt q (w 3 % 256) (w 3 / 256 % 4) with
      | some t => (admOk, f s t)
      | none => (admBadArg, s)) w s

/-- A DEBUG command whose action is out of range is BADARG; one of another action is that row's. -/
def State.debugAdmin (s : State) (vf action : Nat) (work : (Nat → Nat) → State → Nat × State) : State :=
  let act := ((s.dev.fpage vf).adm 2).toNat
  if act == action || act > 3 then s.admin vf 7 work else s

def execDebugOff (vf : Nat) (s : State) : Out :=
  .next (s.debugAdmin vf 0 (debug vf 0 fun q s => (admOk, s.onDev fun d => d.updQueue q fun qu => { qu with debug := false })))
def execDebugOn (vf : Nat) (s : State) : Out :=
  .next (s.debugAdmin vf 1 (debug vf 1 fun q s => (admOk, s.onDev fun d => d.updQueue q fun qu => { qu with debug := true })))
def execDebugHalt (vf : Nat) (s : State) : Out := .next (s.debugAdmin vf 2 (debugStrand vf 2 State.halt))
def execDebugStep (vf : Nat) (s : State) : Out := .next (s.debugAdmin vf 3 (debugStrand vf 3 State.stepOnce))

/-! ### ASSIGN, S2ROOT, S2INV, FARWIN, KEYSET -/

/-- Objects of a kind. -/
def kindCount (kind : Nat) : Nat := if kind == 0 then 64 else if kind == 1 then 256 else if kind == 2 then 4096 else 16

/-- Move an object to a function: what it held for the old owner goes. -/
def Device.assign (d : Device) (kind vf n : Nat) : Device :=
  match kind with
  | 0 => { d.setQueue n { Queue.reset with vf := vf } with qOwner := Tab.set 0 d.qOwner n vf }
  | 1 => { d with aOwner := Tab.set 0 d.aOwner n vf, agents := d.agents.filter fun e => e.1 != n }
  | 2 => { d.setMbox n .reset with mOwner := Tab.set 0 d.mOwner n vf }
  | _ => { d with fOwner := Tab.set 0 d.fOwner n vf }

def assignObj (w : Nat → Nat) (s : State) : Nat × State :=
  let vf := w 1
  let kind := w 2
  let l := (List.range (w 4)).map (w 3 + ·)
  if vf ≥ functionCount || kind ≥ 4 || w 3 + w 4 > kindCount kind then (admBadArg, s)
  else if (kind == 0 && l.any s.queueInUse) || (kind == 1 && l.any s.agentInUse) then (admInUse, s)
  else answer admOk (fun d => l.foldl (fun d n => d.assign kind vf n) d) s

def s2root (w : Nat → Nat) (s : State) : Nat × State :=
  let vf := w 1
  if vf == 0 || vf ≥ functionCount || w 2 ≥ 2 ^ 40 then (admBadArg, s)
  else answer admOk (fun d => { d with s2roots := (vf, w 2) :: d.s2roots.filter fun e => e.1 != vf }) s

/-- An ASSIGN of objects of a function whose own command runs: that command completes first (R401). -/
def State.assignWaits (s : State) : Bool :=
  let p := s.dev.fpage 0
  let w := fun (k : Nat) => (p.adm k).toNat
  let owners := match w 2 with
    | 0 => s.dev.qOwner
    | 1 => s.dev.aOwner
    | 2 => s.dev.mOwner
    | _ => s.dev.fOwner
  p.admbusy && w 0 == 0x10 && decide (w 2 < 4) && decide (w 3 + w 4 ≤ kindCount (w 2)) &&
    (List.range (w 4)).any fun k => ownerOf owners (w 3 + k) != 0 && (s.dev.fpage (ownerOf owners (w 3 + k))).admbusy

/-- The stage-2 form of R94: every entry of a function whose translation stage 2 took part in goes, after the stores that
used them have performed. -/
def s2inv (w : Nat → Nat) (s : State) : Nat × State :=
  let vf := w 1
  if vf ≥ functionCount then (admBadArg, s)
  else (admOk, s.tlbRemove none vf fun _ => true)

/-- S2INV ends once no command of the function is left that may have begun before (R94, log entry 84). -/
def State.s2invRun (s : State) (vf : Nat) : State :=
  let p := s.dev.fpage 0
  let w := fun (k : Nat) => (p.adm k).toNat
  if vf == 0 && p.admbusy && w 0 == 0x12 && decide (w 1 < functionCount) && s.dev.scopeBusy none (w 1) then
    s.fromHost vf fun s => (s2inv w s).2
  else s.admin vf 0x12 (pfOnly vf s2inv)

/-- A far window (R69) that the physical function owns (R399): base and size are multiples of 1 GiB in the far range; a
size of 0 removes it. -/
def farwin (w : Nat → Nat) (s : State) : Nat × State :=
  let k := w 1
  let b := w 2
  let n := w 3
  if k ≥ 16 || b % 2 ^ 30 != 0 || n % 2 ^ 30 != 0 || (n != 0 && (b < 0x10000000000 || b + n > 0x20000000000)) then
    (admBadArg, s)
  else if ownerOf s.dev.fOwner k != 0 then (admNoPerm, s)
  else answer admOk (fun d => { d with farwins := d.farwins.filter (fun e => e.1 != k) ++ (if n == 0 then [] else [(k, b, n)]) }) s

/-- KEYSET: the hash at an address, or 0 to clear the slot. -/
def keyset (w : Nat → Nat) (s : State) : Nat × State :=
  let k := w 1
  let rest := fun (d : Device) => d.keys.filter fun e => e.1 != k
  if k ≥ 8 then (admBadArg, s)
  else if w 2 == 0 then answer admOk (fun d => { d with keys := rest d }) s
  else match s.devRun (gpread 0 (w 2) 32) with
    | (none, s) => (admBadArg, s)
    | (some bs, s) =>
      answer admOk (fun d => { d with keys := rest d ++ [(k, BitVec.ofNat 256 (natLE bs), BitVec.ofNat 64 (w 3))] }) s

def execAssignObj (vf : Nat) (s : State) : Out :=
  .next (if vf == 0 && s.assignWaits then s else s.admin vf 0x10 (pfOnly vf assignObj))
def execS2root (vf : Nat) (s : State) : Out := .next (s.admin vf 0x11 (pfOnly vf s2root))
def execS2inv (vf : Nat) (s : State) : Out := .next (s.s2invRun vf)
def execFarwin (vf : Nat) (s : State) : Out := .next (s.admin vf 0x13 (pfOnly vf farwin))
def execKeyset (vf : Nat) (s : State) : Out := .next (s.admin vf 0x14 (pfOnly vf keyset))

end Sys2Proof.Machine
end

