-- ==== Sys2Proof/Machine/Flits.lean ====
section
/-! DEFINITION. Flits of the Dennel links (R301 to R308): their bytes and CRC, what a port sends, replays and holds
back, and the end-to-end sequence. -/

namespace Sys2Proof.Machine

/-! ### CRC-32C (R303) -/

/-- One bit of the reflected register; the polynomial 0x1EDC6F41 reflected. -/
def crcBit (x : BitVec 32) : BitVec 32 := if x.getLsbD 0 then (x >>> 1) ^^^ 0x82F63B78 else x >>> 1

def crcBits : Nat → BitVec 32 → BitVec 32
  | 0, x => x
  | n + 1, x => crcBits n (crcBit x)

def crc32c (bs : List Byte) : BitVec 32 :=
  ~~~(bs.foldl (fun x b => crcBits 8 (x ^^^ b.zeroExtend 32)) 0xFFFFFFFF)

/-! ### The flit (R301, R302) -/

abbrev flitBytes : Nat := 256

/-- The header. -/
structure Header where
  kind : Nat
  seq : Nat
  ack : Nat
  av : Bool
  cls : Nat
  dst : Nat
  src : Nat
  len : Nat
deriving DecidableEq, Repr

def Header.bits (h : Header) : Nat :=
  h.len % 256 + 2 ^ 8 * (h.src % 4096) + 2 ^ 20 * (h.dst % 4096) + 2 ^ 32 * (h.cls % 8) + 2 ^ 35 * h.av.toNat +
    2 ^ 36 * (h.ack % 4096) + 2 ^ 48 * (h.seq % 4096) + 2 ^ 60 * (h.kind % 16)

def Header.ofBits (n : Nat) : Header :=
  ⟨n / 2 ^ 60 % 16, n / 2 ^ 48 % 4096, n / 2 ^ 36 % 4096, n / 2 ^ 35 % 2 == 1, n / 2 ^ 32 % 8, n / 2 ^ 20 % 4096,
    n / 2 ^ 8 % 4096, n % 256⟩

def headerOf (f : List Byte) : Header := Header.ofBits (natLE (f.take 8))

/-- Does a flit pass its CRC (R303)? -/
def flitOk (f : List Byte) : Bool :=
  f.length == flitBytes && natLE (f.drop 252) == (crc32c (f.take 252)).toNat

/-- The flit of a header and payload bytes, those not in use 0. -/
def makeFlit (h : Header) (payload : List Byte) : List Byte :=
  let body := bytesLE 8 h.bits ++ payload.take 244 ++ List.replicate (244 - payload.length) 0
  body ++ bytesLE 4 (crc32c body).toNat

/-- The payload of a flit, and the field of n bytes at an offset of the flit. -/
def payloadOf (f : List Byte) : List Byte := (f.drop 8).take 244
def flitField (f : List Byte) (o n : Nat) : Nat := natLE ((f.drop o).take n)

/-- ESEQ of a data flit (R308). -/
def eseqOf (f : List Byte) : Nat := flitField f 8 4

/-- The messages of a data flit: bytes 12 on, as far as LEN says. -/
def messagesOf (f : List Byte) : List Byte := ((payloadOf f).take (headerOf f).len).drop 4

/-- The KINDs. -/
abbrev fkIdle : Nat := 0
abbrev fkData : Nat := 1
abbrev fkAck : Nat := 2
abbrev fkSync : Nat := 3
abbrev fkReplay : Nat := 4
abbrev fkRepair : Nat := 5
abbrev fkConfirm : Nat := 6

/-! ### Ports (R304, R305) -/

def Port.reset : Port :=
  { up := true, lanes := 8, nextSeq := 0, replay := [], expected := 0, asked := false, laneErrs := [],
    repairing := none, draining := false, repairAt := 0, named := false, lastAck := 0, dropped := none, ltx := 0, lrx := 0,
    queue := [], out := [], syncDepth := 0xFFFF, syncRoot := 0 }

/-- Ports of the device. -/
abbrev portCount : Nat := 16

def Device.port (d : Device) (p : Nat) : Port := Tab.get .reset d.ports p
def Device.setPort (d : Device) (p : Nat) (x : Port) : Device := { d with ports := Tab.set .reset d.ports p x }
def Device.updPort (d : Device) (p : Nat) (f : Port → Port) : Device := d.setPort p (f (d.port p))

/-- The last sequence number received in order. -/
def Port.lastIn (p : Port) : Nat := (p.expected + 4095) % 4096

/-- A port sends a flit. -/
def Port.send (p : Port) (f : List Byte) : Port := { p with out := p.out ++ [f] }

/-- A flit of a kind that takes no sequence number, to the other end. ack: with AV = 1. -/
def Device.plainFlit (d : Device) (p kind : Nat) (ack : Bool) (payload : List Byte) : List Byte :=
  makeFlit ⟨kind, 0, if ack then (d.port p).lastIn else 0, ack, 0, (Config.portPeer p).toNat, d.devId, payload.length⟩ payload

def Device.sendPlain (d : Device) (p kind : Nat) (ack : Bool) (payload : List Byte) : Device :=
  d.updPort p fun x => x.send (d.plainFlit p kind ack payload)

/-- A data flit with a sequence number and the port's acknowledgement; all else unchanged (R304, R308). -/
def stamp (f : List Byte) (seq ack : Nat) : List Byte :=
  makeFlit { headerOf f with seq := seq, ack := ack, av := true } (payloadOf f)

/-- Data flits that wait are sent while the replay buffer has room and the port is not under repair. -/
def Port.pump (now : Nat) : Nat → Port → Port
  | 0, p => p
  | n + 1, p =>
    match p.queue with
    | [] => p
    | f :: rest =>
      if p.up && p.repairing.isNone && decide (p.replay.length < 512) then
        let g := stamp f p.nextSeq p.lastIn
        Port.pump now n { p with
          queue := rest, nextSeq := (p.nextSeq + 1) % 4096, replay := p.replay ++ [(p.nextSeq, g)], out := p.out ++ [g],
          lastAck := if p.replay.isEmpty then now else p.lastAck }
      else p

/-- Data flits join a port's queue, and go if they can. -/
def Device.sendData (d : Device) (p : Nat) (fs : List (List Byte)) : Device :=
  d.updPort p fun x => Port.pump d.gtime.toNat (x.queue.length + fs.length) { x with queue := x.queue ++ fs }

/-- Every unacknowledged flit goes again, oldest first. -/
def Port.resend (now : Nat) (p : Port) : Port :=
  { p with out := p.out ++ p.replay.map (fun e => stamp e.2 e.1 p.lastIn), lastAck := now }

/-- The flits that an ACK value leaves unacknowledged: it covers those up to its number, if that is one of them. -/
def afterAck (a : Nat) (l : List (Nat × List Byte)) : List (Nat × List Byte) :=
  if l.any fun e => e.1 == a then (l.dropWhile fun e => e.1 != a).drop 1 else l

/-- Step 2 of a lane repair (R306): the port retrains on 7 lanes and names the dropped lane. -/
def Device.retrain (d : Device) (p lane : Nat) : Device :=
  (d.updPort p fun x => { x with draining := false, lanes := 7, dropped := some lane }).sendPlain p fkRepair false
    [BitVec.ofNat 8 lane]

/-- A port resends every unacknowledged flit; they are counted (R305, R317). -/
def Device.resendPort (d : Device) (p : Nat) : Device :=
  { d.updPort p (·.resend d.gtime.toNat) with replays := countBy d.replays p (d.port p).replay.length }

/-- Step 3 of a lane repair (R306): the sender resends from its oldest unacknowledged flit, and normal sending resumes. -/
def Device.resumePort (d : Device) (p : Nat) : Device :=
  let now := d.gtime.toNat
  (d.resendPort p).updPort p fun x =>
    Port.pump now x.queue.length { x with repairing := none, draining := false, named := false }

/-- Step 1 has ended: the port retrains, and resumes if the other end has named the lane too. -/
def Device.drained (d : Device) (p lane : Nat) : Device :=
  let d := d.retrain p lane
  if (d.port p).named then d.resumePort p else d

/-- An acknowledgement frees the flits it covers; held flits go; a repair whose buffer has drained goes on (R306). -/
def Device.takeAck (d : Device) (p : Nat) (h : Header) : Device :=
  if !h.av then d
  else
    let now := d.gtime.toNat
    let x := d.port p
    let rest := afterAck h.ack x.replay
    let x' := if rest.length < x.replay.length then { x with replay := rest, lastAck := now } else x
    let d := d.setPort p (Port.pump now x'.queue.length x')
    match x'.repairing with
    | some lane => if x'.draining && rest.isEmpty then d.drained p lane else d
    | none => d

/-! ### End to end (R308) -/

def Ese.reset (dev : Nat) : Ese := ⟨dev, 0, 0, [], 0, [], 0, none⟩
def Device.ese (d : Device) (dev : Nat) : Ese := (d.eses.find? fun (e : Ese) => e.dev == dev).getD (.reset dev)
def Device.setEse (d : Device) (e : Ese) : Device :=
  { d with eses := if d.eses.any fun (x : Ese) => x.dev == e.dev then
      d.eses.map fun (x : Ese) => if x.dev == e.dev then e else x else d.eses ++ [e] }

/-- The port that reaches a device, if one does. -/
def Device.routeTo (d : Device) (dev : Nat) : Option Nat := (d.routes.find? fun e => e.1 == dev).map (·.2)

abbrev eseqCount : Nat := 2 ^ 32

/-- Flits to a device: each takes the next ESEQ, while no more than 512 lie beyond the last confirmed one. -/
def Device.release (d : Device) (dst : Nat) : Nat → Device
  | 0 => d
  | n + 1 =>
    let e := d.ese dst
    match e.waiting, d.routeTo dst with
    | (cls, payload) :: rest, some p =>
      if (e.next + eseqCount - e.confirmed) % eseqCount < 512 then
        let body := bytesLE 4 e.next ++ payload.take 240
        let f := makeFlit ⟨fkData, 0, 0, false, cls, dst, d.devId, body.length⟩ body
        ((d.setEse { e with next := (e.next + 1) % eseqCount, waiting := rest }).sendData p [f]).release dst n
      else d
    | _, _ => d

/-- This device originates a data flit; one for a device that no route reaches is lost (R307). -/
def Device.originate (d : Device) (dst cls : Nat) (payload : List Byte) : Device :=
  match d.routeTo dst with
  | none => d
  | some _ =>
    let e := d.ese dst
    (d.setEse { e with waiting := e.waiting ++ [(cls, payload)] }).release dst (e.waiting.length + 1)

/-- The same payloads to every other device of a list. -/
def Device.originateAll (d : Device) (devs : List Nat) (cls : Nat) (payloads : List (List Byte)) : Device :=
  (devs.filter (· != d.devId)).foldl (fun d dst => payloads.foldl (fun d x => d.originate dst cls x) d) d

end Sys2Proof.Machine
end

