-- ==== Sys2Proof/Machine/Collective.lean ====
section
/-! DEFINITION. The collective engine (R311 to R316): its commands, what a member contributes and receives, and how a
command ends. A command starts by reading its descriptor and its source and sending its contribution; it ends when the
contributions it needs have been heard (log entry 21). -/

namespace Sys2Proof.Machine

/-! ### Fields of a collective command (R311) -/

def Cmd.dtype (c : Cmd) : Nat := c.w 5 % 16
def Cmd.wire (c : Cmd) : Nat := c.w 5 / 16 % 16
def Cmd.rop (c : Cmd) : Nat := c.w 5 / 256 % 16
def Cmd.elems (c : Cmd) : Nat := c.w 6
def Cmd.peer (c : Cmd) : Nat := c.w 7 % 65536
def Cmd.tag (c : Cmd) : Nat := c.w 8

/-- QPCT; 0 means 65536, and no percentile lies above it. -/
def Cmd.wireQpct (c : Cmd) : Nat :=
  let q := c.p64 % 2 ^ 17
  if q == 0 then 65536 else min q 65536

def Cmd.wireBand (c : Cmd) : Num := decodeFloat .bf16 (c.p64 / 2 ^ 32 % 65536)

abbrev kGather : Nat := 0x10
abbrev kRedscat : Nat := 0x11
abbrev kAllred : Nat := 0x12
abbrev kBcast : Nat := 0x13
abbrev kSend : Nat := 0x14
abbrev kRecv : Nat := 0x15

def reduces (kind : Nat) : Bool := kind == 0x11 || kind == 0x12
def isPair (kind : Nat) : Bool := kind == 0x14 || kind == 0x15

/-- The element type of a DTYPE. -/
def dtypeTy (n : Nat) : Ty := if n == 9 then .f32 else if n == 10 then .bf16 else .n8

/-- The code type of a WIRE, its block, and whether it has scales (R314). -/
def wireTy (w : Nat) : Ty := if w == 1 then .bf16 else if w == 2 then .sf4 else if w == 3 then .e4m3 else if w == 4 then .e5m2 else .e2m1
def wireBlock (w : Nat) : Nat := if w == 2 then 8 else 32

/-- Is a collective command well formed, the overlap of its ranges apart (R138, R311)? -/
def Cmd.collOk (c : Cmd) : Bool :=
  c.headOk && (c.dtype == 9 || c.dtype == 10 || c.dtype == 4) && decide (c.wire ≤ 5) && decide (c.rop ≤ 2) &&
  c.w 5 / 2 ^ 12 == 0 && decide (1 ≤ c.elems) && decide (c.elems ≤ 2 ^ 28) && c.w 7 / 65536 == 0 &&
  ((List.range 13).all fun k => c.w (11 + k) == 0) && c.p64 / 2 ^ 17 % 2 ^ 15 == 0 && c.p64 / 2 ^ 48 == 0 &&
  (c.wire == 0 || c.dtype == 9) && !(c.dtype == 4 && reduces c.kind) && (c.rop == 0 || reduces c.kind)

/-! ### The group (R312) -/

/-- A group descriptor as a command reads it. -/
structure Group where
  size : Nat
  rank : Nat
  gid : Nat
  limit : Nat
  members : List Nat
deriving DecidableEq, Repr

def Device.collGroup (d : Device) (gid : Nat) : CollGroup :=
  (d.groups.find? fun (g : CollGroup) => g.gid == gid).getD ⟨gid, 0, [], [], [], [], [], []⟩

def Device.setGroup (d : Device) (g : CollGroup) : Device :=
  { d with groups := if d.groups.any fun (x : CollGroup) => x.gid == g.gid then
      d.groups.map fun (x : CollGroup) => if x.gid == g.gid then g else x else d.groups ++ [g] }

/-- Read the descriptor and check it against the table: the group, its members apart, and where their array stands. -/
def readHead (c : Cmd) : EngM (Group × Nat) := do
  let a := c.w64 9
  if a % 64 != 0 then engFail 0x94 0
  else do
    let bs ← eng (vread c.ctx (addr64 a) 64)
    let at_ := fun (o n : Nat) => natLE ((bs.drop o).take n)
    let size := at_ 0 2
    let rank := at_ 2 2
    if !(decide (2 ≤ size) && decide (size ≤ 4096) && decide (rank < size) && at_ 20 44 == 0) then engFail 0x94 0
    else return (⟨size, rank, at_ 4 4, 1000 * at_ 16 4, []⟩, at_ 8 8)

/-- Read the descriptor and the member array, which lists this device at the rank. -/
def readDesc (c : Cmd) : EngM Group := do
  let (g, a) ← readHead c
  let ms ← eng (vread c.ctx (addr64 a) (2 * g.size))
  let members := (List.range g.size).map fun k => natLE ((ms.drop (2 * k)).take 2)
  let d ← get
  if members.getD g.rank 0 != d.devId then engFail 0x94 0 else return { g with members := members }

/-- The members of an array up to the first that cannot be read. -/
def readableMembers (c : Cmd) (a : Nat) : Nat → Device → List Nat
  | 0, _ => []
  | k + 1, d =>
    match eng (vread c.ctx (addr64 a) 2) d with
    | .ok bs d => natLE bs :: readableMembers c (a + 2) k d
    | .error _ _ => []

/-- A command's group: the rank in word 7 is one of it. -/
def readGroup (c : Cmd) : EngM Group := do
  let g ← readDesc c
  if (isPair c.kind || c.kind == kBcast) && decide (c.peer ≥ g.size) then engFail 0x94 0 else return g

/-- Elements the source and the destination of a command hold; 0 where it ignores one. -/
def Cmd.srcElems (c : Cmd) (g : Group) : Nat :=
  if c.kind == kRedscat then g.size * c.elems
  else if c.kind == kRecv || (c.kind == kBcast && c.peer != g.rank) then 0 else c.elems
def Cmd.dstElems (c : Cmd) (g : Group) : Nat :=
  if c.kind == kGather then g.size * c.elems else if c.kind == kSend then 0 else c.elems

def rangesMeet (a n b k : Nat) : Bool := decide (a < b + k) && decide (b < a + n) && n != 0 && k != 0

/-- Do the source and the destination overlap in a group (R311)? -/
def Cmd.overlaps (c : Cmd) (g : Group) : Bool :=
  let n := (dtypeTy c.dtype).bytes
  rangesMeet (c.w64 1) (c.srcElems g * n) (c.w64 3) (c.dstElems g * n)

/-- Do they overlap in every group? One of two members is the least; whether BCAST reads its source depends on the rank. -/
def Cmd.overlapsAnyway (c : Cmd) : Bool := c.kind != kBcast && c.overlaps ⟨2, 0, 0, 0, []⟩

/-! ### The wire (R314) -/

/-- The elements of one block: scale byte, and codes. -/
def encodeBlock (w qpct : Nat) (band : Num) (xs : List Num) : Nat × List Nat :=
  let f := wireTy w
  let sc := blockScale f xs qpct band
  (sc, xs.map fun x => (quantCode f rne 0 true sc band x).1)

/-- Blocks of a segment. -/
def encodeBlocks (w qpct : Nat) (band : Num) : Nat → List Num → List (Nat × List Nat)
  | 0, _ => []
  | k + 1, xs =>
    if xs.isEmpty then []
    else encodeBlock w qpct band (xs.take (wireBlock w)) :: encodeBlocks w qpct band k (xs.drop (wireBlock w))

/-- Codes of four bits, two to a byte, the even one low. -/
def packNibbles : List Nat → List Byte
  | [] => []
  | [x] => [BitVec.ofNat 8 x]
  | x :: y :: rest => BitVec.ofNat 8 (x + 16 * y) :: packNibbles rest

/-- One segment as sent: elements, then scale bytes. -/
def encodeSegment (c : Cmd) (xs : List Nat) : List Byte :=
  let ty := dtypeTy c.dtype
  if c.wire == 0 then xs.flatMap (bytesLE ty.bytes)
  else
    let nums := xs.map (decodeFloat ty)
    if c.wire == 1 then nums.flatMap fun x => bytesLE 2 (exactBits .bf16 x)
    else
      let bl := encodeBlocks c.wire c.wireQpct c.wireBand nums.length nums
      let codes := bl.flatMap (·.2)
      (if c.wire == 3 || c.wire == 4 then codes.map (BitVec.ofNat 8) else packNibbles codes) ++
        bl.map fun b => BitVec.ofNat 8 b.1

/-- Segments of n elements. -/
def segments (n : Nat) : Nat → List Nat → List (List Nat)
  | 0, _ => []
  | k + 1, xs => xs.take n :: segments n k (xs.drop n)

/-- Bytes of a segment of n elements. -/
def segBytes (c : Cmd) (n : Nat) : Nat :=
  let ty := dtypeTy c.dtype
  if c.wire == 0 then n * ty.bytes
  else if c.wire == 1 then 2 * n
  else (if c.wire == 3 || c.wire == 4 then n else (n + 1) / 2) + (n + wireBlock c.wire - 1) / wireBlock c.wire

/-- Element i of a segment as received, in the type of the command: Decode × scale, N8 raw. band: the band scale it was
encoded with. -/
def decodeElem (c : Cmd) (band : Num) (n : Nat) (seg : List Byte) (i : Nat) : Nat :=
  let ty := dtypeTy c.dtype
  let byte := fun (k : Nat) => (seg.getD k 0).toNat
  if c.wire == 0 then
    let x := natLE ((seg.drop (i * ty.bytes)).take ty.bytes)
    if ty == .n8 then x else exactBits ty (decodeFloat ty x)
  else if c.wire == 1 then exactBits .f32 (decodeFloat .bf16 (natLE ((seg.drop (2 * i)).take 2)))
  else
    let wide := c.wire == 3 || c.wire == 4
    let code := if wide then byte i else byte (i / 2) / 2 ^ (4 * (i % 2)) % 16
    let sc := byte ((if wide then n else (n + 1) / 2) + i / wireBlock c.wire)
    let v := decodeFloat (wireTy c.wire) code
    exactBits .f32 (if c.wire == 2 then (v.mul ((e3m5 sc).mul band).1).1
      else match e8m0 sc with
        | some e => v.scale e
        | none => .nan false)

/-- Element i of segment k of a member's contribution. -/
def contribElem (c : Cmd) (m : MemberMessage) (k i : Nat) : Nat :=
  decodeElem c (decodeFloat .bf16 m.band) c.elems ((m.data.drop (k * segBytes c c.elems)).take (segBytes c c.elems)) i

/-! ### Starting (R312, R315) -/

/-- Elements of a range, each checked and read; a stage-2 miss requests the pages of those that follow too (R142). -/
def readElems (c : Cmd) (ty : Ty) (base : Nat) : Nat → Nat → EngM (List Nat)
  | 0, _ => pure []
  | k + 1, i => fun d =>
    match engGet c memSide (addr64 (base + i * ty.bytes)) ty.bytes d with
    | .error e d => .error e (if e.page.isSome then engSweepElems c .load base ty.bytes (k + 1) i d else d)
    | .ok x d =>
      match readElems c ty base k (i + 1) d with
      | .ok xs d => .ok (x :: xs) d
      | .error e d => .error e d

/-- The number a command takes in its group (R315): the group's next, or for SEND and RECV the next of its peer and
tag. -/
def CollGroup.nextOf (g : CollGroup) (c : Cmd) : Nat :=
  if isPair c.kind then
    match g.pairs.find? fun e => e.1 == c.kind && e.2.1 == c.peer && e.2.2.1 == c.tag with
    | some e => e.2.2.2
    | none => 0
  else g.next

/-- The group after a command has taken its number. -/
def CollGroup.numbered (g : CollGroup) (c : Cmd) : CollGroup :=
  if isPair c.kind then
    { g with pairs := (c.kind, c.peer, c.tag, g.nextOf c + 1) ::
        g.pairs.filter fun e => !(e.1 == c.kind && e.2.1 == c.peer && e.2.2.1 == c.tag) }
  else { g with next := g.next + 1 }

/-- What a starting command does: its group and its message. -/
def collStart (c : Cmd) : EngM (Group × MemberMessage) := do
  if !c.collOk || c.overlapsAnyway then engFail 0x80 0
  else do
    let g ← readGroup c
    let ty := dtypeTy c.dtype
    let ns := c.srcElems g
    if c.overlaps g then engFail 0x80 0
    else do
      let xs ← readElems c ty (c.w64 1) ns 0
      let d ← get
      let segs := segments c.elems (if c.kind == kRedscat then g.size else if ns == 0 then 0 else 1) xs
      return (g, {
        gid := g.gid, rank := g.rank, seq := (d.collGroup g.gid).nextOf c, kind := c.kind, n := c.elems, dtype := c.dtype,
        wire := c.wire, rop := c.rop, tag := if isPair c.kind then c.tag else 0, peer := if isPair c.kind then c.peer else 0,
        band := c.p64 / 2 ^ 32 % 65536, data := segs.flatMap (encodeSegment c) })

/-- A member that ends with a status other than OK tells the others (R316). -/
def Device.sendAbort (d : Device) (c : Cmd) (rank : Nat) : Device :=
  let g := d.collGroup c.gid
  let a : MemberAbort := ⟨c.gid, rank, c.seq, c.kind, if isPair c.kind then c.tag else 0, if isPair c.kind then c.peer else 0⟩
  (d.setGroup { g with sentAborts := g.sentAborts ++ [a] }).originateAll g.members 1 (Config.frameAbort a)

/-- A command of a member ends with a status. -/
def Device.collEnd (d : Device) (c : Cmd) (rank status total addr : Nat) : Device :=
  let d := d.setCmd { c with state := .ended status total addr }
  if status == 0 then d else d.sendAbort c rank

/-- The group of a command that ends as it starts, where its descriptor can be read: of a member array that cannot be read
whole, the members that the device knows from before, else those that can be read (log entry 112). A device that is not
listed is no member. -/
def Device.refusedGroup (d : Device) (c : Cmd) : Option Group :=
  match readDesc c d, readHead c d with
  | .ok g _, _ => some g
  | .error _ _, .ok (g, a) d' =>
    match eng (vread c.ctx (addr64 a) (2 * g.size)) d' with
    | .ok _ _ => none
    | .error _ _ =>
      let known := (d.collGroup g.gid).members
      some { g with members := if known.isEmpty then readableMembers c a g.size d' else known }
  | _, _ => none

/-- A command that ends as it starts takes its number all the same, and the other members hear of its end (R315, R316),
where its descriptor can be read. -/
def Device.collRefused (d : Device) (c : Cmd) (status addr : Nat) : Device :=
  match d.refusedGroup c with
  | none => d.setCmd { c with state := .ended status 0 addr }
  | some g =>
    let x := d.collGroup g.gid
    (d.setGroup { x.numbered c with members := g.members }).collEnd { c with gid := g.gid, seq := x.nextOf c } g.rank
      status 0 addr

/-! ### Ending (R313, R315, R316) -/

/-- The kind that meets a SEND or a RECV. -/
def otherSide (kind : Nat) : Nat := if kind == kSend then kRecv else kSend

/-- The message of rank k that belongs to a command whose own message is given: of its number, or for SEND and RECV that
of the other side of its sender, receiver and tag (R315). -/
def CollGroup.msgOf (g : CollGroup) (own : MemberMessage) (k : Nat) : Option MemberMessage :=
  if isPair own.kind then
    (g.heard ++ g.sent).find? fun (m : MemberMessage) => m.rank == k && k == own.peer && m.peer == own.rank &&
      m.kind == otherSide own.kind && m.tag == own.tag && m.seq == own.seq
  else if k == own.rank then some own
  else g.heard.find? fun (m : MemberMessage) => m.rank == k && m.seq == own.seq && !(isPair m.kind)

/-- Is an abort that of another member's command of the same collective? -/
def abortEnds (own : MemberMessage) (a : MemberAbort) : Bool :=
  a.seq == own.seq &&
  (if isPair own.kind then a.rank == own.peer && a.peer == own.rank && a.kind == otherSide own.kind && a.tag == own.tag
   else a.rank != own.rank && !(isPair a.kind))

/-- Does a message announce the same collective (R315)? -/
def Cmd.agrees (c : Cmd) (m : MemberMessage) : Bool :=
  m.n == c.elems && (isPair c.kind || m.kind == c.kind) && m.dtype == c.dtype && m.wire == c.wire && m.rop == c.rop

/-- Ranks whose messages a command needs before it can end (R313). -/
def Cmd.needs (c : Cmd) (size rank : Nat) : List Nat :=
  if isPair c.kind then [c.peer]
  else if c.kind == kBcast then (if c.peer == rank then [] else [c.peer])
  else (List.range size).filter fun k => k != rank

/-- acc ⊕ x, in F32 (R313). -/
def reduceF32 (rop : Nat) (acc x : Nat) : Nat :=
  let a := decodeFloat .f32 acc
  let b := decodeFloat .f32 x
  match rop with
  | 0 => exactBits .f32 (a.add rne b).1
  | 1 => exactBits .f32 (pickNum false a b)
  | _ => exactBits .f32 (pickNum true a b)

/-- The fold of R313 of elements of the command's type, ascending rank. -/
def foldRanks (c : Cmd) (xs : List Nat) : Nat :=
  let up := fun (x : Nat) => if c.dtype == 10 then exactBits .f32 (decodeFloat .bf16 x) else x
  match xs.map up with
  | [] => 0
  | y :: ys =>
    let r := ys.foldl (reduceF32 c.rop) y
    if c.dtype == 10 then exactBits .bf16 (decodeFloat .f32 r) else r

/-- Destination element j of a command (R313), from the messages by rank. -/
def collElem (c : Cmd) (rank : Nat) (msgs : List MemberMessage) (j : Nat) : Nat :=
  if c.kind == kGather then ((msgs[j / c.elems]?).map fun m => contribElem c m 0 (j % c.elems)).getD 0
  else if c.kind == kRedscat then foldRanks c (msgs.map fun m => contribElem c m rank j)
  else if c.kind == kAllred then foldRanks c (msgs.map fun m => contribElem c m 0 j)
  else ((msgs[0]?).map fun m => contribElem c m 0 j).getD 0

/-- Write the destination, element by element. -/
def writeElems (c : Cmd) (ty : Ty) (f : Nat → Nat) : Nat → Nat → List Place → Device →
    List Place × Option EngErr × Device
  | 0, _, ps, d => (ps, none, d)
  | k + 1, i, ps, d =>
    match engPut c memSide (addr64 (c.w64 3 + i * ty.bytes)) ty.bytes (f i) d with
    | .ok p d => writeElems c ty f k (i + 1) (p :: ps) d
    | .error e d => (ps, some e, if e.page.isSome then engSweepElems c .store (c.w64 3) ty.bytes (k + 1) i d else d)

/-- Every other member has joined: a message of each, at the command's number, is there (R316). -/
def Device.allJoined (d : Device) (c : Cmd) (own : MemberMessage) : Bool :=
  let g := d.collGroup c.gid
  (if isPair c.kind then [c.peer] else List.range g.members.length).all fun k => (g.msgOf own k).isSome

/-- The first status of R316 that what the device has heard by now gives a command that has begun: MISMATCH, PEERABORT,
TIMEOUT. -/
def Device.collStatus (d : Device) (c : Cmd) (own : MemberMessage) : Option Nat :=
  let g := d.collGroup c.gid
  if ((List.range g.members.length).filterMap (g.msgOf own)).any fun m => !(c.agrees m) then some 0x90
  else if (g.aborts ++ g.sentAborts).any (abortEnds own) then some 0x91
  else if c.limit != 0 && decide (c.joinedAt + c.limit ≤ d.gtime.toNat) && !(d.allJoined c own) then some 0x92
  else none

/-- A command that has begun, with its own message, ends if it can (R313, R315, R316). -/
def Device.collFinish (d : Device) (c : Cmd) (own : MemberMessage) : Device :=
  let g := d.collGroup c.gid
  let size := g.members.length
  match d.collStatus c own with
  | some st => d.collEnd c own.rank st 0 0
  | none =>
    if !((c.needs size own.rank).all fun k => (g.msgOf own k).isSome) then d
    else
      let msgs := if isPair c.kind || c.kind == kBcast then ((g.msgOf own c.peer).map fun m => [m]).getD []
        else (List.range size).filterMap (g.msgOf own)
      let ty := dtypeTy c.dtype
      let n := if c.kind == kGather then size * c.elems else if c.kind == kSend then 0 else c.elems
      let (ps, r, d) := writeElems c ty (collElem c own.rank msgs) n 0 [] d
      let d := d.cleanLines (wholeLines (ps.flatMap fun p => match p with
        | .mem pa => (List.range ty.bytes).map (pa + ·)
        | .scr _ => []))
      match r with
      | some e => (d.engRequest c e).collEnd c own.rank e.status 0 e.addr
      | none => d.collEnd c own.rank 0 (if c.kind == kGather then size * c.elems else c.elems) 0

/-! ### What a member has heard (R317) -/

/-- Has a command that has begun heard data of another member? -/
def CollGroup.dataHeard (g : CollGroup) (own : MemberMessage) : Bool :=
  ((List.range g.members.length).filter (· != own.rank)).any fun k => match g.msgOf own k with
    | some m => !m.data.isEmpty
    | none => false

/-- The wait from a command's push to the first member's data is over, for coll_wait (R317). -/
def Device.collWaited (d : Device) (c : Cmd) : Device :=
  { d with waits := d.waits ++ [(qtyCollWait, c.engine.2, d.gtime.toNat - c.pushedAt)] }

/-- The waits that end where a group has become another. -/
def Device.collWaits (d : Device) (before : CollGroup) : Device :=
  d.cmds.foldl (fun d (c : Cmd) => match c.own with
    | some own =>
      if c.state == .started && c.gid == before.gid && !(before.dataHeard own) &&
        (d.collGroup before.gid).dataHeard own then d.collWaited c else d
    | none => d) d

/-- The devices whose members a command needs. -/
def Cmd.needDevs (c : Cmd) (members : List Nat) : List Nat := if isPair c.kind then [members.getD c.peer 0] else members

/-- A command that has begun: its group, number and message, which goes to the other members; it ends at once where no
route reaches one that it needs (R307), with the first status that applies (R316). DESIGN CHOICE (log entry 105): data that
was heard before is its data from now on. -/
def Device.collBegun (d : Device) (c : Cmd) (g : Group) (m : MemberMessage) : Device :=
  let x := d.collGroup g.gid
  let c := { c with state := .started, seq := m.seq, limit := g.limit, joinedAt := d.gtime.toNat, gid := g.gid, own := some m }
  let d := ((d.setGroup { x.numbered c with members := g.members, sent := x.sent ++ [m] }).setCmd c).originateAll
    (c.needDevs g.members) 1 (Config.frameMember m)
  let d := if (d.collGroup g.gid).dataHeard m then d.collWaited c else d
  if (c.needDevs g.members).any d.unreachable.contains then d.collEnd c g.rank ((d.collStatus c m).getD 0x93) 0 0 else d

/-- What the start of a command answered: it goes on, or ends at once with its error. -/
def collAfter (c : Cmd) (r : EStateM.Result EngErr Device (Group × MemberMessage)) : Device :=
  match r with
  | .error e d => (d.engRequest c e).collRefused c e.status e.addr
  | .ok x d => d.collBegun c x.1 x.2

def Device.collBegin (d : Device) (c : Cmd) : Device := collAfter c (collStart c d)

/-- A collective command of a kind moves on: it starts, or ends if it can. -/
def Device.collRun (d : Device) (kind id : Nat) : Device :=
  match d.cmd id with
  | some c =>
    if !(c.kind == kind && portTakes c.port kind) then d
    else if d.canStart c then d.collBegin c
    else if c.state == .started then
      match c.own with
      | none => d.collBegin c
      | some own => d.collFinish c own
    else d
  | none => d

def execAllgather (cmd : Nat) (s : State) : Out := .next (s.unit (·.collRun 0x10 cmd))
def execRedscat (cmd : Nat) (s : State) : Out := .next (s.unit (·.collRun 0x11 cmd))
def execAllred (cmd : Nat) (s : State) : Out := .next (s.unit (·.collRun 0x12 cmd))
def execBcast (cmd : Nat) (s : State) : Out := .next (s.unit (·.collRun 0x13 cmd))
def execSendColl (cmd : Nat) (s : State) : Out := .next (s.unit (·.collRun 0x14 cmd))
def execRecvColl (cmd : Nat) (s : State) : Out := .next (s.unit (·.collRun 0x15 cmd))

/-! ### What other members do -/

/-- A member's message is heard. -/
def Device.hear (d : Device) (m : MemberMessage) : Device :=
  let g := d.collGroup m.gid
  (d.setGroup { g with heard := g.heard ++ [m] }).collWaits g

def execCollectiveMemberMessage (msg : MemberMessage) (s : State) : Out := .next (s.onDev (·.hear msg))

/-- A member's abort is heard (R316). -/
def Device.hearAbort (d : Device) (a : MemberAbort) : Device :=
  let g := d.collGroup a.gid
  d.setGroup { g with aborts := g.aborts ++ [a] }

def execCollectiveAbort (gid seq : Nat) (sender : AbortFrom) (s : State) : Out :=
  .next (s.onDev (·.hearAbort ⟨gid, sender.rank, seq, sender.kind, sender.tag, sender.peer⟩))

/-- Not every member has joined within TIMEOUT (R312, R316). -/
def Device.collTimeout (d : Device) (id : Nat) : Device :=
  match d.cmd id with
  | some c =>
    match c.own, c.state == .started with
    | some own, true => match d.collStatus c own with
      | some st => d.collEnd c own.rank st 0 0
      | none => d
    | _, _ => d
  | none => d

def execCollectiveTimeout (cmd : Nat) (s : State) : Out := .next (s.unit (·.collTimeout cmd))

end Sys2Proof.Machine
end

