-- ==== Sys2Proof/Machine/Graph.lean ====
section
/-! DEFINITION. The graph walker: taking a LAUNCH, what a ready node of each kind does, the end of a graph, budgets and
aborts (R356 to R362, R369, R370). -/

namespace Sys2Proof.Machine

/-! ### LAUNCH (R356) -/

/-- Is a node of the queue's graph ready or running? -/
def Queue.busy (qu : Queue) : Bool := qu.runs.any fun r => r.launched || r.got == []

/-- A LAUNCH message's NODES and NCOUNT, or none where it is malformed. -/
def launchFields (msg : BitVec 512) : Option (Nat × Nat) :=
  let m := msg.toNat
  let nodes := m / 2 ^ 64 % 2 ^ 64
  let n := m / 2 ^ 128 % 2 ^ 64
  if m % 2 ^ 64 == 1 && m / 2 ^ 192 == 0 && nodes % 64 == 0 && decide (1 ≤ n) && decide (n ≤ 65536) then some (nodes, n)
  else none

/-- Re-arm every record of an array. -/
def rearmAll (q nodes : Nat) : Nat → Nat → DevM Unit
  | 0, _ => pure ()
  | k + 1, i => do
    rearm q (nodes + 64 * i)
    rearmAll q nodes k (i + 1)

/-- Make ready every node of an array whose PINIT is 0; what that decrements follows. -/
def readyAll (q nodes : Nat) : Nat → Nat → DevM Unit
  | 0, _ => pure ()
  | k + 1, i => do
    let n := nodes + 64 * i
    let p ← DevM.attempt (wget q (n + nPinit) 2)
    let st ← DevM.attempt (wget q (n + nState) 1)
    let ds ← if p == some 0 && st == some stWaiting then becomeReady q n else pure []
    propagate q manyDecrs ds
    readyAll q nodes k (i + 1)

/-- GSTATE, with the status block. -/
def setGstate (q g : Nat) : DevM Unit := do
  modify fun d => d.updQueue q fun qu => { qu with gstate := g }
  putStatus q

/-- The walker takes the oldest message of its control mailbox. A refused one leaves the graph as it was. -/
def takeLaunch (q : Nat) : DevM Unit := do
  let d ← get
  let qu := d.queue q
  let b := d.mbox qu.cmbox
  match b.owner == .control q, b.ring with
  | true, (msg, _) :: _ =>
    if qu.busy || qu.aborting then pure ()
    else do
      set (d.takeMsg qu.cmbox 0)
      match launchFields msg with
      | none => setGstate q 4
      | some (nodes, n) => do
        let ok ← DevM.attempt (rearmAll q nodes n 0)
        if ok.isNone then setGstate q 4
        else do
          modify fun d => (d.updQueue q fun qu =>
            { qu.withdraw with active := true, nodes := nodes, ncount := n, ndone := 0, nfail := 0, gstate := 1, runs := [] }).nowDue
          putStatus q
          readyAll q nodes n 0
  | _, _ => pure ()

def execLaunchGraph (queue : Nat) (s : State) : Out := .next (s.devRun (takeLaunch queue)).2

/-! ### Nodes by kind (R359) -/

/-- A ready node of a kind starts and does its work; a read or write that stops fails it. -/
def runNode (q n kind : Nat) (m : DevM Unit) : DevM Unit := do
  let d ← get
  if !(d.isReady q n) then pure ()
  else do
    let k ← DevM.attempt (wget q (n + nKind) 1)
    if k != some kind then pure ()
    else do
      startNode q n
      let r ← DevM.attempt m
      if r.isNone then failNode q n true else pure ()

/-- A 64-bit word of memory in the queue's context, aligned. -/
def wgetWord (q va : Nat) : DevM Nat := if va % 8 == 0 then wget q va 8 else DevM.stop (.cause .align (addr64 va))

/-- OP of COND and LOOP (R358). -/
def nodeOp (op : Nat) (w v : Word) : Bool :=
  match op with
  | 0 => w == v
  | 1 => w != v
  | 2 => w.slt v
  | 3 => !(w.slt v)
  | 4 => w.ult v
  | _ => !(w.ult v)

/-- The first k of a list take one decrement and the rest another. -/
def splitDecrs (l : List Nat) (k : Nat) (a b : Decr) : List (Nat × Decr) :=
  (l.take k).map (·, a) ++ (l.drop k).map (·, b)

def condWork (q n : Nat) : DevM Unit := do
  let w ← wgetWord q (← wget q (n + 0x18) 8)
  let v ← wget q (n + 0x20) 8
  let mask ← wget q (n + 0x28) 8
  let op ← wget q (n + 0x30) 1
  let nt ← wget q (n + nNt) 2
  let succ ← successors q n
  if nodeOp op (addr64 w &&& addr64 mask) (addr64 v) then doneNode q n (splitDecrs succ nt .done .skip)
  else doneNode q n (splitDecrs succ nt .skip .done)

def switchWork (q n : Nat) : DevM Unit := do
  let w ← wgetWord q (← wget q (n + 0x18) 8)
  let mask ← wget q (n + 0x20) 8
  let succ ← successors q n
  let k := min (addr64 w &&& addr64 mask).toNat (succ.length - 1)
  doneNode q n ((succ.zip (List.range succ.length)).map fun (a, i) => (a, if i == k then Decr.done else .skip))

/-- Re-arm the nodes of a LOOP's REARM array; one that is no record of the graph fails the node. -/
def rearmList (q : Nat) : List Nat → DevM Unit
  | [] => pure ()
  | a :: as => do
    let d ← get
    if (d.queue q).isNode a then do
      rearm q a
      rearmList q as
    else DevM.stop (.cause .tfStore (addr64 a))

/-- LOOP (R360). -/
def loopWork (q n : Nat) : DevM Unit := do
  let w ← wgetWord q (← wget q (n + 0x18) 8)
  let v ← wget q (n + 0x20) 8
  let op ← wget q (n + 0x30) 1
  let nt ← wget q (n + nNt) 2
  let itmax ← wget q (n + 0x36) 2
  let runs ← wget q (n + nRuns) 4
  let succ ← successors q n
  if nodeOp op (addr64 w) (addr64 v) && (itmax == 0 || decide (runs < itmax)) then do
    let back ← wget q (n + 0x32) 2
    let k ← wget q (n + 0x34) 2
    let l ← wgetWords q (← wget q (n + 0x28) 8) k
    rearmList q l
    wput q (n + nRuns) 4 (runs + 1)
    wput q (n + nPred) 2 back
    wput q (n + nState) 1 stWaiting
    modify fun d => d.updQueue q fun qu => { qu with runs := qu.runs.filter fun r => !(r.node == n) }
    propagate q manyDecrs ((succ.take nt).map (·, .done))
  else doneNode q n ((succ.drop nt).map (·, .done))

def execCondNode (queue node : Nat) (s : State) : Out := .next (s.devRun (runNode queue node 3 (condWork queue node))).2
def execLoopNode (queue node : Nat) (s : State) : Out := .next (s.devRun (runNode queue node 4 (loopWork queue node))).2
def execSwitchNode (queue node : Nat) (s : State) : Out := .next (s.devRun (runNode queue node 5 (switchWork queue node))).2

/-- The command of a COPY node as it is pushed: flags bits 0 and 2 cleared, bit 3 set, words 26 and 27 the node (R359). -/
def copyWords (x n : Nat) : BitVec 1024 :=
  let y := BitVec.ofNat 1024 x
  (y &&& ~~~(BitVec.ofNat 1024 (0x500 + (2 ^ 64 - 1) * 2 ^ (32 * 26)))) ||| BitVec.ofNat 1024 (0x800 + n % 2 ^ 64 * 2 ^ (32 * 26))

/-- COPY: the command is read and pushed; at a full engine the node stays ready. -/
def copyPush (q n : Nat) : DevM Unit := do
  let d ← get
  let core ← DevM.attempt (wget q (n + 0x20) 1)
  let port ← DevM.attempt (wget q (n + 0x21) 1)
  if d.engineFull (port.getD 0) (core.getD 0) then pure ()
  else runNode q n 2 do
    let a ← wget q (n + 0x18) 8
    let x ← wget q a 128
    let k := x % 256
    if !(decide (1 ≤ k) && decide (k ≤ 3)) then DevM.stop (.cause .tfLoad (addr64 a))
    else do
      let d ← get
      let c := d.walkerCtx q
      let qu := d.queue q
      let cmd : Cmd :=
        { id := d.nextCmd, uid := 0, queue := q, core := core.getD 0, port := port.getD 0, words := copyWords x n,
          vf := qu.vf, agent := qu.agent, asid := BitVec.ofNat 16 c.asid, s1root := addr64 (c.root * 4096), tlevel := 0,
          group := 0, slot := 0, node := n, gid := 0, seq := 0, limit := 0, state := .pushed, drop := false,
          pushedAt := d.gtime.toNat, joinedAt := 0, own := none }
      set { d with nextCmd := d.nextCmd + 1, cmds := d.cmds ++ [cmd] }

def execCopyNode (queue node : Nat) (s : State) : Out := .next (s.devRun (copyPush queue node)).2

/-! ### Messages -/

/-- The capability an index names, with a right; none fails the node (R358). -/
def nodeCap (q c : Nat) (right : Cap → Bool) : DevM Cap := do
  match ← queueCap q c with
  | some k => if right k then return k else DevM.stop (.cause .priv (addr64 c))
  | none => DevM.stop (.cause .priv (addr64 c))

/-- A send by the walker (R350, R359): the mailbox, where it is accepted. -/
def nodeSend (q c : Nat) (msg : Nat) : DevM (Option Nat) := do
  let k ← nodeCap q c (·.snd)
  let d ← get
  if d.mboxFull k.mbox then return none
  else do
    let qu := d.queue q
    set (d.accept k.mbox (BitVec.ofNat 512 msg) (senderWord true false qu.vf qu.agent))
    return some k.mbox

/-- Try the send of a MAIL node that runs; refused, it tries again 1 µs later (R359). -/
def mailTry (q n : Nat) : DevM (Option Nat) := do
  let r ← DevM.attempt (do
    let c ← wget q (n + 0x20) 1
    let a ← wget q (n + 0x18) 8
    let msg ← wget q a 64
    nodeSend q (c % 64) msg)
  match r with
  | none => do
    failNode q n true
    return none
  | some none => do
    modify fun d => d.updRun q n fun r => { r with readyAt := d.gtime.toNat }
    return none
  | some (some mb) => do
    doneAll q n
    return some mb

/-- The END node's reply (R362). -/
def endMessage (q n : Nat) : DevM Nat := do
  let cookie ← wget q (n + 0x20) 8
  let d ← get
  let qu := d.queue q
  return cookie + 2 ^ 64 * (qu.ndone % 2 ^ 64) + 2 ^ 128 * (qu.nfail % 2 ^ 64)

/-- END: the graph has ended once the reply, if there is one, is accepted. Nodes that were ready do not run. -/
def endTry (q n : Nat) : DevM (Option Nat) := do
  let r ← DevM.attempt (do
    let b ← wget q (n + 0x18) 1
    if b / 64 % 2 == 0 then return (true, none)
    else do
      let msg ← endMessage q n
      let sent ← nodeSend q (b % 64) msg
      return (sent.isSome, sent))
  match r with
  | none => do
    failNode q n true
    return none
  | some (false, _) => do
    modify fun d => d.updRun q n fun r => { r with readyAt := d.gtime.toNat }
    return none
  | some (true, mb) => do
    putState q n stDone
    modify fun d => (d.updQueue q fun qu =>
      { qu.withdraw with active := false, runs := qu.runs.filter fun r => r.launched && r.node != n }).nowDue
    return mb

/-- Does a running node of a kind wait to send? -/
def Device.isRunning (d : Device) (q n kind : Nat) : Bool :=
  ((d.queue q).runs.any fun r => r.node == n && r.launched) &&
  (match wget q (n + nKind) 1 d with
    | .ok k _ => k == kind
    | .error _ _ => false)

/-- A step of the walker that may have sent to a mailbox; waits of WFE for it end. -/
def State.walkerSend (s : State) (m : DevM (Option Nat)) : State :=
  match s.devRun m with
  | (some (some mb), s) => s.wakeMail mb
  | (_, s) => s

/-- MAIL starts with its first try. -/
def mailStart (q n : Nat) : DevM (Option Nat) := do
  let d ← get
  if !(d.isReady q n) then return none
  else do
    runNode q n 6 (pure ())
    let d' ← get
    if d'.isRunning q n 6 then mailTry q n else return none

/-- A refused send is tried again, no sooner than 1 µs after the last try. -/
def mailRetry (q n : Nat) : DevM (Option Nat) := do
  let d ← get
  if ((d.queue q).run n).readyAt + 1000 ≤ d.gtime.toNat then
    if d.isRunning q n 6 then mailTry q n
    else if d.isRunning q n 9 then endTry q n
    else return none
  else return none

def endStart (q n : Nat) : DevM (Option Nat) := do
  let d ← get
  if !(d.isReady q n) then return none
  else do
    runNode q n 9 (setGstate q 2)
    let d' ← get
    if d'.isRunning q n 9 then endTry q n else return none

def execMailNode (queue node : Nat) (s : State) : Out := .next (s.walkerSend (mailStart queue node))
def execMailRetry (queue node : Nat) (s : State) : Out := .next (s.walkerSend (mailRetry queue node))
def execEndNode (queue node : Nat) (s : State) : Out := .next (s.walkerSend (endStart queue node))

/-- WAITMAIL begins to wait (R347). -/
def waitmailStart (q n : Nat) : DevM Unit :=
  runNode q n 7 do
    let c ← wget q (n + 0x20) 1
    let k ← nodeCap q (c % 64) (·.rcv)
    modify fun d =>
      { d.updRun q n fun r => { r with ticket := d.nextTicket, mbox := k.mbox + 1 } with nextTicket := d.nextTicket + 1 }

/-- A waiting WAITMAIL node takes the message that R347 gives it, if there is one: it leaves the ring when the buffer
is written. -/
def State.waitmail (s : State) (q n : Nat) : State :=
  let s := if s.dev.isReady q n then (s.devRun (waitmailStart q n)).2 else s
  let run := (s.dev.queue q).run n
  if !(s.dev.isRunning q n 7 && run.mbox != 0) then s
  else match s.messageFor (run.mbox - 1) (s.dev.queue q).agent (run.ticket, 1024 + q) with
    | none => s
    | some (msg, _) => (s.devRun (do
        let r ← DevM.attempt (do
          let a ← wget q (n + 0x18) 8
          wputBytes q a (bytesLE 64 msg.toNat))
        if r.isNone then failNode q n true
        else do
          modify fun d => d.takeMsg (run.mbox - 1) 0
          doneAll q n)).2

def execWaitmailNode (queue node : Nat) (s : State) : Out := .next (s.waitmail queue node)

/-- TIMED starts, and is done when gtime has reached T. -/
def timedWork (q n : Nat) : DevM Unit := do
  runNode q n 8 (pure ())
  let d ← get
  if d.isRunning q n 8 then do
    let t ← DevM.attempt (wget q (n + 0x18) 8)
    match t with
    | none => failNode q n true
    | some t => if t ≤ d.gtime.toNat then doneAll q n else pure ()
  else pure ()

def execTimedNode (queue node : Nat) (s : State) : Out := .next (s.devRun (timedWork queue node)).2

/-- A COMPUTE node whose strands have ended and whose commands have completed is complete (R295). -/
def execNodeComplete (queue node : Nat) (s : State) : Out := .next (s.settleNode queue node)

/-! ### Overruns and aborts (R362, R369, R370) -/

/-- The strand of a node on the lowest logical core, and there on the lowest slot. -/
def State.firstStrand (s : State) (q : Nat) (n : Word) : Option Strand :=
  (s.strands.filter fun t => t.live && t.queue == q && t.node == n).foldl (fun best t => match best with
    | none => some t
    | some b => if 4 * t.core + t.slot < 4 * b.core + b.slot then some t else some b) none

/-- Kill a node's strands: the first with a record, the others as its siblings (R362, R380). -/
def State.killNode (s : State) (q n reason : Nat) : State :=
  match s.firstStrand q (addr64 n) with
  | some t => s.kill t.uid reason t.plainEv
  | none => s

/-- The budget of a node's launch in ns; 0: none (R369). -/
def Device.budgetOf (d : Device) (q n : Nat) : Nat :=
  match wget q (n + 0x2C) 4 d with
  | .ok 0 _ => 1000 * (d.queue q).budget
  | .ok b _ => 1000 * b
  | .error _ _ => 1000 * (d.queue q).budget

/-- A launch whose count has passed its budget: every strand is to be pre-empted, or all are killed. An ABORT that is to
come wins (R370); an overrun whose pre-emption is under way is handled once, and the count starts afresh when the strands
are placed again. -/
def State.overrun (s : State) (q n : Nat) : State :=
  let qu := s.dev.queue q
  let run := qu.run n
  let b := s.dev.budgetOf q n
  if qu.abort || run.overran || !(run.launched && !run.strands.isEmpty && b != 0 && decide (b < run.ran)) then s
  else if qu.requeueKill || decide (qu.ovrmax ≤ run.requeues) then s.killNode q n 4
  else
    let s := s.onDev fun d => d.updRun q n fun r => { r with overran := true, requeues := r.requeues + 1 }
    s.mapStrands fun t => if run.strands.contains t.uid then t.requestPreempt 0 else t

def execBudgetOverrun (queue node : Nat) (s : State) : Out := .next (s.overrun queue node)

/-- Do commands run still of a strand of a node's that is killed (R383)? -/
def State.runDying (s : State) (r : NodeRun) : Bool := r.strands.any fun u => s.strands.any fun t => t.uid == u && t.dying.isSome

/-- What an ABORT does first (R362): no decrement of the graph counts any more; every strand is killed with REASON 5; every
node that runs is failed once, those whose killed strands have commands that run still when these have completed (R383). -/
def State.abortKill (s : State) (q : Nat) : State :=
  let running := ((s.dev.queue q).runs.filter (·.launched)).map (·.node)
  let s := s.onDev fun d => { d.updQueue q fun qu => { qu.withdraw with active := false, aborting := qu.active || qu.aborting } with
    cmds := d.cmds.map fun (c : Cmd) => if c.queue == q && c.node != 0 then { c with drop := true } else c }
  let s := running.foldl (fun s n => s.killNode q n 5) s
  let rest := (s.dev.queue q).runs.filter (·.launched)
  let s := (rest.filter fun r => !(s.runDying r)).foldl (fun s r => (s.devRun (markFailed q r.node)).2) s
  s.onDev fun d => (d.updQueue q fun qu => { qu with runs := rest.filter s.runDying }).nowDue

/-- ABORT (R362): the graph ends, and ABORT is cleared, once no killed strand has commands that run still (log entry
111). -/
def State.abortGraph (s : State) (q : Nat) : State :=
  if !(s.dev.queue q).abort then s
  else
    let s := s.abortKill q
    let qu := s.dev.queue q
    if !qu.runs.isEmpty then s
    else
      let s := s.onDev fun d => d.updQueue q fun qu => { qu with abort := false, aborting := false }
      let s := { s with others := s.others.filter fun t => t.live || t.dying.isSome || t.queue != q }
      if qu.aborting then (s.devRun (setGstate q 3)).2 else s

def execQueueAbort (queue : Nat) (s : State) : Out := .next (s.abortGraph queue)

end Sys2Proof.Machine
end

