-- ==== Sys2Proof/Machine/Load.lean ====
section
/-! DEFINITION. Code objects: their format, LOAD and its checks, and UNLOAD (R403 to R408). -/

namespace Sys2Proof.Machine

/-! ### The object (R403 to R406) -/

/-- A field of an image. -/
def fieldAt (bs : List Byte) (o n : Nat) : Nat := natLE ((bs.drop o).take n)

/-- A section table entry (R404). -/
structure Sect where
  kind : Nat
  perm : Nat
  align : Nat
  offset : Nat
  size : Nat
  msize : Nat
  reserved : Nat
deriving DecidableEq, Repr

def sectOf (bs : List Byte) (o : Nat) : Sect :=
  ⟨fieldAt bs o 1, fieldAt bs (o + 1) 1, fieldAt bs (o + 2) 1, fieldAt bs (o + 8) 8, fieldAt bs (o + 0x10) 8,
    fieldAt bs (o + 0x18) 8, fieldAt bs (o + 3) 5⟩

/-- A relocation entry (R404). -/
structure Reloc where
  off : Nat
  ty : Nat
  sect : Nat
  target : Nat
  zero : Nat
  addend : Int
deriving DecidableEq, Repr

def relocOf (bs : List Byte) (o : Nat) : Reloc :=
  ⟨fieldAt bs o 8, fieldAt bs (o + 8) 1, fieldAt bs (o + 9) 1, fieldAt bs (o + 10) 1, fieldAt bs (o + 11) 1,
    (BitVec.ofNat 32 (fieldAt bs (o + 12) 4)).toInt⟩

/-- Bytes of the field of a relocation. -/
def Reloc.width (r : Reloc) : Nat := if r.ty == 1 then 8 else 4

/-- Step 3 of R407, of the header alone: offsets, sizes, counts and reserved bytes. -/
def headOk (bs : List Byte) : Bool :=
  let f := fieldAt bs
  let total := f 0x08 8
  let sig := f 0x28 8
  f 0x07 1 == 0 && f 0x30 80 == 0 && decide (1 ≤ f 0x10 4) && decide (f 0x10 4 ≤ 64) && decide (f 0x14 4 ≤ 1024) &&
  decide (total ≥ 256) && sig + 128 == total && decide (f 0x18 8 + 32 * f 0x10 4 ≤ sig) &&
  decide (f 0x20 8 + 64 * f 0x14 4 ≤ sig)

/-- Step 3 of R407: the header and the signature block's reserved bytes. -/
def headerOk (bs : List Byte) : Bool :=
  headOk bs && decide (bs.length = fieldAt bs 0x08 8) && fieldAt bs (fieldAt bs 0x28 8 + 0x60) 32 == 0

def sectsOf (bs : List Byte) : List Sect :=
  (List.range (fieldAt bs 0x10 4)).map fun k => sectOf bs (fieldAt bs 0x18 8 + 32 * k)

def relocsOf (bs : List Byte) : List Reloc :=
  (sectsOf bs).flatMap fun s => if s.kind == 4 then (List.range (s.size / 16)).map fun k => relocOf bs (s.offset + 16 * k)
    else []

/-- Offsets of the kernel table's entries. -/
def kernsOf (bs : List Byte) : List Nat := (List.range (fieldAt bs 0x14 4)).map fun k => fieldAt bs 0x20 8 + 64 * k

def sectOk (sig : Nat) (s : Sect) : Bool :=
  decide (1 ≤ s.kind) && decide (s.kind ≤ 5) && decide (s.perm < 8) && (s.kind != 4 || (s.perm == 0 && s.size % 16 == 0)) &&
  decide (2 ≤ s.align) && decide (s.align ≤ 12) && s.reserved == 0 && decide (s.offset + s.size ≤ sig) &&
  decide (s.size ≤ s.msize)

def relocOk (l : List Sect) (r : Reloc) : Bool :=
  decide (1 ≤ r.ty) && decide (r.ty ≤ 3) && r.zero == 0 && decide (r.target < l.length) &&
  (match l[r.sect]? with
    | some s => s.kind != 4 && decide (r.off + r.width ≤ s.size)
    | none => false)

/-- NAME: 1 to 24 characters, ASCII, padded with zeros. -/
def nameOk (bs : List Byte) : Bool :=
  let n := (bs.takeWhile (· != 0)).length
  decide (1 ≤ n) && bs.all (fun b => decide (b.toNat < 128)) && (bs.drop n).all (· == 0)

def kernOk (bs : List Byte) (l : List Sect) (o : Nat) : Bool :=
  let f := fun (a n : Nat) => fieldAt bs (o + a) n
  let farm := f 0x28 8
  (match l.find? fun s => s.kind == 1 with
    | some t => decide (f 0 8 < t.msize) && f 0 8 % 4 == 0
    | none => false) &&
  nameOk ((bs.drop (o + 8)).take 24) && [256, 512, 1024, 2048, 4096].contains (f 0x20 2) && decide (1 ≤ f 0x22 1) &&
  decide (f 0x22 1 ≤ 4) && decide (f 0x23 1 < 2) && decide (f 0x24 2 ≤ 3072) && decide (f 0x26 1 ≤ 16) && f 0x27 1 == 0 &&
  f 0x30 8 == 0 && f 0x38 8 == 0 &&
  (if f 0x23 1 == 0 then farm == 0
   else match l[farm / 2 ^ 56]? with
    | some s => s.kind != 4 && decide (farm % 2 ^ 56 + 64 ≤ s.msize) && farm % 64 == 0
    | none => false)

/-- Step 7 of R407. -/
def tablesOk (bs : List Byte) : Bool :=
  let l := sectsOf bs
  l.all (sectOk (fieldAt bs 0x28 8)) && (relocsOf bs).all (relocOk l) && (kernsOf bs).all (kernOk bs l)

/-! ### Placing (R404, R405) -/

/-- Where each section stands: in table order, each at a 4 KiB boundary; a relocation section takes no place. -/
def sectPlaces : Nat → List Sect → List Nat
  | _, [] => []
  | a, s :: rest => a :: sectPlaces (if s.kind == 4 then a else a + align4K s.msize) rest

/-- The first 4 KiB boundary after the end of the last mapped section. -/
def tableAt (vbase : Nat) (l : List Sect) : Nat :=
  (l.zip (sectPlaces vbase l)).foldl (fun acc (s, a) => if s.perm == 0 then acc else a + align4K s.msize) vbase

/-- Put bytes into a list at an offset. -/
def patch (bs : List Byte) (o : Nat) (x : List Byte) : List Byte := bs.take o ++ x ++ bs.drop (o + x.length)

/-- A section's memory: its file bytes, zeros, and its relocated fields. -/
def sectBytes (bs : List Byte) (places : List Nat) (k : Nat) (s : Sect) : List Byte :=
  let raw := (bs.drop s.offset).take s.size ++ List.replicate (s.msize - s.size) 0
  (relocsOf bs).foldl (fun acc r =>
    if r.sect == k then
      let v := (BitVec.ofNat 64 (places.getD r.target 0) + BitVec.ofInt 64 r.addend).toNat
      patch acc r.off (if r.ty == 1 then bytesLE 8 v else if r.ty == 2 then bytesLE 4 v else bytesLE 4 (v / 2 ^ 32))
    else acc) raw

/-- A kernel table entry as the loader copies it. -/
def kernBytes (bs : List Byte) (l : List Sect) (places : List Nat) (gen o : Nat) : List Byte :=
  let text := ((l.zip places).find? fun e => e.1.kind == 1).map (·.2)
  let farm := fieldAt bs (o + 0x28) 8
  let e := (bs.drop o).take 64
  let e := patch e 0 (bytesLE 8 (text.getD 0 + fieldAt bs o 8))
  let e := if fieldAt bs (o + 0x23) 1 == 0 then e else patch e 0x28 (bytesLE 8 (places.getD (farm / 2 ^ 56) 0 + farm % 2 ^ 56))
  patch e 0x38 (bytesLE 8 gen)

/-- Every write of a load: an address and bytes. -/
def loadWrites (bs : List Byte) (vbase gen : Nat) : List (Nat × List Byte) :=
  let l := sectsOf bs
  let places := sectPlaces vbase l
  ((l.zip places).zip (List.range l.length)).filterMap (fun ((s, a), k) =>
    if s.perm == 0 then none else some (a, sectBytes bs places k s)) ++
  [(tableAt vbase l, (kernsOf bs).flatMap (kernBytes bs l places gen))]

/-! ### LOAD (R407) -/

/-- Check every byte of the writes, before any is made: the physical addresses. setD: they commit (R80). -/
def loadAddrs (c : Ctx) (setD : Bool) (va : Nat) : Nat → DevM (List Nat)
  | 0 => pure []
  | n + 1 => do
    let pa ← translate c .loader setD (addr64 va)
    let ps ← loadAddrs c setD (va + 1) n
    return pa :: ps

def loadPass (c : Ctx) (setD : Bool) : List (Nat × List Byte) → DevM (List (Nat × Byte))
  | [] => pure []
  | (a, bs) :: rest => do
    let ps ← loadAddrs c setD a bs.length
    let more ← loadPass c setD rest
    return ps.zip bs ++ more

/-- Every write with its physical addresses, or the first failure. -/
def loadAll (c : Ctx) (ws : List (Nat × List Byte)) : DevM (List (Nat × Byte)) := do
  let _ ← loadPass c false ws
  loadPass c true ws

/-- Does the signature verify (R406)? r and s are big-endian. -/
def signatureOk (bs : List Byte) : Bool :=
  let sig := fieldAt bs 0x28 8
  let be := fun (o : Nat) => natBE ((bs.drop (sig + o)).take 32)
  ecdsaVerify (BitVec.ofNat 256 (fieldAt bs sig 32)) (bs.take sig) (be 0x20) (be 0x40)

/-- Is the signer's key in a slot enabled for a function? -/
def Device.trusts (d : Device) (vf : Nat) (bs : List Byte) : Bool :=
  d.keys.any fun (_, h, m) => h == BitVec.ofNat 256 (fieldAt bs (fieldAt bs 0x28 8) 32) && m.getLsbD vf

/-- The first failing check of R407, steps 1 to 7. -/
def loadChecks (d : Device) (vf : Nat) (bs : List Byte) : Option Nat :=
  if fieldAt bs 0 4 != 0x48434F31 then some 1
  else if fieldAt bs 4 2 != 1 then some 2
  else if !(headerOk bs) then some 3
  else if !(signatureOk bs) then some 4
  else if !(d.trusts vf bs) then some 5
  else if !(fieldAt bs 6 1 == 1 || fieldAt bs 6 1 == 2) then some 6
  else if !(tablesOk bs) then some 7
  else none

/-- The loader's own translations. -/
abbrev loaderCore : Nat := 4096

/-- Read an image: its header says how long it is. Of one whose header fails a check the header is all that is read. -/
def readImage (vf a : Nat) : DevM (List Byte) := do
  let h ← gpread vf a 128
  if fieldAt h 0 4 == 0x48434F31 && fieldAt h 4 2 == 1 && headOk h then gpread vf a (fieldAt h 8 8) else return h

def loadObject (vf : Nat) (w : Nat → Nat) (s : State) : Nat × State :=
  let vbase := w 2
  if w 3 ≥ 256 || vbase % 4096 != 0 || vbase ≥ 2 ^ 48 then (admBadArg, s)
  else if ownerOf s.dev.aOwner (w 3) != vf then (admNoPerm, s)
  else match s.dev.agentOf (w 3) vf, s.devRun (readImage vf (w 1)) with
    | some a, (some bs, s) =>
      match loadChecks s.dev vf bs with
      | some st => (st, s)
      | none =>
        let gen := s.dev.nextGen
        let c : Ctx := ⟨loaderCore, vf, s.dev.readLE (a.addr + 2) 2, s.dev.readLE (a.addr + 8) 8 / 4096 % 2 ^ 40, true⟩
        match s.devRun (loadAll c (loadWrites bs vbase gen)) with
        | (none, s) => (8, s)
        | (some ws, s) =>
          (admOk, s.onDev fun d =>
            let d := d.scatter (ws.map (·.1)) (ws.map (·.2))
            let p := d.fpage vf
            { d.setFpage vf { p with admbuf := Tab.set 0 p.admbuf 1 (BitVec.ofNat 64 gen) } with
              nextGen := gen + 1, loaded := d.loaded ++ [⟨gen, fieldAt bs 6 1, vf, false⟩] })
    | _, _ => (admBadArg, s)

def execLoadObject (vf : Nat) (s : State) : Out := .next (s.admin vf 8 (loadObject vf))

/-! ### UNLOAD (R408) -/

def unload (vf : Nat) (w : Nat → Nat) (s : State) : Nat × State :=
  let g := w 1
  if w 3 ≥ 2 || w 2 % 8 != 0 then (admBadArg, s)
  else match s.dev.loaded.find? fun (l : Loaded) => l.gen == g && l.vf == vf && !l.unloading with
    | none => (admBadArg, s)
    | some _ =>
      let s := s.onDev fun d => { d with
        nextGen := d.nextGen + 1
        unloads := d.unloads ++ [⟨g, d.nextGen, vf, w 2⟩]
        loaded := d.loaded.map fun (l : Loaded) => if l.gen == g then { l with unloading := true } else l }
      if w 3 == 0 then (admOk, s)
      else (admOk, (s.strands.filter fun t => t.live && t.kern.gen == g).foldl (fun s t => s.kill t.uid 8 t.plainEv) s)

def execUnload (vf : Nat) (s : State) : Out := .next (s.admin vf 9 (unload vf))

/-- Every core has passed the unload: no strand of the generation is left, DONEADDR is written, vector 3 signals. -/
def State.unloadDone (s : State) (gen : Nat) : State :=
  match s.dev.unloads.find? fun (u : Unload) => u.gen == gen with
  | none => s
  | some u =>
    if s.strands.any fun t => t.live && t.kern.gen == gen then s
    else
      let s := (s.devRun (gpwrite u.vf u.doneAddr (bytesLE 8 u.u))).2
      s.onDev fun d => { d with
        unloads := d.unloads.filter fun (x : Unload) => x.gen != gen
        loaded := d.loaded.filter fun (l : Loaded) => l.gen != gen
        msix := d.msix ++ [(u.vf, 3)] }

def execUnloadDone (gen : Nat) (s : State) : Out := .next (s.unloadDone gen)

end Sys2Proof.Machine
end

