-- ==== Sys2Proof/Machine/Memory.lean ====
section
/-! DEFINITION. What the memory system does on its own: stores perform, registers go drowsy, the elastic queue fills,
stacks refresh and regulate activates, the scrubber scrubs, and pages move (R61 to R73, R111, R151, R160, R278). -/

namespace Sys2Proof.Machine

/-! ### Registers and the elastic queue -/

/-- A resident register that no instruction has named for 4096 clocks (R160). -/
def Device.drowse (d : Device) (uid reg : Nat) : Device :=
  { d with resid := d.resid.map fun (r : Resid) =>
      if r.uid == uid && r.reg == reg && decide (r.last + 4096 ≤ d.cyc.toNat) then { r with drowsy := true } else r }

def execRegisterDrowsy (uid reg : Nat) (s : State) : Out := .next (s.onDev (·.drowse uid reg))

/-- Entries of an elastic queue (R151). -/
abbrev elasticRoom : Nat := 64

/-- The stream-load unit of a core on which a strand has a binding fills a free entry. -/
def State.fillElastic (s : State) (core : Nat) : State :=
  let k := Tab.get 0 s.dev.elastic core
  if decide (k < elasticRoom) && (s.strands.any fun t => t.resident && t.core == core && !t.binds.isEmpty) then
    s.onDev fun d => { d with elastic := Tab.set 0 d.elastic core (k + 1) }
  else s

def execElasticQueueFill (core : Nat) (s : State) : Out := .next (s.fillElastic core)

/-! ### Stores (R111, R278, R282) -/

/-- A store of a strand takes its place in coherence order at its home slice. -/
def State.storePerforms (s : State) (uid k : Nat) : State :=
  match s.find uid with
  | none => s
  | some t =>
    if k < nextStores t.buf then
      let r := s.dev.performAt t.buf k
      ({ s with dev := r.2 }).upd uid fun t => { t with buf := r.1 }
    else s

def execStorePerform (uid index : Nat) (s : State) : Out := .next (s.storePerforms uid index)

/-! ### The stacks (R61 to R64) -/

abbrev stackCount : Nat := 16

def Stack.reset : Stack := ⟨4096, [], 0, [], []⟩
def Device.stack (d : Device) (k : Nat) : Stack := Tab.get .reset d.stks k
def Device.setStack (d : Device) (k : Nat) (x : Stack) : Device := { d with stks := Tab.set .reset d.stks k x }

/-- The home stack of a physical address (R58). -/
def stackOf (pa : Nat) : Nat :=
  Nat.xor (Nat.xor (pa / 2 ^ 8 % 16) (pa / 2 ^ 16 % 16)) (Nat.xor (pa / 2 ^ 24 % 16) (pa / 2 ^ 32 % 16))

/-- The offset in its stack (R58). -/
def stackOffset (pa : Nat) : Nat := pa / 2 ^ 12 * 256 + pa % 256

/-- Activates of the window (t - 1 µs, t]. -/
def Stack.inWindow (k : Stack) (now : Nat) : List Nat := k.acts.filter fun t => decide (now < t + 1000)

/-- A request's activate issues, unless it would bring the count above the limit. -/
def Stack.canActivate (k : Stack) (now : Nat) : Bool := decide ((k.inWindow now).length < k.actlim)

def Stack.activate (k : Stack) (now : Nat) : Stack :=
  if k.canActivate now then { k with acts := k.inWindow now ++ [now] }
  else { k with acts := k.inWindow now, held := k.held + 1 }

/-- A held activate issues when an older one has left the window (R61). -/
def Device.releaseHeld (d : Device) (k : Nat) : Device :=
  let x := d.stack k
  let now := d.gtime.toNat
  if k < stackCount ∧ 0 < x.held ∧ x.canActivate now then
    d.setStack k { x with acts := x.inWindow now ++ [now], held := x.held - 1 }
  else d

def execHeldActivateRelease (stack : Nat) (s : State) : Out := .next (s.onDev (·.releaseHeld stack))

/-- Have the stacks been trained, and the lines written (R421)? -/
def Device.stacksUp (d : Device) : Bool := decide (3 ≤ d.broughtUp)

/-- A bank under refresh; a request that meets it gets a wait hint, which hbm_retry counts (R63, R74). -/
def Device.refresh (d : Device) (k bank hint : Nat) : Device :=
  let x := d.stack k
  let due := d.gtime.toNat + hint
  if d.stacksUp ∧ k < stackCount ∧ 1 ≤ hint ∧ hint ≤ 1023 then
    { d.setStack k { x with refreshing := (bank, due) :: x.refreshing.filter (fun e => e.1 != bank),
                            retries := x.retries ++ [due] } with waits := d.waits ++ [(qtyRetry, k, hint)] }
  else d

def execStackRefresh (stack bank hint : Nat) (s : State) : Out := .next (s.onDev (·.refresh stack bank hint))

/-- The oldest request whose hint has passed is reissued (R63); refreshes that are over end. -/
def Device.reissue (d : Device) (k : Nat) : Device :=
  let x := d.stack k
  let now := d.gtime.toNat
  match x.retries.find? fun t => decide (t ≤ now) with
  | some t =>
    d.setStack k (({ x with retries := x.retries.erase t
                            refreshing := x.refreshing.filter fun e => decide (now < e.2) } : Stack).activate now)
  | none => d

def execRetryReissue (stack : Nat) (s : State) : Out := .next (s.onDev (·.reissue stack))

/-! ### The patrol scrubber (R66, R67) -/

/-- A line of a stack becomes poisoned; one that was not is counted. -/
def Device.poisonLine (d : Device) (line : Nat) : Device :=
  if d.poison.contains line then d
  else ({ d with hbmPoison := countUp d.hbmPoison (stackOf (64 * line)) } : Device).setPoison line true

/-- What a read of a line of a stack finds: a corrected error is counted, an uncorrectable one poisons the line. -/
def Device.finds (d : Device) (line : Nat) (f : ScrubFinding) : Device :=
  match f with
  | .clean => d
  | .corrected => { d with hbmCorr := countUp d.hbmCorr (stackOf (64 * line)) }
  | .uncorrectable => d.poisonLine line

/-- Is a line one of a stack? -/
def inStacks (line : Nat) : Bool := decide (64 * line < 0xC000000000)

/-- The scrubber reads a line. -/
def Device.scrub (d : Device) (line : Nat) (f : ScrubFinding) : Device :=
  if d.stacksUp && inStacks line then ({ d with scrubbed := Tab.set 0 d.scrubbed line d.gtime.toNat } : Device).finds line f else d

def execPatrolScrub (line : Nat) (finding : ScrubFinding) (s : State) : Out := .next (s.onDev (·.scrub line finding))

/-! ### Page migration (R71 to R73) -/

/-- Pages the unit moves at once. -/
abbrev migRoom : Nat := 64

def Device.inMove (d : Device) (frame : Nat) : Bool := d.migs.any fun (m : Mig) => m.old == frame || m.new == frame

/-- A move starts; a frame that is in a move, one that does not exist, or a full unit is refused with an error status. A
move holds its place until it is released (log entry 90). -/
def Device.migStart (d : Device) (old new : Nat) : Device :=
  if d.stacksUp && decide (d.migs.length < migRoom) && old != new && !(d.inMove old) && !(d.inMove new) && d.backed (old * 4096) &&
      d.backed (new * 4096) then
    { d with migs := d.migs ++ [(⟨old, new, 0, false⟩ : Mig)], migErr := false }
  else { d with migErr := true }

/-- The 64 bytes of a line, and its poison mark, copied to another line, whatever is under move. -/
def Device.copyLine (d : Device) (src dst : Nat) : Device :=
  let d := { d with mem := (List.range 64).foldl (fun m k =>
    Store.set m (64 * dst + k) (Store.get d.mem (64 * src + k))) d.mem }
  d.setPoison dst (d.poison.contains src)

/-- The unit copies the next line of a page, in ascending order, and sets its copy-done bit. DESIGN CHOICE (log entry 99): a
page under move is one frame of 4 KiB. -/
def Device.migCopy (d : Device) (old : Nat) : Device :=
  match d.migs.find? fun (m : Mig) => m.old == old with
  | some m =>
    if m.copied < 64 then
      { d.copyLine (64 * m.old + m.copied) (64 * m.new + m.copied) with
        migs := d.migs.map fun (x : Mig) => if x.old == old then { x with copied := x.copied + 1 } else x }
    else d
  | none => d

/-- The unit reports that every line is copied. -/
def Device.migDone (d : Device) (old : Nat) : Device :=
  { d with migs := d.migs.map fun (x : Mig) => if x.old == old && x.copied == 64 then { x with reported := true } else x }

/-- The supervisor releases the old frame: its redirect ends. -/
def Device.migRelease (d : Device) (old : Nat) : Device :=
  { d with migs := d.migs.filter fun (x : Mig) => !(x.old == old && x.reported) }

def execMigrationStart (oldFrame newFrame : Nat) (s : State) : Out := .next (s.onDev (·.migStart oldFrame newFrame))
def execMigrationLineCopy (oldFrame : Nat) (s : State) : Out := .next (s.onDev (·.migCopy oldFrame))
def execMigrationComplete (oldFrame : Nat) (s : State) : Out := .next (s.onDev (·.migDone oldFrame))
def execMigrationRelease (oldFrame : Nat) (s : State) : Out := .next (s.onDev (·.migRelease oldFrame))

end Sys2Proof.Machine
end

