-- ==== Sys2Proof/Machine/Links.lean ====
section
/-! DEFINITION. What arrives on the Dennel ports and what their timers do (R302 to R310): data flits, replay, lane
repair, a port that goes down, end-to-end confirms, time synchronisation. -/

namespace Sys2Proof.Machine

/-! ### Delivery (R302, R308) -/

/-- Aborts that a flit carries are heard. -/
def Device.hearAborts (d : Device) (l : List MemberAbort) : Device := l.foldl (fun d a => d.hearAbort a) d

/-- The messages of a delivered flit act on this device: memory, collective, mailbox; management is the management
core's. -/
def State.deliver (s : State) (f : List Byte) : State :=
  let m := messagesOf f
  match (headerOf f).cls with
  | 0 => s.onDev fun d => (Config.flitWrites m).foldl (fun d (a, b) => if d.backed a then d.writeByte a b else d) d
  | 1 => s.onDev fun d => ((Config.flitMembers m).foldl (fun d x => d.hear x) d).hearAborts (Config.flitAborts m)
  | 2 => (Config.flitMail m).foldl (fun s (mb, x, w) => (s.send (mb % 4096) x w).2) s
  | _ => s

/-- A confirm to an origin: ENEXT - 1, unsequenced, routed like data. The count of 64 is the deliveries' own. -/
def Device.confirm (d : Device) (origin : Nat) : Device :=
  match d.routeTo origin with
  | none => d
  | some p =>
    let e := d.ese origin
    let h : Header := ⟨fkConfirm, 0, 0, false, 0, origin, d.devId, 4⟩
    d.updPort p fun x => x.send (makeFlit h (bytesLE 4 ((e.enext + eseqCount - 1) % eseqCount)))

/-- The flit that is next from its origin is delivered; every 64 deliveries are confirmed. -/
def State.deliverNext (s : State) (f : List Byte) : State :=
  let src := (headerOf f).src
  let s := s.deliver f
  s.onDev fun d =>
    let e := d.ese src
    let d := d.setEse { e with enext := (e.enext + 1) % eseqCount, sinceConfirm := (e.sinceConfirm + 1) % 64,
                               lastDelivery := some d.gtime.toNat }
    if e.sinceConfirm + 1 ≥ 64 then d.confirm src else d

/-- Held flits that are now next are delivered in turn. -/
def State.deliverHeld (src : Nat) : Nat → State → State
  | 0, s => s
  | n + 1, s =>
    let e := s.dev.ese src
    match e.held.find? fun h => h.1 == e.enext with
    | some h =>
      State.deliverHeld src n
        ((s.onDev fun d => d.setEse { e with held := e.held.filter fun x => x.1 != h.1 }).deliverNext h.2)
    | none => s

/-- A data flit reaches its destination (R308). -/
def State.arrive (s : State) (f : List Byte) : State :=
  let src := (headerOf f).src
  let q := eseqOf f
  let e := s.dev.ese src
  if q == e.enext then State.deliverHeld src 512 (s.deliverNext f)
  else
    let ahead := (q + eseqCount - e.enext) % eseqCount
    if 1 ≤ ahead ∧ ahead ≤ 511 ∧ !(e.held.any fun h => h.1 == q) then
      s.onDev fun d => d.setEse { e with held := e.held ++ [(q, f)] }
    else s

/-- A flit accepted in sequence: discarded and counted, forwarded, or taken at its destination (R302, R308). -/
def State.accept (s : State) (p : Nat) (f : List Byte) : State :=
  let h := headerOf f
  if h.cls > 3 ∨ h.len > 244 ∨ h.len < 4 then s.onDev fun d => { d with linkProto := countUp d.linkProto p }
  else if h.dst == s.dev.devId then s.arrive f
  else match s.dev.routeTo h.dst with
    | some out => s.onDev fun d => d.sendData out [f]
    | none => s.onDev fun d => if h.cls == 0 then { d with linkLost := d.linkLost + Config.flitStores (messagesOf f) } else d

/-! ### What arrives (R303 to R305) -/

/-- A port that is up. -/
def Device.portUp (d : Device) (p : Nat) : Bool := decide (p < portCount) && (d.port p).up

/-- The receiver asks for a replay from expected. -/
def Device.askReplay (d : Device) (p : Nat) : Device :=
  (d.updPort p fun x => { x with asked := true }).sendPlain p fkReplay true []

/-- A flit whose CRC fails: it is discarded whole, the failure is put down to lanes the physical layer names (a free
value), and a replay is asked for (R303, R305, R306). -/
def Device.crcFail (d : Device) (p : Nat) : Device :=
  let now := d.gtime.toNat
  let lanes := (List.range 8).filter fun k => (Config.freeWord d.free).getLsbD k
  let errs := (d.port p).laneErrs.filter (fun e => decide (now < e.2 + 1000000)) ++ lanes.map fun k => (k, now)
  let d := { d with free := d.free + 1 }
  (({ d with crcErrs := countUp d.crcErrs p } : Device).updPort p fun x => { x with laneErrs := errs }).askReplay p

/-- A data flit that passes its CRC, by d = SEQ - expected (R305). -/
def State.dataIn (s : State) (p : Nat) (f : List Byte) : State :=
  let x := s.dev.port p
  let d := ((headerOf f).seq + 4096 - x.expected) % 4096
  if d == 0 then
    let s := s.onDev fun d => d.updPort p fun x => { x with expected := (x.expected + 1) % 4096, asked := false }
    (s.accept p f).onDev fun d => d.sendPlain p fkAck true []
  else if d ≤ 2047 then (if x.asked then s else s.onDev (·.askReplay p))
  else s.onDev fun d => d.sendPlain p fkAck true []

/-- A flit arrives on a port that is up: its CRC, its acknowledgement, and what its kind does. The payload of a reserved
KIND, and one longer than a flit holds, is discarded and counted (R302); of a data flit that is done in its sequence. An idle
flit brings its acknowledgement alone. -/
def State.flitIn (s : State) (p kind : Nat) (f : List Byte) (act : State → State) : State :=
  if !(s.dev.portUp p) then s
  else if !(flitOk f) then s.onDev (·.crcFail p)
  else
    let h := headerOf f
    let count := fun (d : Device) => { d with linkProto := countUp d.linkProto p }
    if h.kind > 6 || (h.len > 244 && h.kind != fkData) then s.onDev fun d => count (d.takeAck p h)
    else if h.kind == kind then act (s.onDev fun d => d.takeAck p h)
    else if h.kind == fkIdle then s.onDev fun d => d.takeAck p h
    else s

def execDataFlit (port : Nat) (flit : List (BitVec 8)) (s : State) : Out :=
  .next (s.flitIn port fkData flit fun s => s.dataIn port flit)

/-- An acknowledgement has been taken from its header. -/
def execAcknowledgeFlit (port : Nat) (flit : List (BitVec 8)) (s : State) : Out := .next (s.flitIn port fkAck flit id)

/-- The sender resends from ACK + 1; a port under repair answers in step 3 (R305, R306). -/
def Device.answerReplay (d : Device) (p : Nat) : Device :=
  if (d.port p).repairing.isSome then d else d.resendPort p

def execReplayRequest (port : Nat) (flit : List (BitVec 8)) (s : State) : Out :=
  .next (s.flitIn port fkReplay flit fun s => s.onDev (·.answerReplay port))

/-- No progress for 2 µs: the sender resends from the oldest flit (R305). -/
def Device.replayTimeout (d : Device) (p : Nat) : Device :=
  let x := d.port p
  if d.portUp p && x.repairing.isNone && !x.replay.isEmpty && decide (x.lastAck + 2000 ≤ d.gtime.toNat) then d.resendPort p
  else d

def execReplayTimeout (port : Nat) (s : State) : Out := .next (s.onDev (·.replayTimeout port))

/-! ### Lane repair (R306) -/

/-- Has a lane collected LTHR failures within 1 ms? -/
def Device.failingLane (d : Device) (p lane : Nat) : Bool :=
  decide (((d.port p).laneErrs.filter fun e => e.1 == lane && decide (d.gtime.toNat < e.2 + 1000000)).length ≥ d.ltHr)

/-- A port goes down, and management receives an event. -/
def Device.takeDown (d : Device) (p : Nat) : Device :=
  if (d.port p).up then (d.updPort p fun x => { x with up := false, lanes := 0 }).raise srcPort p evPortDown 0 else d

/-- Step 1 of a repair: the port sends no new data flit until its replay buffer has drained. named: the other end asked. -/
def Device.beginRepair (d : Device) (p lane : Nat) (named : Bool) : Device :=
  let x := d.port p
  let d := d.updPort p fun x =>
    { x with repairing := some lane, draining := true, repairAt := d.gtime.toNat, named := named }
  if x.replay.isEmpty then d.drained p lane else d

/-- A failing lane: on eight lanes the port repairs itself; a second lane lost takes it down. -/
def Device.repairLane (d : Device) (p lane : Nat) : Device :=
  let x := d.port p
  if !(d.portUp p) || decide (lane ≥ 8) || x.dropped == some lane || x.repairing == some lane ||
      !(d.failingLane p lane) then d
  else if x.lanes == 8 && x.repairing.isNone then d.beginRepair p lane false
  else d.takeDown p

def execLaneRepair (port lane : Nat) (s : State) : Out := .next (s.onDev (·.repairLane port lane))

/-- The drain limit of 10 µs has passed: the port retrains. -/
def Device.drainTimeout (d : Device) (p : Nat) : Device :=
  let x := d.port p
  match x.repairing with
  | some lane =>
    if d.portUp p && x.draining && decide (x.repairAt + 10000 ≤ d.gtime.toNat) then d.drained p lane else d
  | none => d

def execRepairDrainTimeout (port : Nat) (s : State) : Out := .next (s.onDev (·.drainTimeout port))

/-- The other end names the lane it has dropped. An end that has retrained resumes; one that drains goes on draining first;
one that did not know of it begins its own repair (log entry 91). A second lane takes the port down. -/
def Device.repairFlit (d : Device) (p lane : Nat) : Device :=
  let x := d.port p
  match x.repairing with
  | some l =>
    if l != lane then d.takeDown p
    else if x.draining then d.updPort p fun x => { x with named := true }
    else d.resumePort p
  | none =>
    if x.dropped == some lane then d
    else if x.lanes == 8 then d.beginRepair p lane true
    else d.takeDown p

def execLaneRepairFlit (port : Nat) (flit : List (BitVec 8)) (s : State) : Out :=
  .next (s.flitIn port fkRepair flit fun s => s.onDev fun d => d.repairFlit port (flitField flit 8 1 % 8))

/-! ### A port goes down (R307) -/

/-- Are two data flits of one origin and destination, the first of the lower ESEQ? -/
def beforeFlit (a b : List Byte) : Bool :=
  (headerOf a).src == (headerOf b).src && (headerOf a).dst == (headerOf b).dst &&
  decide ((eseqOf b + eseqCount - eseqOf a) % eseqCount < 2 ^ 31) && eseqOf a != eseqOf b

def insertFlit (f : List Byte) : List (List Byte) → List (List Byte)
  | [] => [f]
  | g :: l => if beforeFlit f g then f :: g :: l else g :: insertFlit f l

/-- Ascending ESEQ for each origin and destination. -/
def inEseqOrder (l : List (List Byte)) : List (List Byte) := l.foldl (fun acc f => insertFlit f acc) []

/-- Collective commands that need a device no route reaches end with LINKDOWN, or with a status that comes before it
(R316). -/
def Device.linkDown (d : Device) (lost : List Nat) : Device :=
  (d.cmds.filter fun (c : Cmd) => c.port == 2 && c.state == .started).foldl (fun d (c : Cmd) =>
    match c.own with
    | some own =>
      if (c.needDevs (d.collGroup c.gid).members).any lost.contains then
        d.collEnd c own.rank ((d.collStatus c own).getD 0x93) 0 0
      else d
    | none => d) d

/-- Flits that a port had still to send or to have acknowledged go to the ports that now reach their destinations, ahead of
what waits there. -/
def Device.reroute (d : Device) (fs : List (List Byte)) : Device :=
  (List.range portCount).foldl (fun d r =>
    let mine := fs.filter fun f => d.routeTo (headerOf f).dst == some r
    if mine.isEmpty then d
    else d.updPort r fun y => Port.pump d.gtime.toNat (mine.length + y.queue.length) { y with queue := mine ++ y.queue }) d

/-- The port is down. Each of its routes moves to the port that management names for its device, if that is up; a device
with none is lost, and so is the traffic to it, whose stores are counted. -/
def Device.portGone (d : Device) (p : Nat) (routes : List (Nat × Nat)) : Device :=
  if p ≥ portCount then d
  else
    let d := d.takeDown p
    let x := d.port p
    let fs := inEseqOrder (x.replay.map (·.2)) ++ x.queue
    let d := d.setPort p { x with replay := [], queue := [], repairing := none, draining := false, named := false }
    let moved := fun (dev : Nat) => ((routes.find? fun r => r.1 == dev && r.2 != p && d.portUp r.2).map (·.2))
    let lost := (d.routes.filter fun e => e.2 == p && (moved e.1).isNone).map (·.1)
    let gone := fs.filter fun f => lost.contains (headerOf f).dst
    let d := { d with
      routes := d.routes.filterMap fun (e : Nat × Nat) => if e.2 == p then (moved e.1).map fun r => (e.1, r) else some e
      unreachable := d.unreachable ++ lost
      linkLost := d.linkLost + ((gone.filter fun f => (headerOf f).cls == 0).map fun f => Config.flitStores (messagesOf f)).sum }
    (d.reroute fs).linkDown lost

def execPortDown (port : Nat) (routes : List (Nat × Nat)) (s : State) : Out := .next (s.unit (·.portGone port routes))

/-! ### Confirms (R308) -/

/-- A confirm covers every ESEQ up to its value; flits held back go. One for another device is forwarded. -/
def Device.confirmed (d : Device) (f : List Byte) : Device :=
  let h := headerOf f
  if h.dst != d.devId then
    match d.routeTo h.dst with
    | some out => d.updPort out (·.send f)
    | none => d
  else
    let e := d.ese h.src
    let upTo := (flitField f 8 4 + 1) % eseqCount
    if (upTo + eseqCount - e.confirmed) % eseqCount ≤ (e.next + eseqCount - e.confirmed) % eseqCount then
      (d.setEse { e with confirmed := upTo }).release h.src e.waiting.length
    else d

def execEndToEndConfirm (port : Nat) (flit : List (BitVec 8)) (s : State) : Out :=
  .next (s.flitIn port fkConfirm flit fun s => s.onDev (·.confirmed flit))

/-- Every 2 µs: a confirm to an origin from which a flit was delivered in the last 1 ms. -/
def Device.confirmTick (d : Device) (origin : Nat) : Device :=
  match (d.ese origin).lastDelivery with
  | some t => if d.gtime.toNat ≤ t + 1000000 then d.confirm origin else d
  | none => d

def execConfirmTimer (origin : Nat) (s : State) : Out := .next (s.onDev (·.confirmTick origin))

/-! ### Time synchronisation (R309, R310) -/

/-- The payload of a sync flit. -/
def Device.syncPayload (d : Device) (p : Nat) : List Byte :=
  let x := d.port p
  bytesLE 8 d.gtime.toNat ++ bytesLE 8 x.ltx ++ bytesLE 8 (d.gtime.toNat - x.lrx) ++ bytesLE 2 d.sync.depth ++
    bytesLE 2 d.sync.root

def execTimeSyncSend (port : Nat) (s : State) : Out :=
  .next (s.onDev fun d => if d.portUp port then d.sendPlain port fkSync false (d.syncPayload port) else d)

/-- The depth that a device without synchronisation names. -/
abbrev unsynced : Nat := 0xFFFF

/-- Time without a sync flit after which a neighbour counts as silent (log entry 92): 10 ms. -/
abbrev syncLimit : Nat := 10000000

/-- The port whose neighbour has the lowest DEPTH, the lowest port at a tie (R310). -/
def Device.syncPort (d : Device) : Option Nat :=
  ((List.range portCount).filter fun p => d.portUp p && (d.port p).syncDepth != unsynced &&
      decide (d.gtime.toNat < (d.port p).lrx + syncLimit)).foldl (fun best p =>
    match best with
    | none => some p
    | some b => if (d.port p).syncDepth < (d.port b).syncDepth then some p else some b) none

/-- 2θ = 2 (TTX + δ - trx), with δ = ((trx - TECHO) - THOLD) / 2. -/
def twiceOffset (ttx techo thold trx : Nat) : Int :=
  2 * (ttx : Int) + (((trx : Int) - techo) - thold) - 2 * trx

/-- The device follows the nearest neighbour that is synchronised: its own DEPTH is that neighbour's plus 1. -/
def Device.follow (d : Device) : Device :=
  match d.syncPort with
  | some p => { d with sync := { d.sync with depth := (d.port p).syncDepth + 1, root := (d.port p).syncRoot } }
  | none => d

/-- A sync flit: the neighbour's depth is noted, and the device, if it is not the root, follows the nearest one; it slews
by a flit of the neighbour it follows. -/
def Device.syncIn (d : Device) (p : Nat) (f : List Byte) : Device :=
  let trx := d.gtime.toNat
  let depth := flitField f 32 2
  let d := d.updPort p fun x =>
    { x with ltx := flitField f 8 8, lrx := trx, syncDepth := depth, syncRoot := flitField f 34 2 }
  let d := if depth == unsynced then d else { d with sync := { d.sync with lastUsable := trx, lost := false } }
  if d.sync.depth == 0 then d
  else
    let d := d.follow
    if depth != unsynced && d.syncPort == some p then
      let off := twiceOffset (flitField f 8 8) (flitField f 16 8) (flitField f 24 8) trx
      { d with sync := { d.sync with slew := off, twice := off } }
    else d

def execTimeSyncFlit (port : Nat) (flit : List (BitVec 8)) (s : State) : Out :=
  .next (s.flitIn port fkSync flit fun s => s.onDev fun d => d.syncIn port flit)

/-- No usable sync flit for 10 ms: the clock runs free. -/
def Device.syncLost (d : Device) : Device :=
  if d.sync.depth != 0 && decide (d.sync.lastUsable + syncLimit ≤ d.gtime.toNat) then
    { d with sync := { d.sync with depth := unsynced, slew := 0, lost := true } }
  else d

def execTsyncLost (s : State) : Out := .next (s.onDev (·.syncLost))

end Sys2Proof.Machine
end

