-- ==== Sys2Proof/Machine/SmallMat.lean ====
section
/-! DEFINITION. Per-lane small matrices: opcodes 0x78 to 0x7A (R264 to R277). -/

namespace Sys2Proof.Machine

/-! ### Entries and shapes -/

def smRows (o : Operands) : Nat := o.fnBits 3 3 + 1
def smCols (o : Operands) : Nat := o.fnBits 0 3 + 1

/-- The bits of an entry that TYPE reads (R264). -/
def Strand.entry (t : Strand) (ty : Ty) (lane m r c : Nat) : Nat := (t.mAt lane m r c).toNat % 2 ^ ty.bits

/-- Entries (r, c) of the R × C corner, row-major. -/
def corner (rows cols : Nat) : List (Nat × Nat) :=
  (List.range rows).flatMap fun r => (List.range cols).map fun c => (r, c)

/-- Write the corner of a register. -/
def Strand.putCorner (t : Strand) (lane m rows cols : Nat) (f : Nat → Nat → Nat) : Strand :=
  (corner rows cols).foldl (fun t (r, c) => t.setM lane m r c (BitVec.ofNat 64 (f r c))) t

/-- The element loop over lanes: vl is at most 64 (R268). The state takes the sources' sets, those of streams among them
(R265). -/
def smRun (e : EOp) (o : Operands) : Run Unit := do
  let t ← Run.cur
  let sh := e.sh o
  let x := t.sourceSet o sh (t.names o)
  if sh.cls == .sm && o.op == 0x78 then (if o.im 8 4 == 1 then awaitStore x else await x) else pure ()
  vecLoop o sh (fun t _ => decide (t.vl ≤ 64)) (e.body o)

def smShape (o : Operands) (d a b : RegK) : Shape := { cls := .sm, d := d, dTy := o.ty, a := a, b := b, sm := true }

/-! ### Load, store and moves (R269) -/

/-- The slice offset of an entry. -/
def smOffset (o : Operands) (t : Strand) (n : Names) (r c : Nat) : Word :=
  t.s n.a + BitVec.ofNat 64 ((r * smCols o + c) * o.ty.bytes)

/-- Check every entry, row-major. -/
def smCheckAll (o : Operands) (acc : Acc) (lane : Nat) (n : Names) : List (Nat × Nat) → Run Unit
  | [] => pure ()
  | (r, c) :: rest => do
    let t ← Run.cur
    sliceCheck acc lane (smOffset o t n r c) o.ty.bytes
    smCheckAll o acc lane n rest

def opSmld : EOp :=
  { sh := fun o => smShape o .m .s .z
    body := fun o n _ i => do
      let lane := laneOf o.ty.width i
      smCheckAll o .load lane n (corner (smRows o) (smCols o))
      Run.onCur fun t => t.putCorner lane n.d (smRows o) (smCols o) fun r c =>
        t.sliceGet lane (smOffset o t n r c).toNat o.ty.bytes }

def opSmst : EOp :=
  { sh := fun o => { smShape o .m .s .z with writes := false }
    body := fun o n _ i => do
      let lane := laneOf o.ty.width i
      smCheckAll o .store lane n (corner (smRows o) (smCols o))
      Run.onCur fun t => (corner (smRows o) (smCols o)).foldl (fun c (r, k) =>
        c.slicePut lane (smOffset o t n r k).toNat o.ty.bytes (t.entry o.ty lane n.d r k)) t }

def opSmget : EOp :=
  { sh := fun o => { smShape o .v .m .z with more := [.sm] }
    body := fun o n _ i => Run.onCur fun t =>
      t.setElem o.ty.width n.d i (t.entry o.ty (laneOf o.ty.width i) n.a (o.fnBits 3 3) (o.fnBits 0 3)) }

def opSmput : EOp :=
  { sh := fun o => smShape o .m .v .z
    body := fun o n _ i => do
      let x ← src o.ty n.a i
      Run.onCur fun t => t.setM (laneOf o.ty.width i) n.d (o.fnBits 3 3) (o.fnBits 0 3) (BitVec.ofNat 64 x) }

/-! ### Rounding in a lane (R268, R182) -/

/-- The lane's stochastic state and the flags so far: both tentative until the lane commits. -/
abbrev LaneM (α : Type) := StateM (BitVec 16 × Flags) α

/-- TYPE, mode, FZ. -/
structure LaneCtx where
  ty : Ty
  mode : Nat
  fz : Bool

/-- ⟨x⟩: one rounding; nv: an invalid operation inside x. -/
def round1 (k : LaneCtx) (x : Num × Bool) : LaneM Nat := fun (sg, f) =>
  let sg := if k.mode == 5 then srStep sg else sg
  let (r, g) := roundTo k.ty k.mode k.fz false sg.toNat x.1
  (r, (sg, f.or (g.nvIf x.2)))

def LaneCtx.num (k : LaneCtx) (bits : Nat) : Num := decodeFz k.fz k.ty bits

/-- x + y or x - y, exactly. -/
def plus (k : LaneCtx) (x : Num × Bool) (y : Num × Bool) : Num × Bool :=
  let (z, nv) := x.1.add k.mode y.1
  (z, nv || x.2 || y.2)
def minus (k : LaneCtx) (x : Num × Bool) (y : Num × Bool) : Num × Bool := plus k x (y.1.negate, y.2)

/-- start ± the sum of products: one exact sum. NV: of it, of a product, or of the start. -/
def dot (k : LaneCtx) (sub : Bool) (start : Option (Num × Bool)) (l : List (Num × Num)) : Num × Bool :=
  let ps := l.map fun (a, b) => a.mul b
  let z := Num.sum k.mode ((start.map (·.1)).toList ++ ps.map fun p => if sub then p.1.negate else p.1)
  (z.1, z.2 || (match start with
    | some x => x.2
    | none => false) || ps.any (·.2))

/-- An exact value divided by a nonzero number. -/
def over1 (x : Num × Bool) (y : Num) : Num × Bool :=
  let (q, nv, _) := x.1.div y
  (q, nv || x.2)

/-- A matrix of encodings. -/
abbrev Mat := Nat → Nat → Nat

def Mat.put (m : Mat) (r c x : Nat) : Mat := fun i j => if i == r && j == c then x else m i j
def Mat.swap (m : Mat) (p j cols : Nat) : Mat := fun r c =>
  if c < cols then m (if r == p then j else if r == j then p else r) c else m r c

/-- A new matrix of the corner, entry by entry in row-major order. -/
def build (rows cols : Nat) (f : Nat → Nat → LaneM Nat) : LaneM Mat :=
  (corner rows cols).foldlM (fun (m : Mat) (r, c) => do
    let x ← f r c
    return m.put r c x) fun _ _ => 0

/-! ### Arithmetic (R271) -/

/-- What a lane's computation gives: the matrix, the column at which it is singular, and a permutation. -/
structure SmResult where
  m : Mat
  sing : Option Nat := none
  perm : List Nat := []

/-- Run a lane's computation and commit it, or stop (R268, R276). -/
def smCommit (o : Operands) (n : Names) (i rows cols : Nat) (clr : Bool) (comp : LaneCtx → Strand → LaneM SmResult)
    (more : Strand → SmResult → Strand) : Run Unit := do
  let t ← Run.cur
  let lane := laneOf o.ty.width i
  let k : LaneCtx := ⟨o.ty, t.mode o, t.fz⟩
  let (res, sg, f) := (comp k t).run (Store.get t.regs.sigma lane, .none)
  match t.fpStop f with
  | some c => Run.trap c 0
  | none =>
    if res.sing.isSome && t.fcsrBit 21 then Run.trap .smSing 0
    else Run.onCur fun t =>
      let t := t.raise f
      let m := match res.sing with
        | some j => fun r c => if c < j then res.m r c else canonNan o.ty
        | none => res.m
      let t := t.putCorner lane n.d rows cols m
      let flag := putBit t.csr.smflag lane (res.sing.isSome || (!clr && t.csr.smflag.getLsbD lane))
      let t := { t with csr := { t.csr with smflag := flag }
                        regs := { t.regs with sigma := Store.set t.regs.sigma lane sg } }
      more t res

/-- An instruction of opcode 0x79: entry (r, c) of the result is rounded once. -/
def smArith (b : RegK) (readsD : Bool) (entry : LaneCtx → Operands → (Nat → Mat) → Num → Nat → Nat → Num × Bool) : EOp :=
  { sh := fun o => { smShape o .m .m b with rm := true, readsD := readsD }
    body := fun o n _ i => do
      let sc ← if b == .v then src o.ty n.b i else pure 0
      smCommit o n i (smRows o) (smCols o) false (fun k t => do
        let lane := laneOf o.ty.width i
        let mat := fun (x : Nat) => t.entry o.ty lane (if x == 0 then n.d else if x == 1 then n.a else n.b)
        let m ← build (smRows o) (smCols o) fun r c => round1 k (entry k o mat (k.num sc) r c)
        return { m := m }) fun t _ => t }

/-- Products A[r][k] × B[k][c]. -/
def products (k : LaneCtx) (o : Operands) (mat : Nat → Mat) (r c : Nat) : List (Num × Num) :=
  (List.range (o.im 0 3 + 1)).map fun j => (k.num (mat 1 r j), k.num (mat 2 j c))

def opSmmul : EOp := smArith .m false fun k o mat _ r c => dot k false none (products k o mat r c)
def opSmmac : EOp := smArith .m true fun k o mat _ r c =>
  dot k false (some (k.num (mat 0 r c), false)) (products k o mat r c)
def opSmadd : EOp := smArith .m false fun k _ mat _ r c => (k.num (mat 1 r c)).add k.mode (k.num (mat 2 r c))
def opSmsub : EOp := smArith .m false fun k _ mat _ r c => (k.num (mat 1 r c)).add k.mode (k.num (mat 2 r c)).negate
def opSmscal : EOp := smArith .v false fun k _ mat x r c => (k.num (mat 1 r c)).mul x

/-- SMTRN moves raw bits; all of the source is read first. -/
def opSmtrn : EOp :=
  { sh := fun o => smShape o .m .m .z
    body := fun o n _ i => Run.onCur fun t =>
      t.putCorner (laneOf o.ty.width i) n.d (smCols o) (smRows o) fun r c => t.entry o.ty (laneOf o.ty.width i) n.a c r }

/-! ### Factors (R273, R274) -/

/-- Is d a NaN, or at most zero? -/
def notPositive (d : Num) : Bool := d.isNan || d.le .zero

/-- Column j of the Cholesky factor. -/
def cholColumn (k : LaneCtx) (n : Nat) (a : Mat) (st : SmResult) (j : Nat) : LaneM SmResult := do
  if st.sing.isSome then return st
  else do
    let l := fun (r c : Nat) => k.num (st.m r c)
    let d ← round1 k (dot k true (some (k.num (a j j), false)) ((List.range j).map fun x => (l j x, l j x)))
    if notPositive (k.num d) then return { st with sing := some j }
    else do
      let root ← round1 k (k.num d).sqrt
      let m ← ((List.range n).filter (fun i => decide (j < i))).foldlM (fun (m : Mat) i => do
        let x ← round1 k (over1 (dot k true (some (k.num (a i j), false)) ((List.range j).map fun x => (l i x, l j x)))
          (k.num root))
        return m.put i j x) (st.m.put j j root)
      return { st with m := m }

def cholesky (k : LaneCtx) (n : Nat) (a : Mat) : LaneM SmResult :=
  (List.range n).foldlM (cholColumn k n a) { m := fun _ _ => 0 }

/-- The state of an LU factorisation: w the working copy, m the factors, perm π. -/
structure LuState where
  w : Mat
  m : Mat
  perm : List Nat
  sing : Option Nat

/-- The lowest row at or after j with the largest magnitude. -/
def pivotRow (k : LaneCtx) (j : Nat) (ws : List Nat) : Nat :=
  (ws.zip (List.range ws.length)).foldl (fun best (x, r) =>
    if (k.num (ws.getD (best - j) 0)).abs.lt (k.num x).abs then j + r else best) j

/-- Column j of the factorisation by partial pivoting. -/
def luColumn (k : LaneCtx) (n : Nat) (st : LuState) (j : Nat) : LaneM LuState := do
  if st.sing.isSome then return st
  else do
    let v := fun (r c : Nat) => k.num (st.m r c)
    let ws ← ((List.range (n - j)).map (j + ·)).foldlM (fun (l : List Nat) i => do
      let x ← round1 k (dot k true (some (k.num (st.w i j), false)) ((List.range j).map fun x => (v i x, v x j)))
      return l ++ [x]) []
    if ws.any (fun x => (k.num x).isNan) || ws.all (fun x => (k.num x).isZero) then return { st with sing := some j }
    else do
      let p := pivotRow k j ws
      let sw := fun (r : Nat) => if r == p then j else if r == j then p else r
      let w := st.w.swap p j n
      let m := st.m.swap p j j
      let wAt := fun (r : Nat) => ws.getD (sw r - j) 0
      let perm := (List.range st.perm.length).map fun r => st.perm.getD (sw r) 0
      let m := m.put j j (wAt j)
      let m ← ((List.range n).filter (fun c => decide (j < c))).foldlM (fun (m : Mat) c => do
        let x ← round1 k (dot k true (some (k.num (w j c), false))
          ((List.range j).map fun x => (k.num (m j x), k.num (m x c))))
        return m.put j c x) m
      let m ← ((List.range n).filter (fun i => decide (j < i))).foldlM (fun (m : Mat) i => do
        let x ← round1 k (over1 (k.num (wAt i), false) (k.num (wAt j)))
        return m.put i j x) m
      return { st with w := w, m := m, perm := perm }

def luFactor (k : LaneCtx) (n : Nat) (a : Mat) : LaneM SmResult := do
  let st ← (List.range n).foldlM (luColumn k n) ⟨a, fun _ _ => 0, List.range 6, none⟩
  return { m := st.m, sing := st.sing, perm := st.perm }

/-! ### Solve (R275) -/

/-- One row of a substitution: (b - Σ a × y) / a_rr, or without the division. -/
def solveRow (k : LaneCtx) (b : Nat) (terms : List (Nat × Nat)) (diag : Option Nat) : LaneM Nat :=
  let s := dot k true (some (k.num b, false)) (terms.map fun (x, y) => (k.num x, k.num y))
  round1 k (match diag with
    | some d => over1 s (k.num d)
    | none => s)

/-- Forward over rows 0 to n - 1, or back over n - 1 to 0, of a column y; a r c is the coefficient. -/
def substitute (k : LaneCtx) (n : Nat) (back unit : Bool) (a : Mat) (y : List Nat) : LaneM (List Nat) :=
  (if back then (List.range n).reverse else List.range n).foldlM (fun (y : List Nat) r => do
    let js := (List.range n).filter fun j => if back then decide (r < j) else decide (j < r)
    let x ← solveRow k (y.getD r 0) (js.map fun j => (a r j, y.getD j 0)) (if unit then none else some (a r r))
    return y.set r x) y

/-- One column of the solution. -/
def solveColumn (k : LaneCtx) (n mode : Nat) (a : Mat) (perm : List Nat) (b : Nat → Nat) : LaneM (List Nat) := do
  let y := (List.range n).map b
  match mode with
  | 0 => do
    let y ← substitute k n false false a y
    substitute k n true false (fun r c => a c r) y
  | 1 => do
    let y ← substitute k n false true a (perm.map b)
    substitute k n true false a y
  | 2 => substitute k n false false a y
  | _ => substitute k n true false a y

/-- Singular before any arithmetic. -/
def solveSingular (k : LaneCtx) (n mode : Nat) (a : Mat) (perm : List Nat) : Bool :=
  ((List.range n).any fun j => (k.num (a j j)).isNan || (k.num (a j j)).isZero) ||
  (mode == 1 && !((List.range n).all fun q => perm.contains q))

def solve (k : LaneCtx) (n cols mode : Nat) (a b : Mat) (perm : List Nat) : LaneM SmResult := do
  if solveSingular k n mode a perm then return { m := fun _ _ => 0, sing := some 0 }
  else
    let m ← (List.range cols).foldlM (fun (m : Mat) c => do
      let y ← solveColumn k n mode a perm fun r => b r c
      return fun r j => if j == c then y.getD r 0 else m r j) fun _ _ => 0
    return { m := m }

/-! ### Factor and solve (0x7A) -/

/-- .clr -/
def smClr (o : Operands) : Bool := o.im 0 1 == 1

def opSmchol : EOp :=
  { sh := fun o => { smShape o .m .m .z with rm := true }
    body := fun o n _ i => smCommit o n i (smRows o) (smCols o) (smClr o)
      (fun k t => cholesky k (smRows o) (t.entry o.ty (laneOf o.ty.width i) n.a)) fun t _ => t }

/-- The element that holds π: three bits a row. -/
def permBits (perm : List Nat) : Nat :=
  (List.range 6).foldl (fun acc q => acc + perm.getD q q * 2 ^ (3 * q)) 0

def opSmlu : EOp :=
  { sh := fun o => { smShape o .m .m .z with rm := true, wrote := idsOf .v o.ty o.b.toNat }
    body := fun o n _ i => smCommit o n i (smRows o) (smCols o) (smClr o)
      (fun k t => luFactor k (smRows o) (t.entry o.ty (laneOf o.ty.width i) n.a))
      fun t r => t.setElem o.ty.width n.b i (permBits r.perm) }

/-- The mode of SMSOLV and the register of its permutation. -/
def solveMode (o : Operands) : Nat := o.im 1 2
def solvePerm (o : Operands) : Nat := o.im 3 5

def opSmsolv : EOp :=
  { sh := fun o => { smShape o .m .m .m with rm := true, vmore := if solveMode o == 1 then [solvePerm o] else [] }
    body := fun o n _ i => do
      let p ← if solveMode o == 1 then src o.ty (solvePerm o) i else pure 0
      let perm := (List.range (smRows o)).map fun q => p / 2 ^ (3 * q) % 8
      let lane := laneOf o.ty.width i
      smCommit o n i (smRows o) (smCols o) (smClr o)
        (fun k t => solve k (smRows o) (smCols o) (solveMode o) (t.entry o.ty lane n.a) (t.entry o.ty lane n.b) perm)
        fun t _ => t }

/-! ### Meanings -/

def execSmld (o : Operands) (s : State) : Out := instr o (smRun opSmld o) s
def execSmst (o : Operands) (s : State) : Out := instr o (smRun opSmst o) s
def execSmget (o : Operands) (s : State) : Out := instr o (smRun opSmget o) s
def execSmput (o : Operands) (s : State) : Out := instr o (smRun opSmput o) s
def execSmmul (o : Operands) (s : State) : Out := instr o (smRun opSmmul o) s
def execSmmac (o : Operands) (s : State) : Out := instr o (smRun opSmmac o) s
def execSmadd (o : Operands) (s : State) : Out := instr o (smRun opSmadd o) s
def execSmsub (o : Operands) (s : State) : Out := instr o (smRun opSmsub o) s
def execSmtrn (o : Operands) (s : State) : Out := instr o (smRun opSmtrn o) s
def execSmscal (o : Operands) (s : State) : Out := instr o (smRun opSmscal o) s
def execSmchol (o : Operands) (s : State) : Out := instr o (smRun opSmchol o) s
def execSmlu (o : Operands) (s : State) : Out := instr o (smRun opSmlu o) s
def execSmsolv (o : Operands) (s : State) : Out := instr o (smRun opSmsolv o) s

end Sys2Proof.Machine
end

