-- ==== Sys2Proof/Machine/Matrix.lean ====
section
/-! DEFINITION. The matrix engine: opcodes 0x70 to 0x74 (R243 to R263). -/

namespace Sys2Proof.Machine

/-! ### The granted tile (R245) -/

def Strand.tm (t : Strand) : Nat := t.csr.tm.toNat
def Strand.tn (t : Strand) : Nat := t.csr.tn.toNat
def Strand.tk (t : Strand) : Nat := t.csr.tk.toNat

/-- Accumulators of the granted tile; none where it is empty. -/
def Strand.tileAccs (t : Strand) : Nat := t.tm / 48 * (t.tn / 64)

/-- A base must be a multiple of the count. -/
def Strand.baseOk (t : Strand) (base : Nat) : Bool := t.tileAccs == 0 || base % t.tileAccs == 0

def Strand.tileAt (t : Strand) (base r c : Nat) : BitVec 32 :=
  t.accAt (base + r / 48 * (t.tn / 64) + c / 64) (r % 48) (c % 64)
def Strand.setTile (t : Strand) (base r c : Nat) (x : BitVec 32) : Strand :=
  t.setAcc (base + r / 48 * (t.tn / 64) + c / 64) (r % 48) (c % 64) x

/-- The accumulators a tile at a base takes, as written registers (R54). -/
def Strand.tileIds (t : Strand) (base : Nat) : List RegId := (List.range (max 1 t.tileAccs)).map fun k => .acc (base + k)

/-! ### MSHAPE and MZERO (R246, R247, R255) -/

/-- The K granule. -/
def kGranule (ty : Ty) (sparse : Bool) : Nat :=
  (match ty with
    | .bf16 | .f16 => 4
    | .e2m1 | .sf4 => 16
    | _ => 8) * (if sparse then 2 else 1)

def mshape (o : Operands) (more : List RegId) (kOf : Strand → Nat) : Run Unit := do
  let sh : Shape := { cls := .mat, ew := false, d := .s, dTy := .i8, a := .s, b := .s, usesVl := false, usesMif := false,
                      more := more, mat := true }
  let n ← prep o sh fun _ _ => true
  let t ← Run.cur
  let g := kGranule o.ty (o.fnBits 1 1 == 1)
  let k := kOf t
  let tm := if (t.s n.a).toNat ≥ 96 then 96 else 48
  let tn := if (t.s n.b).toNat ≥ 128 then 128 else 64
  let tk := if k == 0 then 0 else g * max 1 (min k 512 / g)
  let x := t.sourceSet o sh n
  Run.onCur fun t =>
    let t := { t with csr := { t.csr with tm := BitVec.ofNat 32 tm, tn := BitVec.ofNat 32 tn, tk := BitVec.ofNat 32 tk } }
    ((t.setS n.d (BitVec.ofNat 64 (tm + 65536 * tn + 2 ^ 32 * tk))).setTaint (.s n.d) x).addTaint .mat x

def execMshape (o : Operands) (s : State) : Out := instr o (mshape o [] fun _ => o.imm.toNat) s
def execMshapeReg (o : Operands) (s : State) : Out :=
  instr o (mshape o [.s (o.auxBits 0 5)] fun t => (t.s (o.auxBits 0 5)).toNat) s

/-- A shape that writes the tile at a base. -/
def tileShape (t : Strand) (base : Nat) (ty : Ty) : Shape :=
  { cls := .mat, rm := false, d := .acc, dTy := ty, writes := false, wrote := t.tileIds base, mat := true }

def mzero (o : Operands) : Run Unit := do
  let t ← Run.cur
  let base := o.d.toNat
  let sh : Shape := { tileShape t base .i8 with ew := false, usesVl := false, usesMif := false }
  let _ ← prep o sh fun t _ => t.baseOk base
  Run.onCur fun t =>
    ((corner t.tm t.tn).foldl (fun c (r, k) => c.setTile base r k 0) t).setTaint .mat .empty

def execMzero (o : Operands) (s : State) : Out := instr o (mzero o) s

/-! ### Accumulator moves (R256) -/

/-- σ: 1, or the F32 value of sB. -/
def accScale (o : Operands) (t : Strand) : Num :=
  if o.im 3 1 == 1 then t.num .f32 ((t.s o.b.toNat).toNat % 2 ^ 32) else .one

def accMoveOk (o : Operands) (t : Strand) (n : Names) : Bool :=
  decide ((t.s n.a).toNat + t.vl ≤ t.tm * t.tn) && t.baseOk (o.im 0 3)

/-- The tile element of e = sA + i. -/
def tileElem (t : Strand) (n : Names) (i : Nat) : Nat × Nat :=
  let e := (t.s n.a).toNat + i
  (e / t.tn, e % t.tn)

def maccld (o : Operands) : Run Unit := do
  let t ← Run.cur
  let base := o.im 0 3
  let sh : Shape := { cls := .mat, rm := true, d := .v, dTy := o.ty, writes := false, a := .s,
                      b := if o.im 3 1 == 1 then .s else .z, wrote := t.tileIds base, mat := true }
  let x ← vecLoopX o sh (accMoveOk o) fun n _ i => do
    let raw ← src o.ty n.d i
    let t ← Run.cur
    let lane := laneOf o.ty.width i
    let (v, nv) := (t.num o.ty raw).mul (accScale o t)
    let (r, f) := roundTo .f32 (t.mode o) t.fz false (t.srNext lane) v
    commitFp (f.nvIf nv)
    Run.onCur fun t => t.setTile base (tileElem t n i).1 (tileElem t n i).2 (BitVec.ofNat 32 r)
    stepLane (t.mode o) lane
  Run.onCur (·.addTaint .mat x)

def maccst (o : Operands) : Run Unit :=
  vecLoop o { cls := .mat, rm := true, dTy := o.ty, a := .s, b := if o.im 3 1 == 1 then .s else .z, more := [.mat],
              mat := true } (accMoveOk o) fun n _ i => do
    let t ← Run.cur
    let lane := laneOf o.ty.width i
    let (r, c) := tileElem t n i
    let (v, nv) := (t.num .f32 (t.tileAt (o.im 0 3) r c).toNat).mul (accScale o t)
    let (bits, f) := roundTo o.ty (t.mode o) t.fz (o.im 4 1 == 0) (t.srNext lane) v
    commitFp (f.nvIf nv)
    putElem o n i bits
    stepLane (t.mode o) lane

def execMaccld (o : Operands) (s : State) : Out := instr o (maccld o) s
def execMaccst (o : Operands) (s : State) : Out := instr o (maccst o) s

/-! ### Operands of MMA and MMAS (R248 to R250, R254) -/

/-- Everything of a product instruction that its fields fix. -/
structure MmaForm where
  sparse : Bool
  aScr : Bool
  bScr : Bool
  aTy : Ty
  bTy : Ty
  aDesc : Nat
  bDesc : Nat
  vM : Nat
  kw : Nat
  kt : Nat
  np : Nat
  mp : Nat

/-- Np, Mp and the index width of a pattern code (R253). -/
def pattern : Nat → Nat × Nat × Nat
  | 0 => (1, 4, 2)
  | 1 => (2, 4, 2)
  | 2 => (2, 8, 3)
  | 3 => (4, 8, 3)
  | 4 => (4, 16, 4)
  | _ => (8, 16, 4)

/-- The other FP8 type (R248). -/
def otherFp8 (ty : Ty) : Ty := if ty == .e4m3 then .e5m2 else .e4m3

def mmaForm (o : Operands) (sparse : Bool) : MmaForm :=
  let kw := kGranule o.ty sparse
  let (np, mp, _) := pattern (o.fnBits 3 3)
  { sparse := sparse, aScr := o.fnBits 0 1 == 1, bScr := o.fnBits 1 1 == 1, aTy := o.ty,
    bTy := if o.fnBits 2 1 == 1 then otherFp8 o.ty else o.ty,
    aDesc := if sparse then o.im 0 5 else o.auxBits 0 5, bDesc := if sparse then o.im 5 5 else o.auxBits 5 5,
    vM := if sparse then o.auxBits 0 6 else 0, kw := kw, kt := if sparse then kw * np / mp else kw, np := np, mp := mp }

/-- The value of an encoding. -/
def matNum (ty : Ty) (raw : Nat) : Num := decodeFloat ty (if ty == .e2m1 then raw % 16 else raw)

/-- A read of the scratchpad at an offset of an operand (R250). -/
def scrByteAt (desc base a : Word) (n : Nat) : Run Nat := do
  let p ← scrCheck .load (scrPlace desc base) a n
  let s ← get
  return s.dev.scrGet s.cur.group p n

/-- The value of K index k of a row or column that starts at a scratch address. -/
def scrNum (ty : Ty) (desc base start : Word) (k : Nat) : Run Num := do
  let at_ := fun (j : Nat) => start + BitVec.ofNat 64 j
  match ty with
  | .sf4 => do
    let b ← scrByteAt desc base (at_ (5 * (k / 8) + k % 8 / 2)) 1
    let sc ← scrByteAt desc base (at_ (5 * (k / 8) + 4)) 1
    return ((decodeFloat .e2m1 (b / 2 ^ (4 * (k % 2)) % 16)).mul (e3m5 sc)).1
  | .e2m1 => do
    let b ← scrByteAt desc base (at_ (k / 2)) 1
    return decodeFloat .e2m1 (b / 2 ^ (4 * (k % 2)) % 16)
  | ty => do
    let x ← scrByteAt desc base (at_ (k * ty.bytes)) ty.bytes
    return decodeFloat ty x

/-- Row m of a tiled scratchpad operand: per tiles rows of 48 or columns of 64. -/
def scrRow (desc base : Word) (per m : Nat) : Word :=
  base + BitVec.ofNat 64 (m / per * descTile desc + m % per * descPitch desc)

/-- Values in layout order. -/
def readAll : List (Run Num) → Run (List Num)
  | [] => pure []
  | m :: ms => do
    let x ← m
    let xs ← readAll ms
    return x :: xs

/-- The A slice of k-step t: rows of kt. -/
def sliceA (o : Operands) (f : MmaForm) (n : Names) (c : Strand) (t : Nat) : Run (List Num) :=
  readAll ((corner c.tm f.kt).map fun (m, j) =>
    if f.aScr then
      let desc := c.s f.aDesc
      let base := c.s n.a
      scrNum f.aTy desc base (scrRow desc base 48 m) (t * f.kt + j)
    else do
      let raw ← src o.ty n.a (t * (c.tm * f.kt) + m * f.kt + j)
      return matNum f.aTy raw)

/-- The B slice of k-step t: columns of kw. -/
def sliceB (o : Operands) (f : MmaForm) (n : Names) (c : Strand) (t : Nat) : Run (List Num) :=
  readAll ((corner c.tn f.kw).map fun (x, k) =>
    if f.bScr then
      let desc := c.s f.bDesc
      let base := c.s n.b
      scrNum f.bTy desc base (scrRow desc base 64 x) (t * f.kw + k)
    else do
      let raw ← src o.ty n.b (t * (f.kw * c.tn) + x * f.kw + k)
      return matNum f.bTy raw)

/-- Bits [lo + w - 1 : lo] of a register (R254). -/
def Strand.regBits (t : Strand) (r lo w : Nat) : Nat :=
  (List.range w).foldl (fun acc k =>
    let n := lo + k
    acc + t.elem 0 r (n / 8) / 2 ^ (n % 8) % 2 * 2 ^ k) 0

/-- The B index of kept element (t, m, j) within its slice. -/
def keptIndex (o : Operands) (f : MmaForm) (c : Strand) (t m j : Nat) : Nat :=
  if f.sparse then
    let w := (pattern (o.fnBits 3 3)).2.2
    let q := t * (c.tm * f.kt) + m * f.kt + j
    j / f.np * f.mp + c.regBits f.vM (q * w) w
  else j

/-- One k-step: C' and the union of the flags, before it commits (R251, R196). A signalling NaN of either slice sets NV,
also where no kept element names it. -/
def kStep (o : Operands) (f : MmaForm) (n : Names) (base t : Nat) : Run Unit := do
  let c ← Run.cur
  let as ← sliceA o f n c t
  let bs ← sliceB o f n c t
  let c ← Run.cur
  let k : LaneCtx := ⟨.f32, rne, false⟩
  let cells := (corner c.tm c.tn).map fun (m, x) =>
    let ps := (List.range f.kt).map fun j =>
      (as.getD (m * f.kt + j) .zero, bs.getD (x * f.kw + keptIndex o f c t m j) .zero)
    let (v, nv) := dot k false (some (decodeFloat .f32 (c.tileAt base m x).toNat, false)) ps
    let (r, fl) := roundTo .f32 rne false false 0 v
    ((m, x), r, fl.nvIf nv)
  let nv := if (as ++ bs).any Num.isSnan then Flags.invalid else Flags.none
  commitFp (cells.foldl (fun acc (_, _, fl) => acc.or fl) nv)
  Run.onCur fun c => cells.foldl (fun c (e, r, _) => c.setTile base e.1 e.2 (BitVec.ofNat 32 r)) c

/-- The stream reads of a k-step, for a sweep. -/
def kReads (f : MmaForm) (n : Names) (t : Strand) (k : Nat) : List (Run Unit) :=
  let of := fun (scr : Bool) (r per : Nat) => if scr then ([] : List (Run Unit))
    else ((List.range per).map (k * per + ·)).flatMap (streamReads t r)
  of f.aScr n.a (t.tm * f.kt) ++ of f.bScr n.b (f.kw * t.tn)

/-- k-steps that the grant and the vector operands allow. -/
def kSteps (f : MmaForm) (t : Strand) : Nat :=
  let nk := t.tk / f.kw
  let nk := if f.aScr then nk else min nk (t.vl / (t.tm * f.kt))
  if f.bScr then nk else min nk (t.vl / (f.kw * t.tn))

/-- The dispatch rules of R251, R254 and R127. -/
def mmaOk (o : Operands) (f : MmaForm) (base : Nat) (t : Strand) : Bool :=
  t.tk % f.kw == 0 && t.baseOk base && (!f.aScr || descOk (t.s f.aDesc)) && (!f.bScr || descOk (t.s f.bDesc)) &&
  (!f.sparse || decide (kSteps f t * (t.tm * f.kt) * (pattern (o.fnBits 3 3)).2.2 ≤ 32 * t.gvl))

/-- MMA and MMAS. A B operand read from a stream takes one entry of the elastic queue for each k-step; a stop empties it
(R151). -/
def mma (o : Operands) (f : MmaForm) : Run Unit := do
  let t ← Run.cur
  let base := o.d.toNat
  let sh : Shape := { tileShape t base o.ty with
    a := if f.aScr then .s else .v, b := if f.bScr then .s else .v
    more := (if f.aScr then [.s f.aDesc] else []) ++ (if f.bScr then [.s f.bDesc] else [])
    raws := if f.sparse then [f.vM] else [] }
  let n ← prep o sh fun t _ => mmaOk o f base t
  let t ← Run.cur
  await (t.sourceSet o sh n)
  let x := (← Run.cur).sourceSet o sh n
  let bound := sh.bound t n
  let vs := t.csr.vstart.toNat
  let nk := kSteps f t
  let queued := !f.bScr && (t.bindOf n.b).isSome
  let entries := fun (g : Nat → Nat) => if queued then
      Run.onDev fun d => { d with elastic := Tab.set 0 d.elastic t.core (g (Tab.get 0 d.elastic t.core)) }
    else pure ()
  let (_, r) ← match ← trial (loopFrom (fun t k => t.allows o k) vs (64 * epslot t.ew) (fun k _ => kStep o f n base k)
      (nk - vs) vs ()) with
    | .ok r => pure r
    | .error e => do
      entries fun _ => 0
      Run.stop e
  let done := fun (t : Strand) (k : Nat) =>
    ({ t with csr := { t.csr with al := BitVec.ofNat 32 k, tk := BitVec.ofNat 32 (f.kw * k), vstart := 0 } } : Strand)
  let al ← match r with
    | none => do
      Run.onCur (done · nk)
      entries (· - (nk - vs))
      pure nk
    | some (k, e) => do
      entries fun _ => 0
      sweepAt e (((List.range' k (nk - k)).filter (t.allows o)).flatMap (kReads f n t))
      if k == vs then Run.stop e
      else do
        Run.onCur fun t => (done t k).setTrim e.trimCause k
        pure k
  let x ← streamTags bound x
  Run.onCur fun c =>
    let c := if f.aScr then c else c.consume [n.a] (al * (t.tm * f.kt))
    let c := if f.bScr || (!f.aScr && n.a == n.b) then c else c.consume [n.b] (al * (f.kw * t.tn))
    c.addTaint .mat x

def execMma (o : Operands) (s : State) : Out := instr o (mma o (mmaForm o false)) s
def execMmas (o : Operands) (s : State) : Out := instr o (mma o (mmaForm o true)) s

/-! ### Butterflies (R257 to R260) -/

/-- L, the pinna type and the strides of the stages. -/
def bflyLen (o : Operands) : Nat := 2 ^ o.im 0 4
def pinnaTy (o : Operands) : Ty := if o.im 7 1 == 1 then .e4m3 else .bf16

def Strand.stride (t : Strand) (q : Nat) : Nat := (Store.get t.csr.bs q).toNat

/-- A power of two below L. -/
def strideOk (l s : Nat) : Bool := decide (0 < s) && decide (s < l) && 2 ^ Nat.log2 s == s

/-- Values of the 2L pinna entries of every stage, in order. -/
def readPinnae (o : Operands) (base : Word) (stages : Nat) : Run (List Num) :=
  let ty := pinnaTy o
  readAll ((List.range (stages * (2 * bflyLen o))).map fun k => do
    let x ← scrByteAt 0 base (base + BitVec.ofNat 64 (k * ty.bytes)) ty.bytes
    return decodeFloat ty x)

/-- Output j of a stage, exactly (R257). w: the stage's pinna entries. -/
def stageOut (k : LaneCtx) (w : List Num) (s : Nat) (xs : List Num) (j : Nat) : Num × Bool :=
  let low := j / s % 2 == 0
  let j0 := if low then j else j - s
  let b := j0 / (2 * s) * s + j0 % s
  let row := if low then 0 else 2
  dot k false none [(w.getD (4 * b + row) .zero, xs.getD j0 .zero), (w.getD (4 * b + row + 1) .zero, xs.getD (j0 + s) .zero)]

/-- The stages but the last: each output is rounded to the carry format. -/
def carryStages (l : Nat) (cf : Ty) (pin : List Num) : Nat → List Nat → List Num → Flags → List Num × Flags
  | q, s :: s' :: rest, xs, f =>
    let k : LaneCtx := ⟨cf, rne, false⟩
    let outs := (List.range l).map fun j =>
      let (u, nv) := stageOut k (pin.drop (q * (2 * l))) s xs j
      let (r, g) := roundTo cf rne false false 0 u
      (decodeFloat cf r, g.nvIf nv)
    carryStages l cf pin (q + 1) (s' :: rest) (outs.map (·.1)) (outs.foldl (fun acc e => acc.or e.2) f)
  | _, _, xs, f => (xs, f)

/-- The last stage: rounded to TYPE under rm; under sr each output's lane steps. -/
def lastStage (o : Operands) (t : Strand) (l tok : Nat) (pin : List Num) (q s : Nat) (xs : List Num) (f : Flags) :
    List Nat × Store 16 × Flags :=
  let k : LaneCtx := ⟨o.ty, t.mode o, false⟩
  (List.range l).foldl (fun (outs, sg, f) j =>
    let lane := laneOf o.ty.width (tok * l + j)
    let x := srStep (Store.get sg lane)
    let (u, nv) := stageOut k (pin.drop (q * (2 * l))) s xs j
    let (r, g) := roundTo o.ty (t.mode o) false false x.toNat u
    (outs ++ [r], if t.mode o == 5 then Store.set sg lane x else sg, f.or (g.nvIf nv))) ([], t.regs.sigma, f)

/-- One token: read whole, all stages, stop check, commit. -/
def token (o : Operands) (n : Names) (pin : List Num) (strides : List Nat) (tok : Nat) : Run Unit := do
  let l := bflyLen o
  let raw ← collect ((List.range l).map (tok * l + ·)) fun i => src o.ty n.a i
  let t ← Run.cur
  let xs := raw.map fun e => decodeFloat o.ty e.2
  let nv := if xs.any Num.isSnan then Flags.invalid else Flags.none
  let cf := if t.csr.bcfg == 0 then Ty.f32 else .bf16
  let (xs, f) := carryStages l cf pin 0 strides xs nv
  let (outs, sg, f) := lastStage o t l tok pin (strides.length - 1) (strides.getLastD 1) xs f
  commitFp f
  Run.onCur fun t =>
    let t := ((List.range l).zip outs).foldl (fun t (j, x) => t.setElem o.ty.width n.d (tok * l + j) x) t
    { t with regs := { t.regs with sigma := sg } }

def butterfly (o : Operands) (stridesOf : Strand → List Nat) : Run Unit := do
  let l := bflyLen o
  let sh : Shape := { cls := .mat, rm := true, dTy := o.ty, a := .v, b := .s }
  let n ← prep o sh fun t _ =>
    t.vl % l == 0 && t.csr.vstart.toNat % l == 0 && (stridesOf t).all (strideOk l)
  let t ← Run.cur
  await (t.sourceSet o sh n)
  let x := (← Run.cur).sourceSet o sh n
  let bound := sh.bound t n
  let vs := t.csr.vstart.toNat
  let strides := stridesOf t
  let pin ← if vs ≥ t.vl then pure [] else do
    let pend ← atBoundary true
    if pend then Run.stop .before else readPinnae o (t.s n.b) strides.length
  let (_, r) ← loopFrom (fun t k => t.allows o (k * l)) (vs / l) (max 1 (64 * epslot t.ew / l))
    (fun k _ => token o n pin strides k) (t.vl / l - vs / l) (vs / l) ()
  let (al, x) ← match r with
    | none => do
      Run.onCur fun c => (c.setAl t.vl).setVstart 0
      let x ← streamTags bound x
      pure (t.vl, x)
    | some (k, e) => do
      let tokens := (List.range' k (t.vl / l - k)).filter fun k => t.allows o (k * l)
      sweepAt e (tokens.flatMap fun k => (List.range l).flatMap fun j => streamReads t n.a (k * l + j))
      if k * l == vs then Run.stop e
      else do
        let x ← streamTags bound x
        Run.onCur fun c => ((((c.setVl (k * l)).setAl (k * l)).setTrim e.trimCause k).setVstart 0).addTaint .vl x
        pure (k * l, x)
  Run.onCur fun c => (c.consume bound al).taintDst sh n x

def execBfly (o : Operands) (s : State) : Out := instr o (butterfly o fun t => [t.stride (o.im 4 3)]) s
def execBchain (o : Operands) (s : State) : Out :=
  instr o (butterfly o fun t => (List.range (o.im 4 3 + 1)).map t.stride) s

/-! ### MTRANS (R261, R262) -/

/-- MTRANS of registers. DESIGN CHOICE (log entry 103): a bound vA delivers an element for each of the tile, and its POS rises
by as many. -/
def mtrans (o : Operands) : Run Unit := do
  let sh : Shape := { cls := .mat, dTy := o.ty, a := .v, usesMif := false }
  let n ← prep o sh fun t n => n.d != n.a && tileFits t n
  let t ← Run.cur
  let rows := t.csr.rows.toNat
  let xs ← withSweep ((List.range (rows * t.vl)).flatMap (streamReads t n.a))
    (collect (List.range (rows * t.vl)) fun e => srcOf t o.ty n.a e)
  let bound := sh.bound t n
  let x ← streamTags bound (t.sourceSet o sh n)
  Run.onCur fun c =>
    let c := xs.foldl (fun c (e, v) => c.setElem o.ty.width n.d (e % t.vl * rows + e / t.vl) v) c
    ((c.consume bound (rows * t.vl)).taintDst sh n x).setVstart 0

/-- Row and column of ordinal e in tile order. -/
def tileOrder (rows cols e : Nat) : Nat × Nat :=
  let br := e / (16 * cols)
  let e1 := e - 16 * br * cols
  let h := min 16 (rows - 16 * br)
  let bc := e1 / (16 * h)
  let e2 := e1 - 16 * h * bc
  let w := min 16 (cols - 16 * bc)
  (16 * br + e2 / w, 16 * bc + e2 % w)

def mtransScratch (o : Operands) : Run Unit := do
  let sE := o.auxBits 0 5
  let sh : Shape := { cls := .mat, d := .s, dTy := .i8, writes := false, a := .s, b := .s, usesMif := false, more := [.s sE] }
  let n ← prep o sh fun t n => descOk (t.s n.b) && descOk (t.s sE)
  let t ← Run.cur
  awaitStore (t.sourceSet o sh n)
  let rows := t.csr.rows.toNat
  let bound := rows * t.vl
  let vs := t.csr.vstart.toNat
  let w := o.ty.bytes
  let (_, r) ← loopFrom (fun _ _ => true) vs (64 * epslot t.ew) (fun e _ => do
    let (r, c) := tileOrder rows t.vl e
    let a := t.s n.a + BitVec.ofNat 64 (r * descPitch (t.s n.b) + c * w)
    let b := t.s n.d + BitVec.ofNat 64 (c * descPitch (t.s sE) + r * w)
    let x ← scrByteAt (t.s n.b) (t.s n.a) a w
    let p ← scrCheck .store (scrPlace (t.s sE) (t.s n.d)) b w
    let s ← get
    Run.onDev fun d => d.scrPut s.cur.group p w x) (bound - vs) vs ()
  let done := fun (t : Strand) (k : Nat) =>
    ({ t with csr := { t.csr with al := BitVec.ofNat 32 k, eprog := BitVec.ofNat 32 k, vstart := 0 } } : Strand)
  match r with
  | none => Run.onCur (done · bound)
  | some (k, e) => if k == vs then Run.stop e else Run.onCur fun t => (done t k).setTrim e.trimCause k

def execMtrans (o : Operands) (s : State) : Out := instr o (mtrans o) s
def execMtransScratch (o : Operands) (s : State) : Out := instr o (mtransScratch o) s

end Sys2Proof.Machine
end

