-- ==== Sys2Proof/Machine/Power.lean ====
section
/-! DEFINITION. The power arbiter, the governors, the monitor units, the recovery of a failed core, and reset (R412 to
R421). -/

namespace Sys2Proof.Machine

/-! ### The arbiter (R412, R413). Powers are in mW. -/

/-- Watts of the budget that are no consumer's floor: 3000 - 1324. -/
abbrev spareMw : Nat := 1676000

/-- A kind of consumer: floor and ceiling. -/
structure Share where
  floor : Nat
  ceil : Nat
deriving DecidableEq, Repr

abbrev coreShare : Share := ⟨5000, 16000⟩
abbrev stackShare : Share := ⟨15000, 45000⟩
abbrev portShare : Share := ⟨4000, 8000⟩

/-- Demand above the floor, of a demand in W. -/
def Share.extra (c : Share) (demand : Nat) : Nat := 1000 * demand - c.floor

/-- The grant: the floor, and the remainder in proportion to the demand above it, no more than the ceiling. total: the
sum of all such demand. -/
def Share.grant (c : Share) (demand total : Nat) : Nat :=
  if total = 0 then c.floor else min c.ceil (c.floor + spareMw * c.extra demand / total)

/-- The demand of the k-th consumer; one that reports none demands nothing. -/
def demandOf (l : List Nat) (k : Nat) : Nat := l.getD k 0

/-- The grants of n consumers of a kind, by number. -/
def Share.grants (c : Share) (n : Nat) (l : List Nat) (total : Nat) : List (Nat × Nat) :=
  (List.range n).map fun k => (k, c.grant (demandOf l k) total)

def totalExtra (q : PowerDemand) : Nat :=
  ((List.range coreCount).map fun k => coreShare.extra (demandOf q.coreDemand k)).sum +
  ((List.range stackCount).map fun k => stackShare.extra (demandOf q.stackDemand k)).sum +
  ((List.range portCount).map fun k => portShare.extra (demandOf q.portDemand k)).sum

/-- 1024 + 256 × ⌊2 (G - 15)⌋ (R413). -/
def actlimOf (mw : Nat) : Nat := 1024 + 256 * (2 * (mw - 15000) / 1000)

/-- Sixteenths of a core's element slots, and of a port's flit rate (R413). -/
def issueFraction (mw : Nat) : Nat := min 16 (1 + (mw - 5000) * 15 / 11000)
def flitFraction (mw : Nat) : Nat := 2 * mw / 1000

/-- Every stack takes its limit from its grant (R62). -/
def Device.setLimits (d : Device) : Device :=
  (List.range stackCount).foldl (fun d k =>
    d.setStack k { d.stack k with actlim := actlimOf (Tab.get stackShare.floor d.stackGrant k) }) d

/-- A re-division, once the bring-up has started the arbiter; the first gives every consumer its floor (R421). -/
def Device.redivide (d : Device) (q : PowerDemand) : Device :=
  if d.broughtUp < 5 then d else
  let total := if d.redivided then totalExtra q else 0
  ({ d with
    coreGrant := coreShare.grants coreCount q.coreDemand total
    stackGrant := stackShare.grants stackCount q.stackDemand total
    portGrant := portShare.grants portCount q.portDemand total
    redivided := true }).setLimits

def execArbiterRedivision (demand : PowerDemand) (s : State) : Out := .next (s.onDev (·.redivide demand))

/-! ### The governors (R415) -/

def execGovernorClamp (core : Nat) (s : State) : Out :=
  .next (s.onDev fun d => if core < coreCount then { d with clamped := insertSorted d.clamped core } else d)
def execGovernorClampEnd (core : Nat) (s : State) : Out :=
  .next (s.onDev fun d => { d with clamped := d.clamped.filter (· != core) })

/-! ### Monitor units (R416 to R418) -/

abbrev monitorCount : Nat := 64

def MonVals.clear : MonVals := ⟨0, 0, 0, 0, []⟩
def Monitor.reset : Monitor := ⟨0, 0, .clear, .clear, 0⟩
def Device.monitor (d : Device) (u : Nat) : Monitor := Tab.get .reset d.monitors u
def Device.setMonitor (d : Device) (u : Nat) (m : Monitor) : Device := { d with monitors := Tab.set .reset d.monitors u m }

/-- Quantities with one sample per event, and those sampled in time (R418). -/
def eventQuantities : List Nat := [0x01, 0x02, 0x04, 0x05, 0x09, 0x0A, 0x13, 0x16, 0x25, 0x27]
def countQuantities : List Nat :=
  [0x03, 0x06, 0x07, 0x08, 0x10, 0x11, 0x12, 0x14, 0x15, 0x20, 0x21, 0x22, 0x23, 0x24, 0x26]

def Monitor.quantity (m : Monitor) : Nat := m.cfg.toNat % 256
def Monitor.inst (m : Monitor) : Nat := m.cfg.toNat / 2 ^ 32 % 65536

/-- A sample as its quantity has it: tsync_off is signed. -/
def Monitor.sample (m : Monitor) (x : Nat) : Int := if m.quantity == 0x25 then (BitVec.ofNat 64 x).toInt else x

/-- The bin of a sample (R417); free: the bin where the width W is 0, which the manual does not give. -/
def Monitor.bin (m : Monitor) (x : Int) (free : Nat) : Nat :=
  if m.cfg.getLsbD 62 then
    let e : Nat := m.param.toNat % 64
    if x < ((2 ^ e : Nat) : Int) then 0 else min 15 (Nat.log2 x.toNat - e + 1)
  else
    let lo : Nat := m.param.toNat % 2 ^ 32
    let w : Nat := m.param.toNat / 2 ^ 32
    if w == 0 then free % 16 else min 15 ((x - (lo : Int)).toNat / w)

/-- Counts stop at their largest value. -/
abbrev maxWord : Nat := 2 ^ 64 - 1
abbrev maxBin : Nat := 2 ^ 32 - 1

/-- A sample x that counts n (1, but for msc_hit) joins the values. -/
def MonVals.add (v : MonVals) (x : Int) (n bin : Nat) : MonVals :=
  { low := if v.bins.isEmpty then x else min v.low x
    high := if v.bins.isEmpty then x else max v.high x
    count := min maxWord (v.count + n)
    sum := min (maxWord : Int) (v.sum + x)
    bins := Tab.set 0 v.bins bin (min maxBin (Tab.get 0 v.bins bin + 1)) }

/-- Nodes of a queue's graph that are ready and do not run yet. -/
def Queue.depth (qu : Queue) : Nat := (qu.runs.filter fun r => !r.launched && r.got == []).length

/-- What the state holds of the quantity and the instance that a unit selects (R74, R317, R418), as it stands: activates of
the window, ready nodes, W granted, lanes in use, θ at the last sync, and whether the device is unsynchronised. -/
def Device.level (d : Device) (m : Monitor) : Option Int :=
  let k := m.inst
  match m.quantity with
  | 0x03 => some (((d.stack k).inWindow d.gtime.toNat).length : Int)
  | 0x12 => some ((d.queue k).depth : Int)
  | 0x15 => some ((Tab.get coreShare.floor d.coreGrant k / 1000 : Nat) : Int)
  | 0x22 => some ((d.port k).lanes : Int)
  | 0x25 => some (d.sync.twice / 2)
  | 0x26 => some (if d.sync.lost then 1 else 0)
  | _ => none

/-- The count that the state keeps of it since reset. -/
def Device.tally (d : Device) (m : Monitor) : Option Nat :=
  let k := m.inst
  match m.quantity with
  | 0x06 => some (Tab.get 0 d.hbmCorr k)
  | 0x07 => some (Tab.get 0 d.hbmPoison k)
  | 0x20 => some (Tab.get 0 d.crcErrs k)
  | 0x21 => some (Tab.get 0 d.replays k)
  | 0x23 => some (Tab.get 0 d.linkProto k)
  | 0x24 => some d.linkLost
  | _ => none

/-- The ns of the waits that have ended of a quantity that the state's own events give, hbm_retry or coll_wait (R74, R317). -/
def Device.waitsOf (d : Device) (m : Monitor) : Option (List Nat) :=
  if m.quantity == qtyRetry || m.quantity == qtyCollWait then
    some ((d.waits.filter fun w => w.1 == m.quantity && w.2.1 == m.inst).map (·.2.2))
  else none

/-- The sample of a unit, how many events it counts, and where the unit's count then stands; none where no wait has ended
that it has not captured. x: the sample of a quantity that is time, current or a count that the model does not keep; of
msc_hit the hits below 2^32, and the misses above (log entry 23). -/
def Device.sampleOf (d : Device) (m : Monitor) (x : Nat) : Option (Int × Nat × Nat) :=
  match d.level m, d.tally m, d.waitsOf m with
  | some y, _, _ => some (y, 1, m.last)
  | none, some n, _ => some (((n - m.last : Nat) : Int), 1, n)
  | none, none, some l => (l[m.last]?).map fun ns => ((ns : Int), 1, m.last + 1)
  | none, none, none =>
    if m.quantity == 0x08 then some (((x / 2 ^ 32 : Nat) : Int), x % 2 ^ 32, m.last) else some (m.sample x, 1, m.last)

/-- A sample of a unit that is enabled and selects one of the quantities. -/
def Device.sampled (d : Device) (u x : Nat) (quantities : List Nat) : Device :=
  let m := d.monitor u
  if u < monitorCount ∧ m.cfg.getLsbD 63 ∧ quantities.contains m.quantity then
    match d.sampleOf m x with
    | none => d
    | some (y, n, last) =>
      { d.setMonitor u { m with now := m.now.add y n (m.bin y (Config.freeWord d.free).toNat), last := last } with
        free := d.free + 1 }
  else d

def execMonitorSample (unit sample : Nat) (s : State) : Out := .next (s.onDev (·.sampled unit sample eventQuantities))
def execMonitorCountSample (unit sample : Nat) (s : State) : Out := .next (s.onDev (·.sampled unit sample countQuantities))

/-- SNAP: the values are frozen for reading and start again from nothing. -/
def Device.snap (d : Device) (u : Nat) : Device :=
  if u < monitorCount then d.setMonitor u { d.monitor u with frozen := (d.monitor u).now, now := .clear } else d

/-- Management numbers of the monitor units' registers (R416). -/
abbrev monitorBase : Nat := 0xC00

/-- The bits of CFG that are not reserved. -/
abbrev cfgMask : Word := 0xC000FFFF000000FF

/-- Management reads register j of a unit: its values are those the last SNAP froze. -/
def Monitor.read (m : Monitor) (j : Nat) : Word :=
  let bin := fun (k : Nat) => Tab.get 0 m.frozen.bins k % 2 ^ 32
  match j with
  | 0 => m.cfg
  | 1 => m.param
  | 2 => BitVec.ofInt 64 m.frozen.low
  | 3 => BitVec.ofInt 64 m.frozen.high
  | 4 => BitVec.ofNat 64 m.frozen.count
  | 5 => BitVec.ofInt 64 m.frozen.sum
  | _ => if 6 ≤ j ∧ j ≤ 13 then BitVec.ofNat 64 (bin (2 * (j - 6)) + 2 ^ 32 * bin (2 * (j - 6) + 1)) else 0

/-- Management writes a register by its number: CFG, whose reserved bits stay 0, PARAM, or SNAP. A unit's counts start
from where the state's stand when CFG is written. -/
def Device.mgmtWrite (d : Device) (number : Nat) (x : Word) : Device :=
  let u := (number - monitorBase) / 16
  let m := d.monitor u
  if number < monitorBase ∨ monitorCount ≤ u then d
  else match (number - monitorBase) % 16 with
    | 0 =>
      let m := { m with cfg := x &&& cfgMask }
      d.setMonitor u { m with last := (d.tally m).getD (((d.waitsOf m).getD []).length) }
    | 1 => d.setMonitor u { m with param := x }
    | 14 => if x = 1 then d.snap u else d
    | _ => d

def execSnapMonitor (unit : Nat) (s : State) : Out := .next (s.onDev (·.snap unit))

/-! ### A core that fails (R420) -/

/-- Everything that a strand holds, for a dump (log entry 93): its registers, gather windows and records, and the stores
that have not performed. -/
def Strand.dumpBytes (t : Strand) (cyc gtime : Word) : List Byte :=
  t.fixedPart cyc gtime t.matUsed t.smUsed false false [] ++ t.predBytes ++ (List.range 64).flatMap t.regBytes ++
    t.winBytes ++ t.matBytes ++ t.smatBytes ++ t.sliceBytes ++
    (t.recs.flatMap fun e => bytesLE 8 e.1 ++ bytesLE 32 e.2.toNat) ++
    t.buf.flatMap fun p => bytesLE 8 p.pa ++ p.bytes

/-- All that stands on a core: its strands and its scratch windows. -/
def State.coreBytes (s : State) (core : Nat) : List Byte :=
  ((s.onCore core).flatMap fun t => t.dumpBytes s.dev.cyc s.dev.gtime) ++
    (s.dev.scratch.filter fun w => w.core == core && w.live).flatMap (·.regionBytes)

/-- Step 2: a strand whose state passes parity is saved, and offered again. -/
def State.saveFrom (failing : List Nat) (s : State) (uid : Nat) : State :=
  match s.find uid with
  | some t => if failing.contains uid || !t.live || t.leaving.isSome then s else s.takePreempt uid
  | none => s

/-- Step 3: another strand is killed with REASON 8. -/
def State.killFrom (failing : List Nat) (s : State) (uid : Nat) : State :=
  match s.find uid with
  | some t => if failing.contains uid then s.kill uid 8 t.plainEv else s
  | none => s

/-- The five steps: containment; strands whose state passes parity are saved; the others are killed; the core takes no
placement, which its containment has seen to; its state, as it stood when it failed, is dumped. failing: the strands that do
not pass. -/
def State.coreFails (s : State) (core : Nat) (failing : List Nat) : State :=
  if core ≥ coreCount then s
  else
    let us := (s.onCore core).map (·.uid)
    let dump := s.coreBytes core
    let s := s.onDev fun d => { d.raise srcCore core evCoreFails 0 with failed := insertSorted d.failed core }
    let s := us.foldl (State.killFrom failing) (us.foldl (State.saveFrom failing) s)
    s.onDev fun d => { d with dumps := d.dumps ++ [(core, d.gtime.toNat, dump)] }

def execCoreFailure (core : Nat) (failing : List Nat) (s : State) : Out := .next (s.coreFails core failing)

/-! ### Reset (R409, R421) -/

/-- The two checks of the firmware that a reset finds: its signature, by a key whose hash the fuses hold, and its security
version. -/
def firmwareOk (k : Nat) : Bool :=
  let (key, r, x) := Config.firmwareSig k
  Config.rootHashes.contains key && ecdsaVerify key (Config.firmware k) r.toNat x.toNat &&
    decide (Config.rollback ≤ Config.firmwareVersion k)

/-- The steps of the bring-up that a reset completes: six, or those before the first that fails. -/
def stepsUp (k : Nat) : Nat :=
  if !(firmwareOk k) then 0
  else if 1 ≤ Config.failingStep k ∧ Config.failingStep k ≤ 6 then Config.failingStep k - 1
  else 6

/-- The device after so many steps of the bring-up. A step that fails stops the sequence, and the sideband reports it: the
ports that step 4 would have trained are down, and the host port is. -/
def Device.broughtTo (steps : Nat) : Device :=
  { Device.reset with
    broughtUp := steps
    hostUp := steps == 6
    sideband := if steps == 6 then [] else [steps + 1]
    ports := if steps < 4 then (List.range portCount).map fun p => (p, { Port.reset with up := false, lanes := 0 }) else [] }

/-- Reset runs the bring-up; the firmware that it finds runs then. The agenda and the count of free values drawn are the
model's own and go on. -/
def State.bringUp (s : State) : State :=
  let d := Device.broughtTo (stepsUp (s.dev.resets + 1))
  { State.reset with
    agenda := s.agenda
    dev := { d with free := s.dev.free, resets := s.dev.resets + 1, sideband := s.dev.sideband ++ d.sideband } }

def execDeviceReset (s : State) : Out := .next s.bringUp

end Sys2Proof.Machine
end

