-- ==== Sys2Proof/Machine/Reduce.lean ====
section
/-! DEFINITION. Reductions and scans: opcodes 0x50 and 0x51 (R239 to R242, R198, R199). -/

namespace Sys2Proof.Machine

/-- sd, va, carry sB. -/
def redShape (rm : Bool) : Shape := { cls := .red, rm := rm, d := .s, dTy := .i8, a := .v, b := .s }

/-- vd, va, carry sB. -/
def scanShape (o : Operands) (rm : Bool) : Shape := { cls := .red, rm := rm, dTy := o.ty, a := .v, b := .s }

/-- A reduction or scan: the loop from a carry, and what is done with the end. -/
def fold {α : Type} (o : Operands) (sh : Shape) (carry : Strand → Names → α) (body : Names → Nat → α → Run α)
    (done : Names → Taint → α → Run Unit) : Run Unit := do
  let n ← prep o sh fun _ _ => true
  let t ← Run.cur
  let bound := sh.bound t n
  let (acc, al, x) ← elementLoop o (fun _ => streamTags bound (t.sourceSet o sh n)) (sh.reads o t n) (body n)
    (carry t n)
  done n x acc
  Run.onCur fun c => (c.consume bound al).taintDst sh n x

/-- The result to sd. -/
def toD (n : Names) (_x : Taint) (acc : Word) : Run Unit := Run.onCur (·.setS n.d acc)

/-- The carry out to sB. -/
def toB (n : Names) (x : Taint) (acc : Word) : Run Unit := Run.onCur fun t => (t.setS n.b acc).setTaint (.s n.b) x

/-! ### Integers (R240) -/

/-- The operation of FN[2:0] on 64-bit values in a type's signedness. -/
def redInt (ty : Ty) (k : Nat) (a b : Word) : Word :=
  let less := if ty.signed then a.slt b else a.ult b
  match k with
  | 0 => a + b
  | 1 => if less then a else b
  | 2 => if less then b else a
  | 3 => a &&& b
  | 4 => a ||| b
  | _ => a ^^^ b

/-- An element extended to 64 bits in the type's signedness. -/
def extended (o : Operands) (n : Names) (i : Nat) : Run Word := do
  let x ← src o.ty n.a i
  return extendTo64 o.ty x

def redOp (o : Operands) (k : Nat) : Run Unit :=
  fold o (redShape false) (fun t n => t.s n.b)
    (fun n i acc => do
      let x ← extended o n i
      return redInt o.ty k acc x) toD

def vscan (o : Operands) : Run Unit :=
  fold o (scanShape o false) (fun t n => t.s n.b)
    (fun n i acc => do
      let x ← extended o n i
      let r := redInt o.ty (o.fnBits 0 3) acc x
      putElem o n i r.toNat
      return r) toB

def execVredsum (o : Operands) (s : State) : Out := instr o (redOp o 0) s
def execVredmin (o : Operands) (s : State) : Out := instr o (redOp o 1) s
def execVredmax (o : Operands) (s : State) : Out := instr o (redOp o 2) s
def execVredand (o : Operands) (s : State) : Out := instr o (redOp o 3) s
def execVredor (o : Operands) (s : State) : Out := instr o (redOp o 4) s
def execVredxor (o : Operands) (s : State) : Out := instr o (redOp o 5) s
def execVscan (o : Operands) (s : State) : Out := instr o (vscan o) s

/-! ### Floats -/

/-- The carry: the low W bits of sB. -/
def floatCarry (o : Operands) (t : Strand) (n : Names) : Nat := (t.s n.b).toNat % 2 ^ o.ty.bits

/-- One ordered step: RoundTo(T, acc + x), its flags checked and set, and the lane stepped. -/
def addStep (o : Operands) (n : Names) (i acc : Nat) : Run Nat := do
  let x ← src o.ty n.a i
  let t ← Run.cur
  let lane := laneOf o.ty.width i
  let (v, nv) := (t.num o.ty acc).add (t.mode o) (t.num o.ty x)
  let (r, f) := roundTo o.ty (t.mode o) t.fz false (t.srNext lane) v
  commitFp (f.nvIf nv)
  stepLane (t.mode o) lane
  return r

def vfredosum (o : Operands) : Run Unit :=
  fold o (redShape true) (floatCarry o) (addStep o) fun n x acc => toD n x (BitVec.ofNat 64 acc)

def vfscan (o : Operands) : Run Unit :=
  fold o (scanShape o true) (floatCarry o)
    (fun n i acc => do
      let r ← addStep o n i acc
      putElem o n i r
      return r) fun n x acc => toB n x (BitVec.ofNat 64 acc)

/-- VFREDMIN and VFREDMAX: R229 at each step. -/
def redMinmax (o : Operands) (larger : Bool) : Run Unit :=
  fold o (redShape false) (floatCarry o)
    (fun n i acc => do
      let x ← src o.ty n.a i
      let t ← Run.cur
      let a := t.num o.ty acc
      let b := t.num o.ty x
      commitFp (Flags.none.nvIf (a.isSnan || b.isSnan))
      return exactBits o.ty (pickNum larger a b)) fun n x acc => toD n x (BitVec.ofNat 64 acc)

/-! ### The tree (R199, R241) -/

/-- A fold of the tree: rounded under rm, its flags set without a stop, and a lane stepped. -/
def treeFold (o : Operands) (lane a b : Nat) : Run Nat := do
  let t ← Run.cur
  let (v, nv) := (t.num o.ty a).add (t.mode o) (t.num o.ty b)
  let (r, f) := roundTo o.ty (t.mode o) t.fz false (t.srNext lane) v
  Run.onCur (·.raise (f.nvIf nv))
  stepLane (t.mode o) lane
  return r

/-- Every element into its lane's partial. -/
def lanePartials (o : Operands) : List (Nat × Nat) → List Nat → Run (List Nat)
  | [], ps => pure ps
  | (i, x) :: es, ps => do
    let l := laneOf o.ty.width i
    let r ← treeFold o l (ps.getD l 0) x
    lanePartials o es (ps.set l r)

/-- One level: nodes 2j and 2j + 1 into node j, which steps lane j × step. -/
def treeLevel (o : Operands) (step : Nat) : Nat → List Nat → Run (List Nat)
  | j, a :: b :: rest => do
    let r ← treeFold o (j * step) a b
    let rs ← treeLevel o step (j + 1) rest
    return r :: rs
  | _, l => pure l

/-- Levels with steps 2, 4, ... until one node is left. -/
def treeLevels (o : Operands) : Nat → Nat → List Nat → Run Nat
  | 0, _, l => pure (l.headD 0)
  | k + 1, step, l => do
    let l ← treeLevel o step 0 l
    treeLevels o k (2 * step) l

def vfredsum (o : Operands) : Run Unit :=
  fold o (redShape true) (fun t n => (floatCarry o t n, ([] : List (Nat × Nat))))
    (fun n i acc => do
      let x ← src o.ty n.a i
      return (acc.1, acc.2 ++ [(i, x)]))
    fun n x acc => do
      let ps ← lanePartials o acc.2 (List.replicate 64 (signBit o.ty true))
      let tree ← treeLevels o 6 2 ps
      let r ← treeFold o 0 acc.1 tree
      toD n x (BitVec.ofNat 64 r)

def execVfredsum (o : Operands) (s : State) : Out := instr o (vfredsum o) s
def execVfredosum (o : Operands) (s : State) : Out := instr o (vfredosum o) s
def execVfredmin (o : Operands) (s : State) : Out := instr o (redMinmax o false) s
def execVfredmax (o : Operands) (s : State) : Out := instr o (redMinmax o true) s
def execVfscan (o : Operands) (s : State) : Out := instr o (vfscan o) s

end Sys2Proof.Machine
end

