-- ==== Sys2Proof/Machine/Turn.lean ====
section
/-! DEFINITION. Turns: time passing, which strand has the turn, and fetching its next instruction (R28, R29, R51). -/

namespace Sys2Proof.Machine

/-- What a slew of twice an offset adds within n ns: no more than a thousandth of them (R310). -/
def slewOf (twice : Int) (n : Nat) : Int := max (-(n / 1000 : Nat)) (min (n / 1000 : Nat) (twice / 2))

/-- Whole nanoseconds that so many clocks of 1.8 GHz end: nine of them last five (R414). -/
def Device.nsOf (d : Device) (clocks : Nat) : Nat := (d.phase + 5 * clocks) / 9

/-- Time passes by a free number of clocks (log entry 4), and by the nanoseconds they take; gtime slews towards the time it
follows. -/
def Device.tick (d : Device) : Device :=
  let c := 1 + (Config.freeWord d.free).toNat % 65536
  let n := d.nsOf c
  let adj := slewOf d.sync.slew n
  { d with cyc := d.cyc + BitVec.ofNat 64 c
           phase := (d.phase + 5 * c) % 9
           gtime := d.gtime + BitVec.ofInt 64 (n + adj)
           sync := { d.sync with slew := d.sync.slew - 2 * adj }
           free := d.free + 1 }

/-- The budget counts run while a strand of the node is resident (R369). -/
def State.countBudgets (s : State) (ns : Nat) : State :=
  s.onDev fun d => { d with queues := d.queues.map fun (q, qu) => (q, { qu with runs := qu.runs.map fun (r : NodeRun) =>
    if r.launched && (s.strands.any fun t => t.resident && r.strands.contains t.uid) then { r with ran := r.ran + ns }
    else r }) }

/-- Time passes. -/
def State.tick (s : State) : State :=
  let d := s.dev.tick
  ({ s with dev := d }).countBudgets (d.gtime.toNat - s.dev.gtime.toNat)

/-- One parcel: translated for execute, then poison, then read (R29). -/
def fetchParcel (va : Word) : Run Nat := do
  let pa ← translateS .fetch false va
  let s ← get
  Run.check (!s.dev.poisoned pa) .poison va
  return s.dev.readLE pa 4

/-- The cause of a decode failure (R51). -/
def DecodeCause.toCause : DecodeCause → Cause
  | .ill => .ill
  | .illRsv => .illRsv
  | .illLevel => .illLevel

/-- The parcels of the instruction at an address, as many as LEN says. -/
def fetchParcels (pc : Word) : Run (Form × Nat × Nat × Nat) := do
  let p0 ← fetchParcel pc
  match formOf p0 with
  | none => Run.trap .ill (BitVec.ofNat 64 p0)
  | some .s32 => return (.s32, p0, 0, 0)
  | some .l64 => do
    let p1 ← fetchParcel (pc + 4)
    return (.l64, p0, p1, 0)
  | some .x96 => do
    let p1 ← fetchParcel (pc + 4)
    let p2 ← fetchParcel (pc + 8)
    return (.x96, p0, p1, p2)

/-- Fetch and decode the instruction at the pc, at the strand's level. -/
noncomputable def fetch : Run Instr := do
  let t ← Run.cur
  let (f, p0, p1, p2) ← fetchParcels t.pc
  match classify t.csr.level.toNat (unpack f p0 p1 p2) with
  | .ok i => return i
  | .error c => Run.trap (DecodeCause.toCause c) (BitVec.ofNat 64 p0)

/-- A boundary between two instructions: a request that is still some boundaries off comes nearer (R378). -/
def Strand.nearer (t : Strand) : Strand :=
  { t with preempt := t.preempt.map fun k => if t.takeable then k - 1 else k }

/-- The end of a single step (R400): the strand is halted again, unless the step ended it. One that waits or parks has
not retired its instruction: the step goes on. -/
def State.afterStep (s : State) (uid : Nat) : State :=
  match s.find uid with
  | none => s
  | some t =>
    match t.status with
    | .running => (s.upd uid fun t => { t with step1 := false, stepDone := false }).leave uid (.halted none) false true
    | .waiting _ _ | .parked => s
    | _ => s.upd uid fun t => { t with step1 := false, stepDone := false }

/-- Who moves when the agenda is empty: the current strand if it issues, else the next that does. -/
def State.freeTurn (s : State) : State := if s.dev.issues s.cur then s else s.rotate

/-! ### Placing a word (log entry 11) -/

/-- The page of the placed instruction, and the tables that map virtual page 0 to it: physical addresses. -/
abbrev placedTables : Nat := 0x10000
abbrev placedPage : Nat := 0x20000

/-- The current strand runs at address 0, mapped executable at its level by tables of its own, over the parcels of v; no
stage-2 table, pending request, open agenda or stale translation stands in the way. -/
def State.placeParcels (s : State) (v : Nat) : State :=
  let t := s.cur
  let leaf := if t.sup.tlevel == 0 then 0x7F else 0x6F
  let d := { s.dev with tlb := [], migs := [], poison := [], failed := [] }
  let d := d.writeLE placedTables 8 (0x1 + placedTables + 0x1000)
  let d := d.writeLE (placedTables + 0x1000) 8 (0x1 + placedTables + 0x2000)
  let d := d.writeLE (placedTables + 0x2000) 8 (0x1 + placedTables + 0x3000)
  let d := d.writeLE (placedTables + 0x3000) 8 (leaf + placedPage)
  let d := d.writeLE placedPage 12 v
  { s with agenda := [], dev := d,
           cur := { t with status := .running, pc := 0, vf := 0, preempt := none, step1 := false, stepDone := false,
                           sup := { t.sup with s1root := BitVec.ofNat 64 placedTables } } }

end Sys2Proof.Machine
end

