-- ==== Sys2Proof/Machine/Vtb.lean ====
section
/-! DEFINITION. Element-thread blocks (opcode 0x14: R332 to R336). -/

namespace Sys2Proof.Machine

/-- The instructions a block accepts (R334), by what they do to one element. -/
def blockOp : Mnem → Option EOp
  | .vadd => some opVadd
  | .vsub => some opVsub
  | .vmin => some opVmin
  | .vmax => some opVmax
  | .vaddSat => some opVaddSat
  | .vsubSat => some opVsubSat
  | .vabs => some opVabs
  | .vsel => some opVsel
  | .vsat => some opVsat
  | .vshl => some opVshl
  | .vshr => some opVshr
  | .vsra => some opVsra
  | .vfsl => some opVfsl
  | .vfsr => some opVfsr
  | .vlut3 => some opVlut3
  | .vcmp => some opVcmp
  | .vpopc => some opVpopc
  | .vclz => some opVclz
  | .vextb => some opVextb
  | .vinsb => some opVinsb
  | .vmul => some opVmul
  | .vmulh => some opVmulh
  | .vmac => some opVmac
  | .vdiv => some opVdiv
  | .vrem => some opVrem
  | .vfadd => some opVfadd
  | .vfsub => some opVfsub
  | .vfmul => some opVfmul
  | .vfma => some opVfma
  | .vfnma => some opVfnma
  | .vfdiv => some opVfdiv
  | .vfsqrt => some opVfsqrt
  | .vfrsq => some opVfrsq
  | .vfexp2 => some opVfexp2
  | .vflog2 => some opVflog2
  | .vfmin => some opVfmin
  | .vfmax => some opVfmax
  | .vfclass => some opVfclass
  | .vfcmp => some opVfcmp
  | .vcvt => some opVcvt
  | .pand | .pandL64 => some opPand
  | .por | .porL64 => some opPor
  | .pxor | .pxorL64 => some opPxor
  | .pnot | .pnotL64 => some opPnot
  | .vbcast => some opVbcast
  | .vbcastImm => some opVbcastImm
  | .vid => some opVid
  | .spld => some opSpld
  | .spst => some opSpst
  | .spldx => some opSpldx
  | .lpld => some opLpld
  | .lpst => some opLpst
  | .lpldIndex => some opLpldIndex
  | .lpstIndex => some opLpstIndex
  | .smld => some opSmld
  | .smst => some opSmst
  | .smget => some opSmget
  | .smput => some opSmput
  | .smmul => some opSmmul
  | .smmac => some opSmmac
  | .smadd => some opSmadd
  | .smsub => some opSmsub
  | .smtrn => some opSmtrn
  | .smscal => some opSmscal
  | .smchol => some opSmchol
  | .smlu => some opSmlu
  | .smsolv => some opSmsolv
  | _ => none

/-- Supervisor-only instructions (R51, step 8): PRIV at level 0. -/
def needsSupervisor (m : Mnem) (o : Operands) : Bool :=
  match m with
  | .eret | .eretL64 | .kill | .killL64 | .tlbinv | .tlbinvL64 => true
  | .csrr | .csrw | .csrrQuotaView | .csrwQuotaView => decide (csrNum o ≥ 0x800)
  | _ => false

/-- How a thread goes on after an instruction: at an address, at its end, or stopped (R335). -/
inductive ThreadNext where
  | go (pc : Word)
  | done
  | stopped (e : Stop)

/-- A stop of these steps is one of the instruction at an address. -/
def atAddr {α : Type} (pc : Word) (m : Run α) : Run α := fun s =>
  match m s with
  | .ok x s' => .ok x s'
  | .error e s' => .error e (s'.onCur fun t => { t with pc := pc })

/-- An accepted instruction for element i (R333): the guard alone allows it, and the element commits whole or not at all;
the stop it meets, if any. Its own dispatch checks hold with vl taken as i + 1, since vl is not read (log entry 86). The
destinations take the sets whatever the guard allows (R285). -/
def blockElement (e : EOp) (o : Operands) (i : Nat) : Run (Option Stop) := do
  let sh := { e.sh o with usesVl := false, usesMif := false }
  let t ← Run.cur
  let n := t.names o
  Run.check (dispatchOk o sh (fun t n => e.more o (t.setVl (i + 1)) n) t n) .ill (parcel0 o)
  touch (sh.named o n)
  ownStates sh.mat sh.sm
  let x := t.sourceSet o sh n
  if o.op == 0x69 || o.op == 0x6A || o.op == 0x78 then (if sh.writes then await x else awaitStore x) else pure ()
  let t ← Run.cur
  if t.guardOk o.g i then do
    let r ← trial (whole (e.body o n t i))
    let x ← streamTags (sh.bound t n) x
    Run.onCur fun c => c.taintDst sh n x
    match r with
    | .ok _ => return none
    | .error e => do
      sweepAt e (sh.reads o t n i)
      return some e
  else do
    Run.onCur fun c => c.taintDst sh n x
    return none

/-- The parcel 0 that refused a thread, as tval of ILL_BLOCK (R335). -/
def refused (p0 : Nat) : ThreadNext := .stopped (.cause .illBlock (BitVec.ofNat 64 p0))

/-- One instruction of thread i at an address (R333, R334), its causes in the order of R51: ILL_BLOCK and the causes of an
element stop the thread; every other one is a stop of this step (R52, log entry 22). -/
def threadStep (i : Nat) (pc : Word) : Run ThreadNext := atAddr pc (do
  let (f, p0, p1, p2) ← fetchParcels pc
  let t ← Run.cur
  let o := unpack f p0 p1 p2
  let next := ThreadNext.go (pc + BitVec.ofNat 64 (lenOf o))
  match classifyRow t.csr.level.toNat o with
  | .error c => Run.trap (DecodeCause.toCause c) (BitVec.ofNat 64 p0)
  | .ok r =>
    if o.cv then Run.trap .ill (BitVec.ofNat 64 p0)
    else if needsSupervisor r.mn o && t.sup.tlevel == 0 then Run.trap .priv (BitVec.ofNat 64 p0)
    else match r.mn with
      | .vtend | .vtendL64 => return .done
      | .vtnext => return if t.p o.a.toNat i then .go (pc + (o.simm <<< 2)) else next
      | m =>
        match blockOp m with
        | none => return refused p0
        | some e =>
          if (e.sh o).cross && isCross o then return refused p0
          else do
            match ← blockElement e o i with
            | some e => return .stopped e
            | none => return next)

/-- Thread i from an address, with so many instructions left: the stop it meets, if any (R335). -/
def threadRun (i : Nat) : Nat → Word → Run (Option Stop)
  | 0, _ => pure (some (.cause .blockBudget 0))
  | k + 1, pc => do
    match ← threadStep i pc with
    | .stopped e => return some e
    | .done => return none
    | .go pc' => threadRun i k pc'

/-- Instructions of a thread per dispatch. -/
abbrev threadBudget : Nat := 4096

/-- The threads in ascending element order (log entry 22): each with the stop it met. -/
def threads (pc : Word) : List Nat → Run (List (Nat × Option Stop))
  | [] => pure []
  | i :: is => do
    let r ← threadRun i threadBudget pc
    let rs ← threads pc is
    return (i, r) :: rs

/-- The lowest thread that was refused, with tval. -/
def firstRefused : List (Nat × Option Stop) → Option Word
  | [] => none
  | (_, some (.cause .illBlock v)) :: _ => some v
  | _ :: rest => firstRefused rest

/-- The bound registers that the threads have read: their streams move on by vl (log entry 31). -/
def Strand.consumed (t : Strand) : Strand := t.consume ((t.binds.filter fun b => b.reads.isSome).map (·.reg)) t.vl

/-- VTB (R333, R335): the tval of an ILL_BLOCK trap, if one follows. -/
def vtb (o : Operands) : Run (Option Word) := do
  notInNest o
  let t ← Run.cur
  Run.onCur fun t => t.unread (t.binds.map (·.reg))
  let rs ← threads (t.pc + (o.simm <<< 2)) ((List.range t.vl).filter fun i => t.p t.csr.mif.toNat i)
  Run.onCur fun c =>
    let c := rs.foldl (fun c (i, r) => c.setP o.d.toNat i r.isSome) c
    let c := match rs.find? fun e => e.2.isSome with
      | some (i, some e) => c.setTrim e.trimCause i
      | _ => c
    let c := c.addTaint (.p o.d.toNat) (t.unionOf [.vl, .p t.csr.mif.toNat])
    c.consumed.closeConvoy
  return firstRefused rs

/-- A dispatch that a missing page of its block ends leaves no trace but its page requests: it has not begun. s: the state
before it. -/
def State.undoBlock (s s' : State) : State :=
  { s' with cur := { s.cur with pageTags := s'.cur.pageTags, buf := s'.cur.buf, fileDirty := BitVec.allOnes 64 }
            dev := { s'.dev with scratch := s.dev.scratch, resid := s.dev.resid } }

/-- The end of VTB: it retires, or traps at itself after its other effects. A decode or dispatch cause of a block's
instruction is taken at that instruction (R52), whose address the pc then holds. -/
def State.vtbEnd (s : State) (o : Operands) (r : EStateM.Result Stop State (Option Word)) : State :=
  match r with
  | .ok none s' => s'.onCur (·.retire o)
  | .ok (some v) s' => s'.trap .illBlock v s'.cur.pc true
  | .error (.cause c v) s' => s'.trap c v s'.cur.pc false
  | .error e s' => (s.undoBlock s').stopAt s.cur.convoy e

def execVtb (o : Operands) (s : State) : Out := .next (s.vtbEnd o (vtb o s))

/-- VTEND and VTNEXT stand in blocks only. -/
def execVtend (o : Operands) (s : State) : Out := instr o (ill o) s
def execVtendL64 (o : Operands) (s : State) : Out := instr o (ill o) s
def execVtnext (o : Operands) (s : State) : Out := instr o (ill o) s

end Sys2Proof.Machine
end

