-- ==== Sys2Proof/Machine/Dispatch.lean ====
section
/-! DEFINITION. One arm per instruction and event: each is one direct call of its meaning. -/

namespace Sys2Proof.Machine

def exec (i : Instr) (s : State) : Host.Outcome State Fault Refusal :=
  match i with
  | .add o => Sys2Proof.Machine.execAdd o s
  | .addL64 o => Sys2Proof.Machine.execAddL64 o s
  | .sub o => Sys2Proof.Machine.execSub o s
  | .subL64 o => Sys2Proof.Machine.execSubL64 o s
  | .and_ o => Sys2Proof.Machine.execAnd o s
  | .andL64 o => Sys2Proof.Machine.execAndL64 o s
  | .or_ o => Sys2Proof.Machine.execOr o s
  | .orL64 o => Sys2Proof.Machine.execOrL64 o s
  | .xor_ o => Sys2Proof.Machine.execXor o s
  | .xorL64 o => Sys2Proof.Machine.execXorL64 o s
  | .shl o => Sys2Proof.Machine.execShl o s
  | .shlL64 o => Sys2Proof.Machine.execShlL64 o s
  | .shr o => Sys2Proof.Machine.execShr o s
  | .shrL64 o => Sys2Proof.Machine.execShrL64 o s
  | .sra o => Sys2Proof.Machine.execSra o s
  | .sraL64 o => Sys2Proof.Machine.execSraL64 o s
  | .slt o => Sys2Proof.Machine.execSlt o s
  | .sltL64 o => Sys2Proof.Machine.execSltL64 o s
  | .sltn o => Sys2Proof.Machine.execSltn o s
  | .sltnL64 o => Sys2Proof.Machine.execSltnL64 o s
  | .seq o => Sys2Proof.Machine.execSeq o s
  | .seqL64 o => Sys2Proof.Machine.execSeqL64 o s
  | .min o => Sys2Proof.Machine.execMin o s
  | .minL64 o => Sys2Proof.Machine.execMinL64 o s
  | .max o => Sys2Proof.Machine.execMax o s
  | .maxL64 o => Sys2Proof.Machine.execMaxL64 o s
  | .minn o => Sys2Proof.Machine.execMinn o s
  | .minnL64 o => Sys2Proof.Machine.execMinnL64 o s
  | .maxn o => Sys2Proof.Machine.execMaxn o s
  | .maxnL64 o => Sys2Proof.Machine.execMaxnL64 o s
  | .mul o => Sys2Proof.Machine.execMul o s
  | .mulL64 o => Sys2Proof.Machine.execMulL64 o s
  | .mulh o => Sys2Proof.Machine.execMulh o s
  | .mulhn o => Sys2Proof.Machine.execMulhn o s
  | .div o => Sys2Proof.Machine.execDiv o s
  | .divn o => Sys2Proof.Machine.execDivn o s
  | .rem o => Sys2Proof.Machine.execRem o s
  | .remn o => Sys2Proof.Machine.execRemn o s
  | .rol o => Sys2Proof.Machine.execRol o s
  | .clz o => Sys2Proof.Machine.execClz o s
  | .ctz o => Sys2Proof.Machine.execCtz o s
  | .popc o => Sys2Proof.Machine.execPopc o s
  | .lut3 o => Sys2Proof.Machine.execLut3 o s
  | .addi o => Sys2Proof.Machine.execAddi o s
  | .subi o => Sys2Proof.Machine.execSubi o s
  | .andi o => Sys2Proof.Machine.execAndi o s
  | .ori o => Sys2Proof.Machine.execOri o s
  | .xori o => Sys2Proof.Machine.execXori o s
  | .shli o => Sys2Proof.Machine.execShli o s
  | .shri o => Sys2Proof.Machine.execShri o s
  | .srai o => Sys2Proof.Machine.execSrai o s
  | .slti o => Sys2Proof.Machine.execSlti o s
  | .sltni o => Sys2Proof.Machine.execSltni o s
  | .seqi o => Sys2Proof.Machine.execSeqi o s
  | .mini o => Sys2Proof.Machine.execMini o s
  | .maxi o => Sys2Proof.Machine.execMaxi o s
  | .minni o => Sys2Proof.Machine.execMinni o s
  | .maxni o => Sys2Proof.Machine.execMaxni o s
  | .muli o => Sys2Proof.Machine.execMuli o s
  | .mulhi o => Sys2Proof.Machine.execMulhi o s
  | .mulhni o => Sys2Proof.Machine.execMulhni o s
  | .divi o => Sys2Proof.Machine.execDivi o s
  | .divni o => Sys2Proof.Machine.execDivni o s
  | .remi o => Sys2Proof.Machine.execRemi o s
  | .remni o => Sys2Proof.Machine.execRemni o s
  | .roli o => Sys2Proof.Machine.execRoli o s
  | .li o => Sys2Proof.Machine.execLi o s
  | .lih o => Sys2Proof.Machine.execLih o s
  | .ext o => Sys2Proof.Machine.execExt o s
  | .ins o => Sys2Proof.Machine.execIns o s
  | .sel o => Sys2Proof.Machine.execSel o s
  | .bEq o => Sys2Proof.Machine.execBEq o s
  | .bNe o => Sys2Proof.Machine.execBNe o s
  | .bLt o => Sys2Proof.Machine.execBLt o s
  | .bGe o => Sys2Proof.Machine.execBGe o s
  | .bLtn o => Sys2Proof.Machine.execBLtn o s
  | .bGen o => Sys2Proof.Machine.execBGen o s
  | .bz o => Sys2Proof.Machine.execBz o s
  | .bnz o => Sys2Proof.Machine.execBnz o s
  | .bpAny o => Sys2Proof.Machine.execBpAny o s
  | .bpAll o => Sys2Proof.Machine.execBpAll o s
  | .bpNone o => Sys2Proof.Machine.execBpNone o s
  | .jump o => Sys2Proof.Machine.execJump o s
  | .jr o => Sys2Proof.Machine.execJr o s
  | .call o => Sys2Proof.Machine.execCall o s
  | .callr o => Sys2Proof.Machine.execCallr o s
  | .ret o => Sys2Proof.Machine.execRet o s
  | .nest o => Sys2Proof.Machine.execNest o s
  | .nestLoopback => Sys2Proof.Machine.execNestLoopback s
  | .nexit o => Sys2Proof.Machine.execNexit o s
  | .nexitL64 o => Sys2Proof.Machine.execNexitL64 o s
  | .nexitReg o => Sys2Proof.Machine.execNexitReg o s
  | .nexitRegL64 o => Sys2Proof.Machine.execNexitRegL64 o s
  | .setvl o => Sys2Proof.Machine.execSetvl o s
  | .vtb o => Sys2Proof.Machine.execVtb o s
  | .vtend o => Sys2Proof.Machine.execVtend o s
  | .vtendL64 o => Sys2Proof.Machine.execVtendL64 o s
  | .vtnext o => Sys2Proof.Machine.execVtnext o s
  | .farm o => Sys2Proof.Machine.execFarm o s
  | .farmL64 o => Sys2Proof.Machine.execFarmL64 o s
  | .strip o => Sys2Proof.Machine.execStrip o s
  | .stripL64 o => Sys2Proof.Machine.execStripL64 o s
  | .fbar o => Sys2Proof.Machine.execFbar o s
  | .fbarL64 o => Sys2Proof.Machine.execFbarL64 o s
  | .cbar o => Sys2Proof.Machine.execCbar o s
  | .cbarL64 o => Sys2Proof.Machine.execCbarL64 o s
  | .yield o => Sys2Proof.Machine.execYield o s
  | .yieldL64 o => Sys2Proof.Machine.execYieldL64 o s
  | .exit o => Sys2Proof.Machine.execExit o s
  | .exitL64 o => Sys2Proof.Machine.execExitL64 o s
  | .csrr o => Sys2Proof.Machine.execCsrr o s
  | .csrw o => Sys2Proof.Machine.execCsrw o s
  | .csrwVl o => Sys2Proof.Machine.execCsrwVl o s
  | .csrwEw o => Sys2Proof.Machine.execCsrwEw o s
  | .csrwVstart o => Sys2Proof.Machine.execCsrwVstart o s
  | .csrwSrseed o => Sys2Proof.Machine.execCsrwSrseed o s
  | .csrwQpct o => Sys2Proof.Machine.execCsrwQpct o s
  | .csrwQuotaView o => Sys2Proof.Machine.execCsrwQuotaView o s
  | .csrrQuotaView o => Sys2Proof.Machine.execCsrrQuotaView o s
  | .trap o => Sys2Proof.Machine.execTrap o s
  | .trapL64 o => Sys2Proof.Machine.execTrapL64 o s
  | .brk o => Sys2Proof.Machine.execBrk o s
  | .brkL64 o => Sys2Proof.Machine.execBrkL64 o s
  | .eret o => Sys2Proof.Machine.execEret o s
  | .eretL64 o => Sys2Proof.Machine.execEretL64 o s
  | .wfe o => Sys2Proof.Machine.execWfe o s
  | .wfeL64 o => Sys2Proof.Machine.execWfeL64 o s
  | .kill o => Sys2Proof.Machine.execKill o s
  | .killL64 o => Sys2Proof.Machine.execKillL64 o s
  | .tlbinv o => Sys2Proof.Machine.execTlbinv o s
  | .tlbinvL64 o => Sys2Proof.Machine.execTlbinvL64 o s
  | .fence o => Sys2Proof.Machine.execFence o s
  | .fenceL64 o => Sys2Proof.Machine.execFenceL64 o s
  | .tclrS o => Sys2Proof.Machine.execTclrS o s
  | .tclrSL64 o => Sys2Proof.Machine.execTclrSL64 o s
  | .tclrV o => Sys2Proof.Machine.execTclrV o s
  | .tclrVL64 o => Sys2Proof.Machine.execTclrVL64 o s
  | .tclrP o => Sys2Proof.Machine.execTclrP o s
  | .tclrPL64 o => Sys2Proof.Machine.execTclrPL64 o s
  | .tclrVl o => Sys2Proof.Machine.execTclrVl o s
  | .tclrVlL64 o => Sys2Proof.Machine.execTclrVlL64 o s
  | .ld o => Sys2Proof.Machine.execLd o s
  | .ldIndex o => Sys2Proof.Machine.execLdIndex o s
  | .pref o => Sys2Proof.Machine.execPref o s
  | .st o => Sys2Proof.Machine.execSt o s
  | .stIndex o => Sys2Proof.Machine.execStIndex o s
  | .amo o => Sys2Proof.Machine.execAmo o s
  | .ldacq o => Sys2Proof.Machine.execLdacq o s
  | .strel o => Sys2Proof.Machine.execStrel o s
  | .vadd o => Sys2Proof.Machine.execVadd o s
  | .vsub o => Sys2Proof.Machine.execVsub o s
  | .vmin o => Sys2Proof.Machine.execVmin o s
  | .vmax o => Sys2Proof.Machine.execVmax o s
  | .vabs o => Sys2Proof.Machine.execVabs o s
  | .vsel o => Sys2Proof.Machine.execVsel o s
  | .vsat o => Sys2Proof.Machine.execVsat o s
  | .vaddSat o => Sys2Proof.Machine.execVaddSat o s
  | .vsubSat o => Sys2Proof.Machine.execVsubSat o s
  | .vshl o => Sys2Proof.Machine.execVshl o s
  | .vshr o => Sys2Proof.Machine.execVshr o s
  | .vsra o => Sys2Proof.Machine.execVsra o s
  | .vfsl o => Sys2Proof.Machine.execVfsl o s
  | .vfsr o => Sys2Proof.Machine.execVfsr o s
  | .vlut3 o => Sys2Proof.Machine.execVlut3 o s
  | .vcmp o => Sys2Proof.Machine.execVcmp o s
  | .vpopc o => Sys2Proof.Machine.execVpopc o s
  | .vclz o => Sys2Proof.Machine.execVclz o s
  | .vextb o => Sys2Proof.Machine.execVextb o s
  | .vinsb o => Sys2Proof.Machine.execVinsb o s
  | .vmul o => Sys2Proof.Machine.execVmul o s
  | .vmulh o => Sys2Proof.Machine.execVmulh o s
  | .vmac o => Sys2Proof.Machine.execVmac o s
  | .vdiv o => Sys2Proof.Machine.execVdiv o s
  | .vrem o => Sys2Proof.Machine.execVrem o s
  | .vperm o => Sys2Proof.Machine.execVperm o s
  | .vtbl o => Sys2Proof.Machine.execVtbl o s
  | .vcompress o => Sys2Proof.Machine.execVcompress o s
  | .vexpand o => Sys2Proof.Machine.execVexpand o s
  | .vrev o => Sys2Proof.Machine.execVrev o s
  | .vzip o => Sys2Proof.Machine.execVzip o s
  | .vunzip o => Sys2Proof.Machine.execVunzip o s
  | .vslideup o => Sys2Proof.Machine.execVslideup o s
  | .vslidedn o => Sys2Proof.Machine.execVslidedn o s
  | .pand o => Sys2Proof.Machine.execPand o s
  | .pandL64 o => Sys2Proof.Machine.execPandL64 o s
  | .por o => Sys2Proof.Machine.execPor o s
  | .porL64 o => Sys2Proof.Machine.execPorL64 o s
  | .pxor o => Sys2Proof.Machine.execPxor o s
  | .pxorL64 o => Sys2Proof.Machine.execPxorL64 o s
  | .pnot o => Sys2Proof.Machine.execPnot o s
  | .pnotL64 o => Sys2Proof.Machine.execPnotL64 o s
  | .pset o => Sys2Proof.Machine.execPset o s
  | .psetL64 o => Sys2Proof.Machine.execPsetL64 o s
  | .pfirst o => Sys2Proof.Machine.execPfirst o s
  | .pfirstL64 o => Sys2Proof.Machine.execPfirstL64 o s
  | .pcount o => Sys2Proof.Machine.execPcount o s
  | .pcountL64 o => Sys2Proof.Machine.execPcountL64 o s
  | .pmovsToScalar o => Sys2Proof.Machine.execPmovsToScalar o s
  | .pmovsToPredicate o => Sys2Proof.Machine.execPmovsToPredicate o s
  | .vexts o => Sys2Proof.Machine.execVexts o s
  | .vextsImm o => Sys2Proof.Machine.execVextsImm o s
  | .vinss o => Sys2Proof.Machine.execVinss o s
  | .vinssImm o => Sys2Proof.Machine.execVinssImm o s
  | .vbcast o => Sys2Proof.Machine.execVbcast o s
  | .vbcastImm o => Sys2Proof.Machine.execVbcastImm o s
  | .vid o => Sys2Proof.Machine.execVid o s
  | .viota o => Sys2Proof.Machine.execViota o s
  | .vfadd o => Sys2Proof.Machine.execVfadd o s
  | .vfsub o => Sys2Proof.Machine.execVfsub o s
  | .vfmul o => Sys2Proof.Machine.execVfmul o s
  | .vfma o => Sys2Proof.Machine.execVfma o s
  | .vfnma o => Sys2Proof.Machine.execVfnma o s
  | .vfdiv o => Sys2Proof.Machine.execVfdiv o s
  | .vfsqrt o => Sys2Proof.Machine.execVfsqrt o s
  | .vfrsq o => Sys2Proof.Machine.execVfrsq o s
  | .vfexp2 o => Sys2Proof.Machine.execVfexp2 o s
  | .vflog2 o => Sys2Proof.Machine.execVflog2 o s
  | .vfmin o => Sys2Proof.Machine.execVfmin o s
  | .vfmax o => Sys2Proof.Machine.execVfmax o s
  | .vfclass o => Sys2Proof.Machine.execVfclass o s
  | .vfcmp o => Sys2Proof.Machine.execVfcmp o s
  | .vcvt o => Sys2Proof.Machine.execVcvt o s
  | .qscale o => Sys2Proof.Machine.execQscale o s
  | .vqnt o => Sys2Proof.Machine.execVqnt o s
  | .vdqnt o => Sys2Proof.Machine.execVdqnt o s
  | .vredsum o => Sys2Proof.Machine.execVredsum o s
  | .vredmin o => Sys2Proof.Machine.execVredmin o s
  | .vredmax o => Sys2Proof.Machine.execVredmax o s
  | .vredand o => Sys2Proof.Machine.execVredand o s
  | .vredor o => Sys2Proof.Machine.execVredor o s
  | .vredxor o => Sys2Proof.Machine.execVredxor o s
  | .vscan o => Sys2Proof.Machine.execVscan o s
  | .vfredsum o => Sys2Proof.Machine.execVfredsum o s
  | .vfredosum o => Sys2Proof.Machine.execVfredosum o s
  | .vfredmin o => Sys2Proof.Machine.execVfredmin o s
  | .vfredmax o => Sys2Proof.Machine.execVfredmax o s
  | .vfscan o => Sys2Proof.Machine.execVfscan o s
  | .vld o => Sys2Proof.Machine.execVld o s
  | .vst o => Sys2Proof.Machine.execVst o s
  | .vlds o => Sys2Proof.Machine.execVlds o s
  | .vsts o => Sys2Proof.Machine.execVsts o s
  | .vldx o => Sys2Proof.Machine.execVldx o s
  | .vstx o => Sys2Proof.Machine.execVstx o s
  | .vld2d o => Sys2Proof.Machine.execVld2d o s
  | .vst2d o => Sys2Proof.Machine.execVst2d o s
  | .vldc o => Sys2Proof.Machine.execVldc o s
  | .vbind o => Sys2Proof.Machine.execVbind o s
  | .vunbind o => Sys2Proof.Machine.execVunbind o s
  | .wbind o => Sys2Proof.Machine.execWbind o s
  | .wunbind o => Sys2Proof.Machine.execWunbind o s
  | .vamo o => Sys2Proof.Machine.execVamo o s
  | .vsave o => Sys2Proof.Machine.execVsave o s
  | .vload o => Sys2Proof.Machine.execVload o s
  | .splk o => Sys2Proof.Machine.execSplk o s
  | .sptag o => Sys2Proof.Machine.execSptag o s
  | .spinv o => Sys2Proof.Machine.execSpinv o s
  | .spinvAll o => Sys2Proof.Machine.execSpinvAll o s
  | .spld o => Sys2Proof.Machine.execSpld o s
  | .spst o => Sys2Proof.Machine.execSpst o s
  | .spldTile o => Sys2Proof.Machine.execSpldTile o s
  | .spstTile o => Sys2Proof.Machine.execSpstTile o s
  | .spldx o => Sys2Proof.Machine.execSpldx o s
  | .lpld o => Sys2Proof.Machine.execLpld o s
  | .lpst o => Sys2Proof.Machine.execLpst o s
  | .lpldIndex o => Sys2Proof.Machine.execLpldIndex o s
  | .lpstIndex o => Sys2Proof.Machine.execLpstIndex o s
  | .epush o => Sys2Proof.Machine.execEpush o s
  | .epop o => Sys2Proof.Machine.execEpop o s
  | .epoll o => Sys2Proof.Machine.execEpoll o s
  | .waitev o => Sys2Proof.Machine.execWaitev o s
  | .evrd o => Sys2Proof.Machine.execEvrd o s
  | .evset o => Sys2Proof.Machine.execEvset o s
  | .mshape o => Sys2Proof.Machine.execMshape o s
  | .mshapeReg o => Sys2Proof.Machine.execMshapeReg o s
  | .mzero o => Sys2Proof.Machine.execMzero o s
  | .maccld o => Sys2Proof.Machine.execMaccld o s
  | .maccst o => Sys2Proof.Machine.execMaccst o s
  | .mma o => Sys2Proof.Machine.execMma o s
  | .mmas o => Sys2Proof.Machine.execMmas o s
  | .bfly o => Sys2Proof.Machine.execBfly o s
  | .bchain o => Sys2Proof.Machine.execBchain o s
  | .mtrans o => Sys2Proof.Machine.execMtrans o s
  | .mtransScratch o => Sys2Proof.Machine.execMtransScratch o s
  | .smld o => Sys2Proof.Machine.execSmld o s
  | .smst o => Sys2Proof.Machine.execSmst o s
  | .smget o => Sys2Proof.Machine.execSmget o s
  | .smput o => Sys2Proof.Machine.execSmput o s
  | .smmul o => Sys2Proof.Machine.execSmmul o s
  | .smmac o => Sys2Proof.Machine.execSmmac o s
  | .smadd o => Sys2Proof.Machine.execSmadd o s
  | .smsub o => Sys2Proof.Machine.execSmsub o s
  | .smtrn o => Sys2Proof.Machine.execSmtrn o s
  | .smscal o => Sys2Proof.Machine.execSmscal o s
  | .smchol o => Sys2Proof.Machine.execSmchol o s
  | .smlu o => Sys2Proof.Machine.execSmlu o s
  | .smsolv o => Sys2Proof.Machine.execSmsolv o s
  | .mbsend o => Sys2Proof.Machine.execMbsend o s
  | .mbrecv o => Sys2Proof.Machine.execMbrecv o s
  | .mbpoll o => Sys2Proof.Machine.execMbpoll o s
  | .glaunch o => Sys2Proof.Machine.execGlaunch o s
  | .gsig o => Sys2Proof.Machine.execGsig o s
  | .registerDrowsy uid reg => Sys2Proof.Machine.execRegisterDrowsy uid reg s
  | .elasticQueueFill core => Sys2Proof.Machine.execElasticQueueFill core s
  | .storePerform uid index => Sys2Proof.Machine.execStorePerform uid index s
  | .heldActivateRelease stack => Sys2Proof.Machine.execHeldActivateRelease stack s
  | .stackRefresh stack bank hint => Sys2Proof.Machine.execStackRefresh stack bank hint s
  | .retryReissue stack => Sys2Proof.Machine.execRetryReissue stack s
  | .patrolScrub line finding => Sys2Proof.Machine.execPatrolScrub line finding s
  | .migrationStart oldFrame newFrame => Sys2Proof.Machine.execMigrationStart oldFrame newFrame s
  | .migrationLineCopy oldFrame => Sys2Proof.Machine.execMigrationLineCopy oldFrame s
  | .migrationComplete oldFrame => Sys2Proof.Machine.execMigrationComplete oldFrame s
  | .migrationRelease oldFrame => Sys2Proof.Machine.execMigrationRelease oldFrame s
  | .copy6d cmd => Sys2Proof.Machine.execCopy6d cmd s
  | .fillCopy cmd => Sys2Proof.Machine.execFillCopy cmd s
  | .scratchInstall cmd => Sys2Proof.Machine.execScratchInstall cmd s
  | .allgather cmd => Sys2Proof.Machine.execAllgather cmd s
  | .redscat cmd => Sys2Proof.Machine.execRedscat cmd s
  | .allred cmd => Sys2Proof.Machine.execAllred cmd s
  | .bcast cmd => Sys2Proof.Machine.execBcast cmd s
  | .sendColl cmd => Sys2Proof.Machine.execSendColl cmd s
  | .recvColl cmd => Sys2Proof.Machine.execRecvColl cmd s
  | .commandCompletion cmd => Sys2Proof.Machine.execCommandCompletion cmd s
  | .timedCommandStart cmd => Sys2Proof.Machine.execTimedCommandStart cmd s
  | .collectiveMemberMessage msg => Sys2Proof.Machine.execCollectiveMemberMessage msg s
  | .collectiveAbort gid seq sender => Sys2Proof.Machine.execCollectiveAbort gid seq sender s
  | .collectiveTimeout cmd => Sys2Proof.Machine.execCollectiveTimeout cmd s
  | .strandWaitEnd uid => Sys2Proof.Machine.execStrandWaitEnd uid s
  | .dataFlit port flit => Sys2Proof.Machine.execDataFlit port flit s
  | .acknowledgeFlit port flit => Sys2Proof.Machine.execAcknowledgeFlit port flit s
  | .replayRequest port flit => Sys2Proof.Machine.execReplayRequest port flit s
  | .replayTimeout port => Sys2Proof.Machine.execReplayTimeout port s
  | .laneRepair port lane => Sys2Proof.Machine.execLaneRepair port lane s
  | .repairDrainTimeout port => Sys2Proof.Machine.execRepairDrainTimeout port s
  | .laneRepairFlit port flit => Sys2Proof.Machine.execLaneRepairFlit port flit s
  | .portDown port routes => Sys2Proof.Machine.execPortDown port routes s
  | .endToEndConfirm port flit => Sys2Proof.Machine.execEndToEndConfirm port flit s
  | .confirmTimer origin => Sys2Proof.Machine.execConfirmTimer origin s
  | .timeSyncSend port => Sys2Proof.Machine.execTimeSyncSend port s
  | .timeSyncFlit port flit => Sys2Proof.Machine.execTimeSyncFlit port flit s
  | .tsyncLost => Sys2Proof.Machine.execTsyncLost s
  | .launchGraph queue => Sys2Proof.Machine.execLaunchGraph queue s
  | .computeNode queue node => Sys2Proof.Machine.execComputeNode queue node s
  | .copyNode queue node => Sys2Proof.Machine.execCopyNode queue node s
  | .condNode queue node => Sys2Proof.Machine.execCondNode queue node s
  | .loopNode queue node => Sys2Proof.Machine.execLoopNode queue node s
  | .switchNode queue node => Sys2Proof.Machine.execSwitchNode queue node s
  | .mailNode queue node => Sys2Proof.Machine.execMailNode queue node s
  | .mailRetry queue node => Sys2Proof.Machine.execMailRetry queue node s
  | .waitmailNode queue node => Sys2Proof.Machine.execWaitmailNode queue node s
  | .timedNode queue node => Sys2Proof.Machine.execTimedNode queue node s
  | .endNode queue node => Sys2Proof.Machine.execEndNode queue node s
  | .nodeComplete queue node => Sys2Proof.Machine.execNodeComplete queue node s
  | .schedulingDecision => Sys2Proof.Machine.execSchedulingDecision s
  | .candidateReservation queue => Sys2Proof.Machine.execCandidateReservation queue s
  | .budgetOverrun queue node => Sys2Proof.Machine.execBudgetOverrun queue node s
  | .queueAbort queue => Sys2Proof.Machine.execQueueAbort queue s
  | .preemptionRequest uid boundary => Sys2Proof.Machine.execPreemptionRequest uid boundary s
  | .preemptionTake uid => Sys2Proof.Machine.execPreemptionTake uid s
  | .contextKill uid reason => Sys2Proof.Machine.execContextKill uid reason s
  | .msgsend vf value => Sys2Proof.Machine.execMsgsend vf value s
  | .agentCreate vf => Sys2Proof.Machine.execAgentCreate vf s
  | .agentDestroy vf => Sys2Proof.Machine.execAgentDestroy vf s
  | .queueSet vf => Sys2Proof.Machine.execQueueSet vf s
  | .mboxSet vf => Sys2Proof.Machine.execMboxSet vf s
  | .ctxpool vf => Sys2Proof.Machine.execCtxpool vf s
  | .preemptQueue vf => Sys2Proof.Machine.execPreemptQueue vf s
  | .debugOff vf => Sys2Proof.Machine.execDebugOff vf s
  | .debugOn vf => Sys2Proof.Machine.execDebugOn vf s
  | .debugHalt vf => Sys2Proof.Machine.execDebugHalt vf s
  | .debugStep vf => Sys2Proof.Machine.execDebugStep vf s
  | .loadObject vf => Sys2Proof.Machine.execLoadObject vf s
  | .unload vf => Sys2Proof.Machine.execUnload vf s
  | .unloadDone gen => Sys2Proof.Machine.execUnloadDone gen s
  | .assignObj vf => Sys2Proof.Machine.execAssignObj vf s
  | .s2root vf => Sys2Proof.Machine.execS2root vf s
  | .s2inv vf => Sys2Proof.Machine.execS2inv vf s
  | .farwin vf => Sys2Proof.Machine.execFarwin vf s
  | .keyset vf => Sys2Proof.Machine.execKeyset vf s
  | .prqreply vf value => Sys2Proof.Machine.execPrqreply vf value s
  | .prqhead vf value => Sys2Proof.Machine.execPrqhead vf value s
  | .registerWrite vf offset value => Sys2Proof.Machine.execRegisterWrite vf offset value s
  | .bar2Access vf offset write bytes => Sys2Proof.Machine.execBar2Access vf offset write bytes s
  | .getVersion request => Sys2Proof.Machine.execGetVersion request s
  | .getCapabilities request => Sys2Proof.Machine.execGetCapabilities request s
  | .negotiateAlgorithms request => Sys2Proof.Machine.execNegotiateAlgorithms request s
  | .getDigests request => Sys2Proof.Machine.execGetDigests request s
  | .getCertificate request => Sys2Proof.Machine.execGetCertificate request s
  | .challenge request => Sys2Proof.Machine.execChallenge request s
  | .getMeasurements request => Sys2Proof.Machine.execGetMeasurements request s
  | .deviceReset => Sys2Proof.Machine.execDeviceReset s
  | .arbiterRedivision demand => Sys2Proof.Machine.execArbiterRedivision demand s
  | .governorClamp core => Sys2Proof.Machine.execGovernorClamp core s
  | .governorClampEnd core => Sys2Proof.Machine.execGovernorClampEnd core s
  | .monitorSample unit sample => Sys2Proof.Machine.execMonitorSample unit sample s
  | .monitorCountSample unit sample => Sys2Proof.Machine.execMonitorCountSample unit sample s
  | .snapMonitor unit => Sys2Proof.Machine.execSnapMonitor unit s
  | .coreFailure core failing => Sys2Proof.Machine.execCoreFailure core failing s
  | .resumeStrand uid => Sys2Proof.Machine.execResumeStrand uid s
  | .wfeWaitEndByDevice uid => Sys2Proof.Machine.execWfeWaitEndByDevice uid s

end Sys2Proof.Machine
end

