-- ==== Sys2Proof/Machine/Happen.lean ====
section
/-! DEFINITION. What happens to the device beside the rows of the opcode table (log entry 88). -/

namespace Sys2Proof.Machine

/-! ### Errors (R66 to R68, R129, R384) -/

/-- A line of memory becomes poisoned, in a stack or in a pool. -/
def Device.spoil (d : Device) (line : Nat) : Device :=
  if inStacks line then d.poisonLine line else if d.backed (64 * line) then d.setPoison line true else d

/-- The bytes of the 64-byte group of a place. -/
def groupOf (k : Nat) : List Nat := (List.range 64).map (k / 64 * 64 + ·)

/-- An uncorrectable error of the scratchpad poisons a group of a window (R129). -/
def Device.scratchError (d : Device) (g k : Nat) : Device :=
  match d.window g with
  | some w => if w.live && decide (k < 4096 * w.slots) then d.setWindow { w with bad := (groupOf k).foldl insertSorted w.bad } else d
  | none => d

/-- One of a lane slice poisons a group of a strand's slice window. -/
def Strand.sliceError (t : Strand) (lane k : Nat) : Strand :=
  if lane < 64 ∧ k < 1024 * t.kern.slice then
    { t with regs := { t.regs with sliceBad := (groupOf (16384 * lane + k)).foldl insertSorted t.regs.sliceBad } }
  else t

/-! ### Management -/

/-- LTHR is 1 to 255 (R306). -/
def Device.setLaneThreshold (d : Device) (n : Nat) : Device := if 1 ≤ n ∧ n ≤ 255 then { d with ltHr := n } else d

/-- Has no strand run since the bring-up trained the ports (R421)? -/
def State.unused (s : State) : Bool := s.dev.nextUid == 1 && !(s.strands.any (·.live))

/-- The device's identifier, which is given at bring-up, and the routes to other devices, once the ports are trained (R302,
R421). -/
def State.identify (s : State) (dev : Nat) (routes : List (Nat × Nat)) : State :=
  if s.dev.broughtUp < 4 then s
  else s.onDev fun d => { d with
    devId := if s.unused then dev % 4096 else d.devId
    routes := routes
    unreachable := d.unreachable.filter fun x => !(routes.any fun e => e.1 == x) }

/-- At bring-up management names the root and steps the device to its time, which never makes gtime less; the root is
synchronised (R309, R317). Once strands have run gtime is not stepped (R310). -/
def State.bringTime (s : State) (root : Nat) (time : Word) : State :=
  if s.dev.broughtUp < 4 || !s.unused then s
  else s.onDev fun d => { d with
    gtime := if d.gtime.toNat ≤ time.toNat then time else d.gtime
    sync := { d.sync with
      root := root
      depth := if root == d.devId then 0 else d.sync.depth
      lost := if root == d.devId then false else d.sync.lost } }

/-- A device that shares its memory has written a byte of it (R289, log entry 110). -/
def Device.remoteWrite (d : Device) (pa : Nat) (x : Byte) : Device :=
  if !d.backed pa && (Config.remoteHome pa).isSome then d.writeByte pa x else d

/-- One happening. -/
def State.happen (s : State) (h : Happening) : State :=
  match h with
  | .lineError line f => s.onDev fun d => if inStacks line then d.finds line f else d
  | .poolPoison line => s.onDev fun d => if inStacks line then d else d.spoil line
  | .dirtyLineError line => s.onDev (·.spoil line)
  | .scratchError g k => s.onDev (·.scratchError g k)
  | .sliceError u lane k => s.upd u (·.sliceError lane k)
  | .activate k => s.onDev fun d => if d.stacksUp && decide (k < stackCount) then d.setStack k ((d.stack k).activate d.gtime.toNat) else d
  | .remoteWrite pa x => s.onDev (·.remoteWrite pa x)
  | .monitorWrite n x => s.onDev (·.mgmtWrite n x)
  | .laneThreshold n => s.onDev (·.setLaneThreshold n)
  | .identify dev routes => s.identify dev routes
  | .bringTime root time => s.bringTime root time

end Sys2Proof.Machine
end

