-- ==== Sys2Proof/Machine/Step.lean ====
section
/-! DEFINITION. The step of the machine, and the placing of a word where the next step fetches it. -/

namespace Sys2Proof.Machine

/-- The current strand's own step: a pending pre-emption is taken first (R52), and a single step that a wait's end has
completed ends; else the instruction at the pc is fetched and executed, or its stop taken; a single step ends (R400). A strand
that does not issue leaves the machine as it is. -/
noncomputable def strandStep (s : State) : Host.Outcome State Fault Refusal :=
  if !(s.dev.issues s.cur) then .next s
  else if s.cur.preemptNow || s.cur.stepDone then .next (s.takePreempt s.cur.uid)
  else
    match fetch (s.onCur (·.nearer)) with
    | .error e s' => .next (s'.stopAt s.cur.convoy e)
    | .ok i s' =>
      if s.cur.step1 then
        match exec i s' with
        | .next s'' => .next (s''.afterStep s.cur.uid)
        | r => r
      else exec i s'

/-- What the agenda names happens, or the current strand moves. -/
noncomputable def move (s : State) : Host.Outcome State Fault Refusal :=
  match s.agenda with
  | .event e :: rest => exec e { s with agenda := rest }
  | .happens h :: rest => .next (({ s with agenda := rest } : State).happen h)
  | .strand uid :: rest => strandStep (({ s with agenda := rest } : State).turnTo uid)
  | [] => strandStep s.freeTurn

/-- The scheduling decisions that a move has made due are taken (R363). -/
noncomputable def decided : Host.Outcome State Fault Refusal → Host.Outcome State Fault Refusal
  | .next s => .next s.decideDue
  | r => r

/-- One step: time passes, something moves, and the decisions that this makes due are taken. -/
noncomputable def step (s : State) : Host.Outcome State Fault Refusal := decided (move s.tick)

/-- HOST INTERFACE. Put the instruction of nbits bits w where the next step fetches it (log entry 11). -/
def State.withFetchWord (s : State) (nbits w : Nat) : State :=
  s.placeParcels (w % 2 ^ nbits)

end Sys2Proof.Machine
end

