-- ==== Sys2Proof/Safety.lean ====
section
/-! DEFINITION. What counts as a safe run: the invariant of the state that every step keeps, and what a step answers. -/

namespace Sys2Proof.Machine

/-- A strand stands at one of the three trap levels of R372. -/
def Strand.levelOk (t : Strand) : Prop := t.sup.tlevel.toNat ≤ 2

/-- THE INVARIANT: memory is in its canonical form, and every strand stands at a trap level that exists. -/
def State.Inv (s : State) : Prop := Memory.wf s.dev.mem = true ∧ ∀ t ∈ s.strands, t.levelOk

/-- A step is safe where it answers a next state: nothing in the manual stops the machine (log entry 14). -/
def State.StepsOn (s : State) : Prop := ∃ t, step s = .next t

end Sys2Proof.Machine
end

