-- ==== Sys2Proof/WellFormed.lean ====
section
/-! DEFINITION. When an instruction is well formed: its fields fit its form, and the field checks of R51 at feature
level 2 admit them as this very instruction. An event is well formed when its operands lie in the ranges the manual
gives the objects they name. -/

namespace Sys2Proof

/-- The fields that a form does not carry are zero (R36), and IMM12 has 12 bits (R34). -/
def Operands.shaped (o : Operands) : Bool :=
  match o.form with
  | .s32 => decide (o.fn.toNat < 16) && o.g == 0 && !o.xa && !o.xd && !o.u && o.ty == .i8 && o.rm == 0 && o.imm == 0 &&
      o.aux == 0
  | .l64 => decide (o.imm.toNat < 4096) && o.aux == 0
  | .x96 => true

/-- The fields of i classify as i. -/
def Operands.classifiesAs (o : Operands) (m : Mnem) : Bool :=
  match classifyRow 2 o with
  | .ok r => r.mn == m
  | .error _ => false

/-- Ports are 0 to 15 (R301), stacks 0 to 15 (R57), queues 0 to 63 (R354), functions 0 to 63 (R395), monitor units 0 to
63 (R416), logical cores 0 to 151 (R22), agents 0 to 255. -/
def Instr.wellFormed (i : Instr) : Prop :=
  match i with
  | .dataFlit p f | .acknowledgeFlit p f | .replayRequest p f | .laneRepairFlit p f | .endToEndConfirm p f
  | .timeSyncFlit p f => p < 16 ∧ f.length = 256
  | .replayTimeout p | .repairDrainTimeout p | .timeSyncSend p => p < 16
  | .laneRepair p l => p < 16 ∧ l < 8
  | .portDown p r => p < 16 ∧ ∀ e ∈ r, e.1 < 4096 ∧ e.2 < 16
  | .heldActivateRelease k | .retryReissue k => k < 16
  | .stackRefresh k _ h => k < 16 ∧ 1 ≤ h ∧ h ≤ 1023
  | .elasticQueueFill c | .governorClamp c | .governorClampEnd c | .coreFailure c _ => c < 152
  | .monitorSample u _ | .monitorCountSample u _ | .snapMonitor u => u < 64
  | .launchGraph q | .candidateReservation q | .queueAbort q => q < 64
  | .computeNode q _ | .copyNode q _ | .condNode q _ | .loopNode q _ | .switchNode q _ | .mailNode q _ | .mailRetry q _
  | .waitmailNode q _ | .timedNode q _ | .endNode q _ | .nodeComplete q _ | .budgetOverrun q _ => q < 64
  | .agentCreate v | .agentDestroy v | .queueSet v | .mboxSet v | .ctxpool v | .preemptQueue v | .debugOff v | .debugOn v
  | .debugHalt v | .debugStep v | .loadObject v | .unload v | .assignObj v | .s2root v | .s2inv v | .farwin v
  | .keyset v => v < 64
  | .msgsend v _ | .prqreply v _ | .prqhead v _ => v < 64
  | .registerWrite v off _ => v < 64 ∧ off < 65536 ∧ off % 8 = 0
  | .bar2Access v off w n => v < 64 ∧ off + n ≤ 2 ^ 36 ∧ ∀ l ∈ w, l.length = n
  | .registerDrowsy _ r => r < 64
  | .contextKill _ r => 1 ≤ r ∧ r ≤ 8
  | _ =>
    match i.ops with
    | some o => o.shaped = true ∧ ∃ r, classifyRow 2 o = .ok r ∧ r.mn.instr o = i
    | none => True

end Sys2Proof
end

