-- ==== Sys2Proof/Certificates/Slice0/Obligations.lean ====
section
/-! DEFINITION. The statements for the provers. Sys2Proof.Claims holds their vocabulary: tables of constructors with
what the manual gives each, frames, and conditions on the state and the operands. -/

open Sys2Proof Sys2Proof.Machine

namespace Sys2Proof.Claims

/-! ### Frames -/

/-- A change of the current strand alone: the other strands, the agenda, the device and so every byte of memory stay. -/
def OnlyCur (s t : State) : Prop :=
  t.others = s.others ∧ t.agenda = s.agenda ∧ t.dev = s.dev ∧ ∀ a, t.dev.readByte a = s.dev.readByte a

/-- What retiring may change: the pc, and at the end of a nest's body its indices, its activity and the convoy. -/
def RetireOnly (c d : Strand) : Prop :=
  d = { c with pc := d.pc, csr := { c.csr with li := d.csr.li }, nest := { c.nest with active := d.nest.active },
               convoy := d.convoy }

/-- The state u is s once the strand has named vector registers: they are in the file and awake (R157, R158, R160). What
that changes, Obligations.Residency states. -/
def InFile (regs : List Nat) (s u : State) : Prop := touch regs s = .ok () u

/-- The scalar registers but those listed. -/
def ScalarsBut (l : List Nat) (c d : Strand) : Prop := ∀ n, n ∉ l → d.s n = c.s n

end Sys2Proof.Claims

namespace Sys2Proof.Claims

/-! ### Scalar arithmetic (R203 to R207) -/

/-- What the manual gives an operation of R203: an integer, of which the low 64 bits are the result. -/
abbrev Alu := Word → Word → Int

def aAdd : Alu := fun a b => a.toInt + b.toInt
def aSub : Alu := fun a b => a.toInt - b.toInt
def aAnd : Alu := fun a b => (a &&& b).toNat
def aOr : Alu := fun a b => (a ||| b).toNat
def aXor : Alu := fun a b => (a ^^^ b).toNat
def aShl : Alu := fun a b => if b.toNat ≥ 64 then 0 else a.toNat * 2 ^ b.toNat
def aShr : Alu := fun a b => if b.toNat ≥ 64 then 0 else (a.toNat / 2 ^ b.toNat : Nat)
def aSra : Alu := fun a b => if b.toNat ≥ 64 then (if a.toInt < 0 then -1 else 0) else a.toInt / 2 ^ b.toNat
def aSlt : Alu := fun a b => if a.toInt < b.toInt then 1 else 0
def aSltn : Alu := fun a b => if a.toNat < b.toNat then 1 else 0
def aSeq : Alu := fun a b => if a = b then 1 else 0
def aMin : Alu := fun a b => min a.toInt b.toInt
def aMax : Alu := fun a b => max a.toInt b.toInt
def aMinn : Alu := fun a b => (min a.toNat b.toNat : Nat)
def aMaxn : Alu := fun a b => (max a.toNat b.toNat : Nat)
def aMul : Alu := fun a b => a.toInt * b.toInt
def aMulh : Alu := fun a b => a.toInt * b.toInt / 2 ^ 64
def aMulhn : Alu := fun a b => (a.toNat * b.toNat / 2 ^ 64 : Nat)
def aRol : Alu := fun a b => (a.toNat * 2 ^ (b.toNat % 64) + a.toNat / 2 ^ (64 - b.toNat % 64) : Nat)
def aDiv : Alu := fun a b => a.toInt.tdiv b.toInt
def aDivn : Alu := fun a b => (a.toNat / b.toNat : Nat)
def aRem : Alu := fun a b => a.toInt - b.toInt * a.toInt.tdiv b.toInt
def aRemn : Alu := fun a b => (a.toNat % b.toNat : Nat)

/-- The register forms of opcode 0x01 that never stop. -/
def aluRegTable1 : List ((Operands → Instr) × Alu) :=
  [(.add, aAdd), (.addL64, aAdd), (.sub, aSub), (.subL64, aSub), (.and_, aAnd), (.andL64, aAnd), (.or_, aOr),
   (.orL64, aOr), (.xor_, aXor), (.xorL64, aXor), (.shl, aShl), (.shlL64, aShl), (.shr, aShr), (.shrL64, aShr)]

def aluRegTable2 : List ((Operands → Instr) × Alu) :=
  [(.sra, aSra), (.sraL64, aSra), (.slt, aSlt), (.sltL64, aSlt), (.sltn, aSltn), (.sltnL64, aSltn), (.seq, aSeq),
   (.seqL64, aSeq), (.min, aMin), (.minL64, aMin), (.max, aMax), (.maxL64, aMax), (.minn, aMinn), (.minnL64, aMinn)]

def aluRegTable3 : List ((Operands → Instr) × Alu) :=
  [(.maxn, aMaxn), (.maxnL64, aMaxn), (.mul, aMul), (.mulL64, aMul), (.mulh, aMulh), (.mulhn, aMulhn), (.rol, aRol)]

def aluRegTable : List ((Operands → Instr) × Alu) := aluRegTable1 ++ aluRegTable2 ++ aluRegTable3

/-- The immediate forms of opcode 0x02 that never stop. -/
def aluImmTable : List ((Operands → Instr) × Alu) :=
  [(.addi, aAdd), (.subi, aSub), (.andi, aAnd), (.ori, aOr), (.xori, aXor), (.shli, aShl), (.shri, aShr),
   (.srai, aSra), (.slti, aSlt), (.sltni, aSltn), (.seqi, aSeq), (.mini, aMin), (.maxi, aMax), (.minni, aMinn),
   (.maxni, aMaxn), (.muli, aMul), (.mulhi, aMulh), (.mulhni, aMulhn), (.roli, aRol)]

/-- The divisions: with the result by a divisor that is not 0, and the result by 0 (R205). -/
def divRegTable : List ((Operands → Instr) × Alu × (Word → Word)) :=
  [(.div, aDiv, fun _ => -1), (.divn, aDivn, fun _ => -1), (.rem, aRem, id), (.remn, aRemn, id)]

def divImmTable : List ((Operands → Instr) × Alu × (Word → Word)) :=
  [(.divi, aDiv, fun _ => -1), (.divni, aDivn, fun _ => -1), (.remi, aRem, id), (.remni, aRemn, id)]

/-- Counts of bits (R203) and the field EXT takes (R207): instructions of one source. -/
def oneTable : List ((Operands → Instr) × (Operands → Word → Nat)) :=
  [(.clz, fun _ a => ((List.range 64).takeWhile fun k => !a.getLsbD (63 - k)).length),
   (.ctz, fun _ a => ((List.range 64).takeWhile fun k => !a.getLsbD k).length),
   (.popc, fun _ a => ((List.range 64).filter fun k => a.getLsbD k).length),
   (.ext, fun o a => a.toNat / 2 ^ o.imPos % 2 ^ o.imLen)]

/-- Instructions whose result also depends on the old sd: bit j of the result, from the old sd and the two sources. -/
def oldDTable : List ((Operands → Instr) × (Operands → Word → Word → Word → Nat → Bool) × (Operands → List RegId)) :=
  [(.lut3, fun o d a b j => (o.im 0 8).testBit (4 * (d.getLsbD j).toNat + 2 * (a.getLsbD j).toNat + (b.getLsbD j).toNat),
     fun o => [.s o.d.toNat, .s o.a.toNat, .s o.b.toNat]),
   (.ins, fun o d a _ j => if o.imPos ≤ j ∧ j < o.imPos + o.imLen then a.getLsbD (j - o.imPos) else d.getLsbD j,
     fun o => [.s o.d.toNat, .s o.a.toNat]),
   (.sel, fun _ d a b j => if d.getLsbD j then a.getLsbD j else b.getLsbD j,
     fun o => [.s o.d.toNat, .s o.a.toNat, .s o.b.toNat]),
   (.lih, fun o d _ _ j => if j < 32 then d.getLsbD j else o.simm.getLsbD (j - 32), fun o => [.s o.d.toNat])]

/-- Every scalar instruction of opcodes 0x01 to 0x04. -/
def scalarCtors : List (Operands → Instr) :=
  aluRegTable.map (·.1) ++ aluImmTable.map (·.1) ++ divRegTable.map (·.1) ++ divImmTable.map (·.1) ++
  oneTable.map (·.1) ++ oldDTable.map (·.1) ++ [Instr.li]

end Sys2Proof.Claims

open Sys2Proof.Claims

/-- R203: a register form answers the next state in which sd holds the low 64 bits of the stated value, its taint is the
union of its sources', and the instruction has retired. -/
def Sys2Proof.Claims.ScalarRegisterForms : Prop :=
  ∀ e ∈ aluRegTable, ∀ (o : Operands) (s : State),
    exec (e.1 o) s = .next (s.onCur fun c =>
      (c.putS o.d.toNat (BitVec.ofInt 64 (e.2 (c.s o.a.toNat) (c.s o.b.toNat))) [.s o.a.toNat, .s o.b.toNat]).retire o)

/-- R204: the same with the sign-extended immediate as operand b. -/
def Sys2Proof.Claims.ScalarImmediateForms : Prop :=
  ∀ e ∈ aluImmTable, ∀ (o : Operands) (s : State),
    exec (e.1 o) s = .next (s.onCur fun c =>
      (c.putS o.d.toNat (BitVec.ofInt 64 (e.2 (c.s o.a.toNat) o.simm)) [.s o.a.toNat]).retire o)

/-- R205: a division by a value that is not 0 gives the stated result; by 0 with DZS 0 the fixed result and DZF; by 0
with DZS 1 it traps with INT_DZ and tval 0. -/
def Sys2Proof.Claims.ScalarDivision : Prop :=
  (∀ e ∈ divRegTable, ∀ (o : Operands) (s : State),
    let a := s.cur.s o.a.toNat
    let b := s.cur.s o.b.toNat
    let done := fun (x : Word) (c : Strand) => (c.putS o.d.toNat x [.s o.a.toNat, .s o.b.toNat]).retire o
    (b ≠ 0 → exec (e.1 o) s = .next (s.onCur (done (BitVec.ofInt 64 (e.2.1 a b))))) ∧
    (b = 0 → s.cur.csr.icsr.getLsbD 1 = false → exec (e.1 o) s = .next (s.onCur fun c =>
      done (e.2.2 a) { c with csr := { c.csr with icsr := c.csr.icsr ||| 1 } })) ∧
    (b = 0 → s.cur.csr.icsr.getLsbD 1 = true → exec (e.1 o) s = .next (s.trap .intDz 0 s.cur.pc false))) ∧
  ∀ e ∈ divImmTable, ∀ (o : Operands) (s : State),
    let a := s.cur.s o.a.toNat
    let b := o.simm
    let done := fun (x : Word) (c : Strand) => (c.putS o.d.toNat x [.s o.a.toNat]).retire o
    (b ≠ 0 → exec (e.1 o) s = .next (s.onCur (done (BitVec.ofInt 64 (e.2.1 a b))))) ∧
    (b = 0 → s.cur.csr.icsr.getLsbD 1 = false → exec (e.1 o) s = .next (s.onCur fun c =>
      done (e.2.2 a) { c with csr := { c.csr with icsr := c.csr.icsr ||| 1 } })) ∧
    (b = 0 → s.cur.csr.icsr.getLsbD 1 = true → exec (e.1 o) s = .next (s.trap .intDz 0 s.cur.pc false))

/-- R203, R206, R207: CLZ, CTZ, POPC, EXT and LI; and bit by bit LUT3, INS, SEL and LIH, which read the old sd. -/
def Obligations.ScalarBitForms : Prop :=
  (∀ e ∈ oneTable, ∀ (o : Operands) (s : State),
    exec (e.1 o) s = .next (s.onCur fun c =>
      (c.putS o.d.toNat (BitVec.ofNat 64 (e.2 o (c.s o.a.toNat))) [.s o.a.toNat]).retire o)) ∧
  (∀ e ∈ oldDTable, ∀ (o : Operands) (s : State),
    exec (e.1 o) s = .next (s.onCur fun c =>
      (c.putS o.d.toNat (BitVec.ofFnLE fun j : Fin 64 =>
        e.2.1 o (c.s o.d.toNat) (c.s o.a.toNat) (c.s o.b.toNat) j.val) (e.2.2 o)).retire o)) ∧
  ∀ (o : Operands) (s : State), exec (.li o) s = .next (s.onCur fun c => (c.putS o.d.toNat o.simm []).retire o)

/-- The frame of every scalar instruction of opcodes 0x01 to 0x04 that does not trap: nothing but sd with its taint,
icsr.DZF (a division by 0) and what retiring changes; s0 stays 0 (R39). -/
def Obligations.ScalarFrame : Prop :=
  ∀ c ∈ scalarCtors, ∀ (o : Operands) (s t : State), exec (c o) s = .next t →
    s.cur.csr.icsr.getLsbD 1 = false →
    OnlyCur s t ∧ ScalarsBut [o.d.toNat] s.cur t.cur ∧ t.cur.s 0 = 0 ∧
    RetireOnly { s.cur with regs := { s.cur.regs with s := t.cur.regs.s }, taint := t.cur.taint,
                            csr := { s.cur.csr with icsr := t.cur.csr.icsr } } t.cur ∧
    (t.cur.csr.icsr = s.cur.csr.icsr ∨ t.cur.csr.icsr = s.cur.csr.icsr ||| 1) ∧
    ∀ r : RegId, r ≠ .s o.d.toNat → t.cur.taintOf r = s.cur.taintOf r

namespace Sys2Proof.Claims

/-! ### Accesses that need no walk -/

/-- A kept translation answers this access (R75 to R85): the address is in range and outside the windows, the TLB holds
a leaf that grants the access (with D set for a write), stage 2 gives the physical address without a change, and memory
backs it. A virtual function's strand walks stage 2, which sees its earlier stores (R95): it has none that wait. -/
def Translates (s : State) (acc : Acc) (va : Word) (pa : Nat) : Prop :=
  (s.cur.vf = 0 ∨ s.cur.buf = []) ∧ va.toNat < 2 ^ 48 ∧ ¬ (0x7F0000000000 ≤ va.toNat ∧ va.toNat < 0x7F1000000000) ∧
  ∃ e, s.dev.tlbHit s.cur.ctx va.toNat = some e ∧ grants acc s.cur.ctx.super e.r e.w e.x e.u = true ∧
    ((acc = .store ∨ acc = .atomic) → e.d = true) ∧
    (∀ dirty, (dirty = true → acc = .store ∨ acc = .atomic) →
      guestPhys s.cur.vf ⟨acc.tf, acc.kind, va⟩ (e.phys + va.toNat % 2 ^ e.shift) (acc == .load || acc == .atomic)
        (acc == .store || acc == .atomic) (acc == .fetch) dirty s.dev = .ok pa s.dev) ∧
    s.dev.backed pa = true

/-- n bytes can be loaded from an address, which is aligned: they start at pa. -/
def Loadable (s : State) (va : Word) (n pa : Nat) : Prop :=
  va.toNat % n = 0 ∧ Translates s .load va pa ∧ s.poisonSeen pa = false

/-- n bytes can be stored to an address, which is aligned: they go to pa on. -/
def Storable (s : State) (va : Word) (n pa : Nat) : Prop := va.toNat % n = 0 ∧ Translates s .store va pa

/-- A parcel can be fetched. -/
def ParcelAt (s : State) (va : Word) (p : Nat) : Prop :=
  ∃ pa, Translates s .fetch va pa ∧ s.dev.poisoned pa = false ∧ p = s.dev.readLE pa 4

/-- The loads of a set have performed (R286). -/
def afterLoads (x : Taint) (c : Strand) : Strand := c.drainTags (c.tagsOf x)

/-- A store waits behind the loads of its set and of the branches before it (R286). -/
def beforeStore (x : Taint) (c : Strand) : Strand := c.drainTags (c.tagsOf (c.joinTaint x c.later))

/-- A store enters the strand's buffer (R278). -/
def withStore (pa : Nat) (bytes : List Byte) (x : Taint) (c : Strand) : Strand :=
  { c with buf := c.buf ++ [⟨pa, bytes, [], none, x⟩] }

/-- The address after an instruction. -/
def after (o : Operands) (c : Strand) : Word := c.pc + BitVec.ofNat 64 (lenOf o)

/-- No nest's body ends with this instruction. -/
def NotAtBodyEnd (o : Operands) (c : Strand) : Prop := (c.nestHere && after o c == c.nest.stop) = false

/-! ### Branches, jumps, calls (R325 to R327) -/

/-- The conditional branches: the registers control depends on, and when each is taken. -/
def branchTable : List ((Operands → Instr) × (Operands → Strand → List RegId) × (Operands → Strand → Bool)) :=
  let two := fun (o : Operands) (_ : Strand) => [RegId.s o.a.toNat, .s o.b.toNat]
  let one := fun (o : Operands) (_ : Strand) => [RegId.s o.a.toNat]
  let pred := fun (o : Operands) (c : Strand) => [RegId.p o.a.toNat, .p c.csr.mif.toNat, .vl]
  let si := fun (c : Strand) (r : BitVec 6) => (c.s r.toNat).toInt
  let un := fun (c : Strand) (r : BitVec 6) => (c.s r.toNat).toNat
  let bits := fun (o : Operands) (c : Strand) => ((List.range c.vl).filter (c.p c.csr.mif.toNat)).map (c.p o.a.toNat)
  [(.bEq, two, fun o c => decide (un c o.a = un c o.b)), (.bNe, two, fun o c => decide (un c o.a ≠ un c o.b)),
   (.bLt, two, fun o c => decide (si c o.a < si c o.b)), (.bGe, two, fun o c => decide (si c o.b ≤ si c o.a)),
   (.bLtn, two, fun o c => decide (un c o.a < un c o.b)), (.bGen, two, fun o c => decide (un c o.b ≤ un c o.a)),
   (.bz, one, fun o c => decide (un c o.a = 0)), (.bnz, one, fun o c => decide (un c o.a ≠ 0)),
   (.bpAny, pred, fun o c => (bits o c).any id), (.bpAll, pred, fun o c => (bits o c).all id),
   (.bpNone, pred, fun o c => !(bits o c).any id)]

/-- The address a branch or a jump with an offset in parcels goes to. -/
def offsetTarget (o : Operands) (c : Strand) : Word := c.pc + 4 * o.simm

/-- The vector-state word of R327. -/
def stateWord (c : Strand) : Nat := c.csr.vl.toNat + 2 ^ 32 * c.csr.ew.toNat + 2 ^ 34 * c.csr.mif.toNat

/-- A call: both slots of the frame are pushed, s31 falls by 16, and control goes to the target. srcs: the registers of the
target, sources of s31 too (R285). -/
def called (o : Operands) (pa pa' : Nat) (target : Word) (srcs : List RegId) (c : Strand) : Strand :=
  let x := c.unionOf (.s 31 :: .vl :: srcs)
  let c' := withStore pa' (bytesLE 8 (stateWord c)) x
    (withStore pa (bytesLE 8 (after o c).toNat) x (beforeStore x c))
  { c'.putS 31 (c.s 31 - 16) (.s 31 :: .vl :: srcs) with pc := target, convoy := .closed }

/-- The same for a strand of a virtual function, whose first store has performed before the second is translated. -/
def calledGuest (o : Operands) (pa' : Nat) (target : Word) (srcs : List RegId) (c : Strand) : Strand :=
  let x := c.unionOf (.s 31 :: .vl :: srcs)
  let c' := withStore pa' (bytesLE 8 (stateWord c)) x (beforeStore x c)
  { c'.putS 31 (c.s 31 - 16) (.s 31 :: .vl :: srcs) with pc := target, convoy := .closed }

/-- Instructions that an active nest at its level forbids (R331): opcodes 0x10, 0x11, 0x14 and 0x15. -/
def forbiddenInNest : List (Operands → Instr) :=
  List.append (branchTable.map fun e => e.1) [.jump, .jr, .call, .callr, .ret, .vtb, .vtend, .vtendL64, .vtnext, .farm, .farmL64, .strip,
    .stripL64, .fbar, .fbarL64, .cbar, .cbarL64, .yield, .yieldL64, .exit, .exitL64, .nest]

/-! ### Nests (R329 to R331) -/

/-- n instructions from an address end at another, by their LEN fields. -/
def BodyEnds (s : State) : Nat → Word → Word → Prop
  | 0, a, e => a = e
  | n + 1, a, e => ∃ p, ParcelAt s a p ∧ BodyEnds s n (a + (match formOf p with
      | some f => BitVec.ofNat 64 (4 * f.parcels)
      | none => 4)) e

/-- The index of a level. -/
def lix (c : Strand) (j : Nat) : Nat := (Store.get c.csr.li j).toNat

end Sys2Proof.Claims

/-- R325: a branch orders later stores after the loads of its sources, and goes to its address + 4 × offset where it is
taken, to the next instruction where it is not. -/
def Obligations.BranchesGoWhereStated : Prop :=
  ∀ e ∈ branchTable, ∀ (o : Operands) (s : State), s.cur.nestHere = false →
    exec (e.1 o) s = .next (s.onCur fun c =>
      if e.2.2 o c then (c.orderLater (e.2.1 o c)).jumpTo (offsetTarget o c) else (c.orderLater (e.2.1 o c)).retire o)

/-- R326, R327: J, JR, CALL and CALLR. A register target that is not a multiple of 4, and a stack pointer that is not a
multiple of 16, take ALIGN. -/
def Sys2Proof.Claims.JumpsAndCalls : Prop :=
  ∀ (o : Operands) (s : State), s.cur.nestHere = false →
    let sp := s.cur.s 31
    let a := s.cur.s o.a.toNat
    exec (.jump o) s = .next (s.onCur fun c => c.jumpTo (offsetTarget o c)) ∧
    (a.toNat % 4 = 0 → exec (.jr o) s = .next (s.onCur fun c => (c.orderLater [.s o.a.toNat]).jumpTo a)) ∧
    (a.toNat % 4 ≠ 0 → exec (.jr o) s = .next (s.trap .align a s.cur.pc false)) ∧
    (sp.toNat % 16 ≠ 0 → exec (.call o) s = .next (s.trap .align sp s.cur.pc false) ∧
      exec (.callr o) s = .next (s.trap .align sp s.cur.pc false) ∧
      exec (.ret o) s = .next (s.trap .align sp s.cur.pc false)) ∧
    ∀ pa pa', sp.toNat % 16 = 0 → Translates s .store (sp - 16) pa → Translates s .store (sp - 8) pa' →
      (s.cur.vf = 0 →
        ((offsetTarget o s.cur).toNat % 4 = 0 →
          exec (.call o) s = .next (s.onCur (called o pa pa' (offsetTarget o s.cur) []))) ∧
        (a.toNat % 4 = 0 → exec (.callr o) s = .next (s.onCur fun c =>
          { (called o pa pa' a [.s o.a.toNat] c).orderLater [.s o.a.toNat] with pc := a }))) ∧
      (s.cur.vf ≠ 0 →
        let q := s.onDev fun d => d.writeBytes pa (bytesLE 8 (after o s.cur).toNat)
        Translates q .store (sp - 8) pa' →
        ((offsetTarget o s.cur).toNat % 4 = 0 →
          exec (.call o) s = .next (q.onCur (calledGuest o pa' (offsetTarget o s.cur) []))) ∧
        (a.toNat % 4 = 0 → exec (.callr o) s = .next (q.onCur fun c =>
          { (calledGuest o pa' a [.s o.a.toNat] c).orderLater [.s o.a.toNat] with pc := a }))) ∧
      (a.toNat % 4 ≠ 0 → exec (.callr o) s = .next (s.trap .align a s.cur.pc false))

/-- R327: RET pops the frame at s31: control goes to the saved address, and ew, mif and vl come from the vector-state
word, vl cut to VLMAX(ew). Nothing else of the registers changes. -/
def Sys2Proof.Claims.ReturnPopsTheFrame : Prop :=
  ∀ (o : Operands) (s : State) (pa pa' : Nat), s.cur.nestHere = false →
    let sp := s.cur.s 31
    let target := BitVec.ofNat 64 (natLE (s.see pa 8))
    let w := natLE (s.see pa' 8)
    sp.toNat % 16 = 0 → Loadable s sp 8 pa → Loadable s (sp + 8) 8 pa' → target.toNat % 4 = 0 →
    ∃ t, exec (.ret o) s = .next t ∧ OnlyCur s t ∧ t.cur.pc = target ∧ t.cur.s 31 = sp + 16 ∧
      t.cur.ew = w / 2 ^ 32 % 4 ∧ t.cur.csr.mif.toNat = w / 2 ^ 34 % 8 ∧
      t.cur.vl = min (w % 2 ^ 32) (vlmaxOf s.cur.gvl (w / 2 ^ 32 % 4)) ∧ ScalarsBut [31] s.cur t.cur ∧
      t.cur.regs = { s.cur.regs with s := t.cur.regs.s } ∧ t.cur.sup = s.cur.sup ∧ t.cur.nest = s.cur.nest ∧
      t.cur.csr = { s.cur.csr with ew := t.cur.csr.ew, mif := t.cur.csr.mif, vl := t.cur.csr.vl }

/-- R329, R330: NEST with every count above 0 starts the nest and goes on with its body; with a count of 0 it goes to the
address after the body, and no convoy closes (R53). The counts lie in vA, which XA may select (R14); later stores wait for the loads of that register
and of the selector. NEST while a nest is active is ILL; so is NEST of a register bound to a stream, which the model's log
entry 80 chooses. -/
def Sys2Proof.Claims.NestStarts : Prop :=
  ∀ (o : Operands) (s : State),
    let v := if o.xa then (s.cur.s o.a.toNat).toNat % 64 else o.a.toNat
    (s.cur.nest.active = true ∨ (∃ b ∈ s.cur.binds, b.reg = v) →
      exec (.nest o) s = .next (s.trap .ill (parcel0 o) s.cur.pc false)) ∧
    ∀ stop u, s.cur.nest.active = false → (∀ b ∈ s.cur.binds, b.reg ≠ v) → InFile [v] s u →
      BodyEnds u (o.im 3 5 + 1) (s.cur.pc + 8) stop →
      let counts := (List.range (o.im 0 3 + 1)).map fun j => (u.cur.word v j).toNat
      exec (.nest o) s = .next (u.onCur fun c =>
        let c' := { c.orderLater (.v v :: if o.xa then [.s o.a.toNat] else []) with csr := { c.csr with li := [] } }
        if 0 ∈ counts then { c' with pc := stop }
        else { c' with nest := ⟨true, c.pc + 8, stop, o.im 3 5 + 1, o.im 0 3 + 1, counts, c.sup.tlevel⟩ }.retire o)

/-- R329: NEXIT ends the nest of its level and goes to the address after the body; NEXIT sA does so where sA is not 0,
and later stores wait for the loads of sA. Where no nest is active at the level both are ILL. -/
def Sys2Proof.Claims.NestExits : Prop :=
  ∀ (o : Operands) (s : State),
    let out := fun (c : Strand) => { c with nest := { c.nest with active := false } }.jumpTo c.nest.stop
    (s.cur.nestHere = true → ∀ i ∈ [Instr.nexit o, .nexitL64 o], exec i s = .next (s.onCur out)) ∧
    (s.cur.nestHere = true → ∀ i ∈ [Instr.nexitReg o, .nexitRegL64 o], exec i s = .next (s.onCur fun c =>
      if c.s o.a.toNat = 0 then (c.orderLater [.s o.a.toNat]).retire o else out (c.orderLater [.s o.a.toNat]))) ∧
    (s.cur.nestHere = false → ∀ i ∈ [Instr.nexit o, .nexitL64 o, .nexitReg o, .nexitRegL64 o],
      exec i s = .next (s.trap .ill (parcel0 o) s.cur.pc false))

/-- R330: the loop-back. The innermost level whose index plus 1 lies below its count advances, the levels inside it go
to 0, and the body runs again; where there is none, every index is 0 and the nest ends. -/
def Sys2Proof.Claims.LoopBackCounts : Prop :=
  ∀ s : State, s.cur.nestHere = true → s.cur.pc = s.cur.nest.stop →
    (∀ c ∈ s.cur.nest.counts, c < 2 ^ 32) →
    let cs := s.cur.nest.counts
    (∀ (j : Nat) (h : j < cs.length), lix s.cur j + 1 < cs[j] →
      (∀ (k : Nat) (hk : k < j), cs[k] ≤ lix s.cur k + 1) →
      ∃ t, exec .nestLoopback s = .next t ∧ OnlyCur s t ∧ t.cur.pc = s.cur.nest.start ∧ t.cur.nest = s.cur.nest ∧
        lix t.cur j = lix s.cur j + 1 ∧ (∀ k < j, lix t.cur k = 0) ∧ ∀ k > j, lix t.cur k = lix s.cur k) ∧
    ((∀ (k : Nat) (hk : k < cs.length), cs[k] ≤ lix s.cur k + 1) →
      ∃ t, exec .nestLoopback s = .next t ∧ OnlyCur s t ∧ t.cur.pc = s.cur.pc ∧ t.cur.nestHere = false ∧
        ∀ k < cs.length, lix t.cur k = 0)

/-- R331: an active nest at its level forbids branches, jumps, element threads, strip farms and barriers, and NEST; ERET
too, at a level that may run it. -/
def Sys2Proof.Claims.NestForbids : Prop :=
  ∀ (o : Operands) (s : State), s.cur.nestHere = true →
    (∀ c ∈ forbiddenInNest, exec (c o) s = .next (s.trap .ill (parcel0 o) s.cur.pc false)) ∧
    (s.cur.sup.tlevel ≠ 0 → ∀ i ∈ [Instr.eret o, .eretL64 o], exec i s = .next (s.trap .ill (parcel0 o) s.cur.pc false))

namespace Sys2Proof.Claims

/-! ### Control registers (R167 to R171, R323, R324, R372, R373) -/

def z64 {w : Nat} (x : BitVec w) : Word := BitVec.ofNat 64 x.toNat

/-- What a read of each register gives, by its number: the user registers and the read-only ones. -/
def userCsrs1 : List (Nat × (State → Word)) :=
  [(0x000, fun s => z64 s.cur.csr.vl), (0x001, fun s => z64 s.cur.csr.vstart), (0x002, fun s => z64 s.cur.csr.ew),
   (0x003, fun s => z64 s.cur.csr.mif), (0x004, fun s => z64 s.cur.csr.rows), (0x005, fun s => s.cur.csr.pitch),
   (0x006, fun s => s.cur.csr.fcsr), (0x007, fun s => s.cur.csr.icsr), (0x008, fun s => z64 s.cur.csr.bcfg),
   (0x009, fun s => z64 s.cur.csr.qpct), (0x00A, fun s => s.cur.csr.dmap), (0x00B, fun s => s.cur.csr.spr),
   (0x00C, fun s => z64 s.cur.csr.srseed)]

def userCsrs2 : List (Nat × (State → Word)) :=
  (List.range 8).map (fun j => (0x010 + j, fun s => z64 (Store.get s.cur.csr.bs j)))

def userCsrs3 : List (Nat × (State → Word)) :=
  [(0x400, fun s => z64 s.cur.csr.al), (0x401, fun s => z64 s.cur.csr.gvl), (0x402, fun s => s.cur.csr.trim),
   (0x403, fun s => z64 s.cur.csr.ar), (0x404, fun s => z64 s.cur.csr.ac), (0x405, fun s => z64 s.cur.csr.eprog),
   (0x406, fun s => z64 s.cur.csr.tm), (0x407, fun s => z64 s.cur.csr.tn), (0x408, fun s => z64 s.cur.csr.tk),
   (0x409, fun s => s.cur.csr.cbytes), (0x40A, fun s => s.cur.csr.smflag),
   (0x40B, fun s => BitVec.ofNat 64 (65536 * (s.cur.queue % 256) + 256 * (s.cur.core % 256) + s.cur.slot % 4)),
   (0x40C, fun s => BitVec.ofNat 64 (s.cur.agent % 256)), (0x40D, fun s => s.dev.cyc), (0x40E, fun s => s.dev.gtime),
   (0x40F, fun s => z64 s.cur.csr.level)]

def userCsrs4 : List (Nat × (State → Word)) :=
  (List.range 6).map (fun j => (0x410 + j, fun s => z64 (Store.get s.cur.csr.li j)))

def userCsrs : List (Nat × (State → Word)) := userCsrs1 ++ userCsrs2 ++ userCsrs3 ++ userCsrs4

/-- The supervisor registers but for the quota view. -/
def superCsrs1 : List (Nat × (State → Word)) :=
  [(0x800, fun s => z64 s.cur.sup.tlevel), (0x801, fun s => s.cur.sup.tvec), (0x802, fun s => s.cur.sup.tframe),
   (0x803, fun s => if s.cur.sup.pre then 1 else 0), (0x830, fun s => s.cur.sup.s1root),
   (0x831, fun s => z64 s.cur.sup.asid), (0x840, fun s => z64 s.cur.sup.qdom)]

def superCsrs2 : List (Nat × (State → Word)) :=
  [(0x810, fun s => s.cur.sup.bank1.epc), (0x811, fun s => z64 s.cur.sup.bank1.cause),
   (0x812, fun s => s.cur.sup.bank1.tval), (0x813, fun s => z64 s.cur.sup.bank1.vst),
   (0x814, fun s => z64 s.cur.sup.bank1.stat), (0x820, fun s => s.cur.sup.bank2.epc),
   (0x821, fun s => z64 s.cur.sup.bank2.cause), (0x822, fun s => s.cur.sup.bank2.tval),
   (0x823, fun s => z64 s.cur.sup.bank2.vst), (0x824, fun s => z64 s.cur.sup.bank2.stat)]

def superCsrs : List (Nat × (State → Word)) := superCsrs1 ++ superCsrs2

/-- The set that a read of a register takes (R285). -/
def csrSource (n : Nat) : Option RegId :=
  if n ∈ [0x000, 0x400, 0x402, 0x403, 0x404, 0x405, 0x409, 0x00B] then some .vl
  else if n ∈ [0x406, 0x407, 0x408] then some .mat else if n = 0x40A then some .sm else none

/-- sd takes a value and a set in place of its old ones. -/
def putWith (o : Operands) (x : Word) (tn : Taint) (c : Strand) : Strand :=
  (c.setS o.d.toNat x).setTaint (.s o.d.toNat) tn

/-- Registers whose write opens a new convoy (R53), and those whose source joins the set of vl (R285). -/
def convoyCsrs : List Nat := [0x000, 0x001, 0x002, 0x003, 0x004, 0x005, 0x008, 0x009] ++ (List.range 8).map (0x010 + ·)
def vlJoinCsrs : List Nat := [0x001, 0x002, 0x003, 0x004, 0x005]

/-- What a write of a register does besides. -/
def wrote (n : Nat) (x : Taint) (c : Strand) : Strand :=
  let c := if n ∈ vlJoinCsrs then c.addTaint .vl x else c
  if n ∈ convoyCsrs then { c with convoy := .closed } else c

/-- What a write of a value puts into the strand, by constructor and number: reserved bits are discarded (R168), qpct is
clamped, vl and ew keep vl within VLMAX (R169), srseed seeds the lanes (R181), and tlevel stays. -/
def csrWrites1 : List ((Operands → Instr) × Nat × (Word → Strand → Strand)) :=
  [(.csrwVl, 0x000, fun x c => { c with csr := { c.csr with vl := BitVec.ofNat 32 (min (x.toNat % 2 ^ 32) (vlmaxOf c.gvl c.ew)) } }),
   (.csrwVstart, 0x001, fun x c => { c with csr := { c.csr with vstart := x.setWidth 32 } }),
   (.csrwEw, 0x002, fun x c => { c with csr := { c.csr with
      ew := x.setWidth 2, vl := BitVec.ofNat 32 (min c.vl (vlmaxOf c.gvl (x.toNat % 4))) } }),
   (.csrw, 0x003, fun x c => { c with csr := { c.csr with mif := x.setWidth 3 } }),
   (.csrw, 0x004, fun x c => { c with csr := { c.csr with rows := x.setWidth 32 } }),
   (.csrw, 0x005, fun x c => { c with csr := { c.csr with pitch := x } }),
   (.csrw, 0x006, fun x c => { c with csr := { c.csr with fcsr := x &&& 0x13F1F07 } }),
   (.csrw, 0x007, fun x c => { c with csr := { c.csr with icsr := x &&& 7 } }),
   (.csrw, 0x008, fun x c => { c with csr := { c.csr with bcfg := x.setWidth 1 } }),
   (.csrwQpct, 0x009, fun x c => { c with csr := { c.csr with qpct := BitVec.ofNat 17 (min (max x.toNat 1) 65536) } }),
   (.csrw, 0x00A, fun x c => { c with csr := { c.csr with dmap := x } }),
   (.csrw, 0x00B, fun x c => { c with csr := { c.csr with spr := x &&& 0x8000003FFFFFFFFF } }),
   (.csrwSrseed, 0x00C, fun x c => { c with csr := { c.csr with srseed := x.setWidth 16 },
                                            regs := { c.regs with sigma := sigmaAll (x.setWidth 16) } })]

def csrWrites2 : List ((Operands → Instr) × Nat × (Word → Strand → Strand)) :=
  (List.range 8).map (fun j => (Instr.csrw, 0x010 + j, fun x c => { c with csr := { c.csr with
      bs := Store.set c.csr.bs j (x.setWidth 32) } }))

def csrWrites3 : List ((Operands → Instr) × Nat × (Word → Strand → Strand)) :=
  [(.csrw, 0x800, fun _ c => c),
   (.csrw, 0x801, fun x c => { c with sup := { c.sup with tvec := x &&& 0xFFFFFFFFFFFFFE00 } }),
   (.csrw, 0x802, fun x c => { c with sup := { c.sup with tframe := x } }),
   (.csrw, 0x803, fun x c => { c with sup := { c.sup with pre := x.getLsbD 0 } }),
   (.csrw, 0x830, fun x c => { c with sup := { c.sup with s1root := x &&& 0x000FFFFFFFFFF000 } }),
   (.csrw, 0x831, fun x c => { c with sup := { c.sup with asid := x.setWidth 16 } }),
   (.csrw, 0x840, fun x c => { c with sup := { c.sup with qdom := x.setWidth 8 } })]

def csrWrites4 : List ((Operands → Instr) × Nat × (Word → Strand → Strand)) :=
  [(.csrw, 0x810, fun x c => { c with sup := { c.sup with bank1 := { c.sup.bank1 with epc := x } } }),
   (.csrw, 0x811, fun x c => { c with sup := { c.sup with bank1 := { c.sup.bank1 with cause := x.setWidth 8 } } }),
   (.csrw, 0x812, fun x c => { c with sup := { c.sup with bank1 := { c.sup.bank1 with tval := x } } }),
   (.csrw, 0x813, fun x c => { c with sup := { c.sup with bank1 := { c.sup.bank1 with vst := x.setWidth 32 } } }),
   (.csrw, 0x814, fun x c => { c with sup := { c.sup with bank1 := { c.sup.bank1 with stat := x.setWidth 2 } } }),
   (.csrw, 0x820, fun x c => { c with sup := { c.sup with bank2 := { c.sup.bank2 with epc := x } } }),
   (.csrw, 0x821, fun x c => { c with sup := { c.sup with bank2 := { c.sup.bank2 with cause := x.setWidth 8 } } }),
   (.csrw, 0x822, fun x c => { c with sup := { c.sup with bank2 := { c.sup.bank2 with tval := x } } }),
   (.csrw, 0x823, fun x c => { c with sup := { c.sup with bank2 := { c.sup.bank2 with vst := x.setWidth 32 } } }),
   (.csrw, 0x824, fun x c => { c with sup := { c.sup with bank2 := { c.sup.bank2 with stat := x.setWidth 2 } } })]

def csrWrites : List ((Operands → Instr) × Nat × (Word → Strand → Strand)) := csrWrites1 ++ csrWrites2 ++ csrWrites3 ++ csrWrites4

/-- Register numbers in 0x800 to 0xBFF that exist. -/
def superNums : List Nat := superCsrs.map (·.1) ++ [0x841, 0x842, 0x843]

/-! ### Strip farms and barriers (R337 to R342) -/

/-- The strand's stores have performed, after the loads and branches they wait for: what an atomic of the strand at the
farm record finds. -/
def quiet (x : Taint) (s : State) : State := (s.onCur (beforeStore x)).drain

/-- The bound farm record can be updated: it lies at pa, translated for an atomic and not poisoned. -/
def FarmAt (s : State) (pa : Nat) : Prop :=
  s.cur.farm ≠ 0 ∧ Translates (quiet .empty s) .atomic s.cur.farm pa ∧ (quiet .empty s).dev.poisoned pa = false

/-- The length of a strip (R339). -/
def stripLen (next total grain vmax : Nat) : Nat :=
  let g := if grain ≠ 0 then grain else vmax
  if next < total then min (min g vmax) (total - next) else 0

/-- The barrier opens (R340). -/
def opened (pa : Nat) (d : Device) : Device :=
  (d.writeLE (pa + 0x18) 4 0).writeLE (pa + 0x1C) 4 (d.readLE (pa + 0x1C) 4 + 1)

/-- The strands of a core group that still run. -/
def groupLive (s : State) (g : Nat) : List Strand := s.strands.filter fun t => t.live && t.group == g

/-- The bank that a trap at level n writes is bank n + 1 (R373, R374). -/
def bankAfter (c : Strand) : Bank := if c.sup.tlevel = 1 then c.sup.bank1 else c.sup.bank2

end Sys2Proof.Claims

/-- R323: SETVL sets ew to w, vl and sd to the lesser of sA and VLMAX(w), with the taint of sA on both, and opens a
convoy. vstart stays. -/
def Sys2Proof.Claims.SetvlGrants : Prop :=
  ∀ (o : Operands) (s : State),
    let n := min (s.cur.s o.a.toNat).toNat (s.cur.gvl * (if o.im 0 2 = 0 then 4 else if o.im 0 2 = 1 then 2 else 1))
    ∃ t, exec (.setvl o) s = .next t ∧ OnlyCur s t ∧ t.cur.vl = n ∧ t.cur.ew = o.im 0 2 ∧
      (o.d.toNat ≠ 0 → t.cur.s o.d.toNat = BitVec.ofNat 64 n) ∧ ScalarsBut [o.d.toNat] s.cur t.cur ∧
      t.cur.csr.vstart = s.cur.csr.vstart ∧ t.cur.convoy = .closed ∧
      t.cur.taintOf .vl = s.cur.taintOf (.s o.a.toNat) ∧
      t.cur.csr = { s.cur.csr with vl := t.cur.csr.vl, ew := t.cur.csr.ew, li := t.cur.csr.li } ∧
      t.cur.regs = { s.cur.regs with s := t.cur.regs.s } ∧ t.cur.sup = s.cur.sup ∧
      (NotAtBodyEnd o s.cur → t.cur.pc = after o s.cur)

/-- R167, R372, R373: CSRR reads each register of the map under its number, a supervisor register at level 1 or 2 only. -/
def Sys2Proof.Claims.CsrReads : Prop :=
  ∀ (o : Operands) (s : State), ∀ e ∈ userCsrs ++ superCsrs, o.im 0 12 = e.1 →
    (e.1 < 0x800 ∨ s.cur.sup.tlevel ≠ 0) →
    exec (.csrr o) s = .next (s.onCur fun c => (putWith o (e.2 s) (match csrSource e.1 with
      | some r => c.taintOf r
      | none => .empty) c).retire o)

/-- R168, R169: what CSRW writes, by register. Nothing else changes but the convoy, the set of vl and what retiring
changes. -/
def Sys2Proof.Claims.CsrWrites : Prop :=
  ∀ (o : Operands) (s : State), ∀ e ∈ csrWrites, o.im 0 12 = e.2.1 →
    (e.2.1 < 0x800 ∨ s.cur.sup.tlevel ≠ 0) →
    let x := s.cur.s o.a.toNat
    let tn := s.cur.taintOf (.s o.a.toNat)
    exec (e.1 o) s = .next (s.onCur fun c =>
      (wrote e.2.1 tn (if e.2.1 = 0 then (e.2.2 x c).setTaint .vl tn else e.2.2 x c)).retire o)

/-- R168: an access to a number that no rule lets it reach traps: above 0xBFF PRIV; in 0x800 to 0xBFF PRIV at level 0
and ILL at a higher level where the map lists none; below it ILL where the map lists none, or for a write of a read-only
register. -/
def Sys2Proof.Claims.CsrRefusals : Prop :=
  ∀ (o : Operands) (s : State),
    let n := o.im 0 12
    let traps := fun (c : Cause) (i : Instr) => exec i s = .next (s.trap c (parcel0 o) s.cur.pc false)
    (0xC00 ≤ n → traps .priv (.csrr o) ∧ traps .priv (.csrw o)) ∧
    (0x800 ≤ n → n < 0xC00 → s.cur.sup.tlevel = 0 → traps .priv (.csrr o) ∧ traps .priv (.csrw o) ∧
      traps .priv (.csrrQuotaView o) ∧ traps .priv (.csrwQuotaView o)) ∧
    (0x800 ≤ n → n < 0xC00 → n ∉ superNums → s.cur.sup.tlevel ≠ 0 → traps .ill (.csrr o) ∧ traps .ill (.csrw o)) ∧
    (n < 0x800 → n ∉ userCsrs.map (·.1) → traps .ill (.csrr o)) ∧
    (0x400 ≤ n → n < 0x800 → traps .ill (.csrw o)) ∧
    (n < 0x400 → n ∉ userCsrs.map (·.1) → traps .ill (.csrw o))

/-- R89: the quota view. At level 1 or 2 a read gives the field of the record of the agent that qdom names in the
strand's function, and 0 where it names none; a write changes the field. The strand's stores perform first. -/
def Sys2Proof.Claims.QuotaView : Prop :=
  ∀ (o : Operands) (s : State), s.cur.sup.tlevel ≠ 0 →
    ∀ f ∈ [(0x841, 0x20, 4, (0xFFFFFFFF : Word)), (0x842, 0x24, 4, 0xFFFFFFFF), (0x843, 0x28, 8, 0x000FFFFFFFFFFFF0)],
    o.im 0 12 = f.1 →
    let s' := s.drain
    let w := quiet (s.cur.taintOf (.s o.a.toNat)) s
    (∀ a : Agent, s'.dev.agentOf s.cur.sup.qdom.toNat s.cur.vf = some a →
      exec (.csrrQuotaView o) s = .next (s'.onCur fun c =>
        (putWith o (BitVec.ofNat 64 (s'.dev.readLE (a.addr + f.2.1) f.2.2.1) &&& f.2.2.2) .empty c).retire o)) ∧
    (s'.dev.agentOf s.cur.sup.qdom.toNat s.cur.vf = none →
      exec (.csrrQuotaView o) s = .next (s'.onCur fun c => (putWith o 0 .empty c).retire o)) ∧
    (∀ a : Agent, w.dev.agentOf s.cur.sup.qdom.toNat s.cur.vf = some a →
      exec (.csrwQuotaView o) s = .next ((w.onDev fun d =>
        d.writeLE (a.addr + f.2.1) f.2.2.1 (s.cur.s o.a.toNat &&& f.2.2.2).toNat).onCur (·.retire o))) ∧
    (w.dev.agentOf s.cur.sup.qdom.toNat s.cur.vf = none →
      exec (.csrwQuotaView o) s = .next (w.onCur (·.retire o)))

/-- R338, R339: FARM binds or unbinds, and takes ALIGN where sA is no multiple of 64; STRIP claims the next strip by one
atomic; both and FBAR are ILL or ALIGN as stated where they cannot act. -/
def Sys2Proof.Claims.FarmAndStrip : Prop :=
  ∀ (o : Operands) (s : State), s.cur.nestHere = false →
    let a := s.cur.s o.a.toNat
    (∀ i ∈ [Instr.farm o, .farmL64 o],
      (a.toNat % 64 = 0 → exec i s = .next (s.onCur fun c => { c with farm := a }.retire o)) ∧
      (a.toNat % 64 ≠ 0 → exec i s = .next (s.trap .align a s.cur.pc false))) ∧
    (s.cur.farm = 0 → ∀ i ∈ [Instr.strip o, .stripL64 o, .fbar o, .fbarL64 o],
      exec i s = .next (s.trap .ill (parcel0 o) s.cur.pc false)) ∧
    ∀ pa, FarmAt s pa → ∀ i ∈ [Instr.strip o, .stripL64 o],
      let d := (quiet .empty s).dev
      let next := d.readLE pa 8
      let len := stripLen next (d.readLE (pa + 8) 8) (d.readLE (pa + 0x10) 4) (vlmaxOf s.cur.gvl s.cur.ew)
      ∃ t, exec i s = .next t ∧ t.dev = d.writeLE pa 8 (next + len) ∧ t.others = s.others ∧ t.agenda = s.agenda ∧
        t.cur.vl = len ∧ (o.d.toNat ≠ 0 → t.cur.s o.d.toNat = BitVec.ofNat 64 next) ∧
        ScalarsBut [o.d.toNat] s.cur t.cur ∧ t.cur.convoy = .closed ∧ t.cur.farm = s.cur.farm ∧
        t.cur.csr = { s.cur.csr with vl := t.cur.csr.vl, li := t.cur.csr.li } ∧
        t.cur.regs = { s.cur.regs with s := t.cur.regs.s } ∧ (NotAtBodyEnd o s.cur → t.cur.pc = after o s.cur)

/-- R340, R341, R342: FBAR counts its arrival, and the last one opens the barrier; another waits for BARGEN to change.
CBAR passes where every strand of its core group that has not exited has arrived, and waits otherwise. YIELD changes
nothing but whose turn it is. -/
def Sys2Proof.Claims.Barriers : Prop :=
  ∀ (o : Operands) (s : State), s.cur.nestHere = false →
    (∀ pa, FarmAt s pa → ∀ i ∈ [Instr.fbar o, .fbarL64 o],
      let q := quiet .empty s
      let cnt := q.dev.readLE (pa + 0x18) 4 + 1
      let gen := q.dev.readLE (pa + 0x1C) 4
      (q.dev.readLE (pa + 0x14) 4 ≤ cnt → exec i s = .next ((q.onDev (opened pa)).onCur (·.retire o))) ∧
      (cnt < q.dev.readLE (pa + 0x14) 4 → exec i s = .next ((q.onDev fun d => d.writeLE (pa + 0x18) 4 cnt).onCur
        fun c => { c with status := .waiting (.fbar gen) (after o c) }))) ∧
    (∀ i ∈ [Instr.cbar o, .cbarL64 o], s.cur.status = .running →
      ((∀ t ∈ s.others, t.live = true → t.group = s.cur.group → t.status.isCbar = true) →
        ∃ t, exec i s = .next t ∧ t.dev = s.drain.dev ∧
          t.cur = { s.drain.cur with pc := after o s.cur, stepDone := s.cur.step1 }.loopBack ∧
          ∀ r ∈ t.others, r.live = true → r.group = s.cur.group → r.status = .running) ∧
      ((∃ t ∈ s.others, t.live = true ∧ t.group = s.cur.group ∧ t.status.isCbar = false) →
        exec i s = .next (s.drain.onCur fun c => { c with status := .waiting .cbar (after o c) }))) ∧
    ∀ i ∈ [Instr.yield o, .yieldL64 o], exec i s = .next ((s.onCur (·.retire o)).rotate) ∧
      ((∀ t ∈ s.others, s.dev.issues t = false) → exec i s = .next (s.onCur (·.retire o)))

/-- R342: EXIT at level 0 ends the strand, whose stores have performed; at a higher level it is ILL. A bound strand first takes
itself out of its farm: PARTS falls by 1, but not below 0, and a barrier that waited for no other strand opens. -/
def Sys2Proof.Claims.ExitEndsTheStrand : Prop :=
  ∀ (o : Operands) (s : State), s.cur.nestHere = false → ∀ i ∈ [Instr.exit o, .exitL64 o],
    (s.cur.sup.tlevel ≠ 0 → exec i s = .next (s.trap .ill (parcel0 o) s.cur.pc false)) ∧
    (s.cur.sup.tlevel = 0 → s.cur.farm = 0 → ∃ t, exec i s = .next t ∧
      t.cur = { s.drain.cur with status := .exited, preempt := none }) ∧
    ∀ pa, s.cur.sup.tlevel = 0 → FarmAt s pa →
      let q := quiet .empty s
      let parts := q.dev.readLE (pa + 0x14) 4 - 1
      let left := q.dev.writeLE (pa + 0x14) 4 parts
      let mates := ((s.dev.queue s.cur.queue).run s.cur.node.toNat).strands
      ∃ t, exec i s = .next t ∧ t.cur = { q.cur with status := .exited, preempt := none } ∧
        (mates = [] ∨ (∃ r ∈ s.others, r.live = true ∧ r.uid ∈ mates) →
          t.dev.mem = (if 0 < parts ∧ parts ≤ q.dev.readLE (pa + 0x18) 4 then opened pa left else left).mem)

/-- R390: TRAP and BRK retire and take the trap with the next instruction's address, tval n and their cause; in a queue
that is debugged BRK halts the strand instead. -/
def Sys2Proof.Claims.TrapAndBreak : Prop :=
  ∀ (o : Operands) (s : State), s.cur.sup.tlevel.toNat < 2 → NotAtBodyEnd o s.cur →
    let entered := fun (cause : BitVec 8) (i : Instr) => ∃ t, exec i s = .next t ∧ OnlyCur s t ∧
      t.cur.sup.tlevel = s.cur.sup.tlevel + 1 ∧ (bankAfter t.cur).epc = after o s.cur ∧
      (bankAfter t.cur).cause = cause ∧ (bankAfter t.cur).tval = BitVec.ofNat 64 (o.im 0 12) ∧
      (bankAfter t.cur).vst = s.cur.csr.vstart ∧ t.cur.csr = { s.cur.csr with vstart := 0 } ∧
      t.cur.pc = s.cur.sup.tvec + (if s.cur.sup.tlevel = 0 then 0 else 0x100) ∧ t.cur.regs = s.cur.regs
    entered 0x20 (.trap o) ∧ entered 0x20 (.trapL64 o) ∧
    ((s.dev.queue s.cur.queue).debug = false → entered 0x21 (.brk o) ∧ entered 0x21 (.brkL64 o)) ∧
    ((s.dev.queue s.cur.queue).debug = true → ∀ i ∈ [Instr.brk o, .brkL64 o],
      exec i s = .next ((s.onCur (·.retire o)).leave s.cur.uid (.halted none) false true))

/-- R374: TAKING A TRAP at level 0 or 1. Bank n + 1 holds the address, the code, tval, vstart and the nest's activity;
vstart is 0, the level is n + 1, the pc is tvec or tvec + 0x100, a convoy opens, and nothing else changes. -/
def Sys2Proof.Claims.TrapEntry : Prop :=
  ∀ (s : State) (c : Cause) (tval epc : Word) (blk : Bool), s.cur.sup.tlevel.toNat < 2 →
    let n := s.cur.sup.tlevel.toNat
    let b : Bank := ⟨epc, BitVec.ofNat 8 (causeCode c), tval, s.cur.csr.vstart,
      BitVec.ofNat 2 ((if s.cur.nest.active then 1 else 0) + 2 * (if blk then 1 else 0))⟩
    s.trap c tval epc blk = { s with cur := { s.cur with
      sup := { s.cur.sup with tlevel := BitVec.ofNat 2 (n + 1), bank1 := if n = 0 then b else s.cur.sup.bank1,
                              bank2 := if n = 1 then b else s.cur.sup.bank2 }
      csr := { s.cur.csr with vstart := 0 }
      pc := if n = 0 then s.cur.sup.tvec else s.cur.sup.tvec + 0x100
      convoy := .closed } }

namespace Sys2Proof.Claims

/-- None of a strand's commands runs: each waits to start, or has completed. -/
def NoneRuns (s : State) (u : Nat) : Prop := ∀ c ∈ s.dev.cmds, c.uid = u → c.state = .pushed ∨ c.completed = true

/-- The current strand is killed: it is dead, its stores have performed and its registers stand. The host is told, and the core
slot freed, once none of its commands runs (R383). -/
def KilledCur (s t : State) : Prop :=
  t.cur.status = .killed ∧ t.cur.buf = [] ∧ t.cur.pc = s.cur.pc ∧ t.cur.sup = s.cur.sup ∧ t.cur.regs = s.cur.regs ∧
  (NoneRuns s s.cur.uid → (s.cur.vf, 2) ∈ t.dev.msix ∧ t.cur.resident = false) ∧
  (¬ NoneRuns s s.cur.uid → t.cur.resident = true)

end Sys2Proof.Claims

/-- R375, R382, R383: a trap inside a level-2 handler kills the context. -/
def Sys2Proof.Claims.TrapInLevel2Kills : Prop :=
  ∀ (s : State) (c : Cause) (tval epc : Word) (blk : Bool), s.cur.sup.tlevel.toNat = 2 → s.cur.live = true →
    KilledCur s (s.trap c tval epc blk)

/-- R391: RETURNING FROM A TRAP. ERET restores vstart and the level, resumes the nest where NEST is 1, and goes to the
saved address; nothing else changes. A saved address that is not aligned takes ALIGN; at level 0 ERET is PRIV, and in the
body of an active nest of its level ILL. -/
def Obligations.ReturnFromTrap : Prop :=
  ∀ (o : Operands) (s : State), ∀ i ∈ [Instr.eret o, .eretL64 o],
    let b := if s.cur.sup.tlevel = 1 then s.cur.sup.bank1 else s.cur.sup.bank2
    (s.cur.sup.tlevel = 0 → exec i s = .next (s.trap .priv (parcel0 o) s.cur.pc false)) ∧
    (s.cur.sup.tlevel ≠ 0 → s.cur.nestHere = true → exec i s = .next (s.trap .ill (parcel0 o) s.cur.pc false)) ∧
    (s.cur.sup.tlevel ≠ 0 → s.cur.nestHere = false → b.epc.toNat % 4 ≠ 0 →
      exec i s = .next (s.trap .align b.epc s.cur.pc false)) ∧
    (s.cur.sup.tlevel ≠ 0 → s.cur.nestHere = false → b.epc.toNat % 4 = 0 →
      exec i s = .next { s with cur := { s.cur with
        csr := { s.cur.csr with vstart := b.vst }
        sup := { s.cur.sup with tlevel := s.cur.sup.tlevel - 1 }
        nest := { s.cur.nest with active := s.cur.nest.active && b.stat.getLsbD 0 }
        pc := b.epc
        convoy := .closed } })

/-- R383, R392, R393, R394, R94: WFE waits until gtime reaches a limit that is not 0, or a request is pending, and goes on at
once where that is so. KILL and TLBINV are PRIV at level 0; above it KILL ends the context. TLBINV removes the
entries of the strand's function that its form names, on its core (SCOPE 1) or on all; the stores of the function's strands
there have performed; and it retires where no command of the function that shares those entries has started and not ended.
Where one has, it stays at the pc (log entry 84). -/
def Sys2Proof.Claims.WaitKillInvalidate : Prop :=
  ∀ (o : Operands) (s : State),
    let x := s.cur.s o.a.toNat
    (∀ i ∈ [Instr.wfe o, .wfeL64 o],
      ((x ≠ 0 ∧ x.toNat ≤ s.dev.gtime.toNat) ∨ s.cur.preempt = some 0 → exec i s = .next (s.onCur (·.retire o))) ∧
      (¬ ((x ≠ 0 ∧ x.toNat ≤ s.dev.gtime.toNat) ∨ s.cur.preempt = some 0) →
        exec i s = .next (s.onCur fun c => { c with status := .waiting (.wfe x) (after o c) }))) ∧
    (s.cur.sup.tlevel = 0 → ∀ i ∈ [Instr.kill o, .killL64 o, .tlbinv o, .tlbinvL64 o],
      exec i s = .next (s.trap .priv (parcel0 o) s.cur.pc false)) ∧
    (s.cur.sup.tlevel ≠ 0 → s.cur.live = true → ∀ i ∈ [Instr.kill o, .killL64 o],
      ∃ t, exec i s = .next t ∧ KilledCur s t) ∧
    (s.cur.sup.tlevel ≠ 0 → ∀ i ∈ [Instr.tlbinv o, .tlbinvL64 o],
      (o.im 0 2 = 3 → exec i s = .next (s.trap .priv (parcel0 o) s.cur.pc false)) ∧
      (o.im 0 2 ≠ 3 →
        let asid := (s.cur.s o.b.toNat).toNat % 65536
        let goes := fun (e : TlbEntry) => (o.im 4 2 ≠ 1 ∨ e.core = s.cur.core) ∧ e.vf = s.cur.vf ∧
          (o.im 0 2 = 0 ∨ (o.im 0 2 = 1 ∧ e.asid = asid ∧ e.g = false) ∨
            (o.im 0 2 = 2 ∧ (e.g = true ∨ e.asid = asid) ∧ x.toNat / 2 ^ e.shift = e.page))
        let there := fun (c : Strand) => decide (c.vf = s.cur.vf ∧ (o.im 4 2 ≠ 1 ∨ c.core = s.cur.core))
        let done := fun (c : Strand) => if there c then { c with buf := [] } else c
        let busy := ∃ c ∈ s.dev.cmds, c.vf = s.cur.vf ∧ c.state = .started ∧
          (o.im 4 2 ≠ 1 ∨ (c.port ≠ 2 ∧ c.core = s.cur.core))
        ∃ t, exec i s = .next t ∧ (¬ busy → t.cur = (done s.cur).retire o) ∧ (busy → t.cur = done s.cur) ∧
          t.others = s.others.map done ∧ t.agenda = s.agenda ∧
          t.dev = { (s.strands.filter there).foldl (fun d c => d.performAll c.buf) s.dev with tlb := t.dev.tlb } ∧
          ∀ e, e ∈ t.dev.tlb ↔ e ∈ s.dev.tlb ∧ ¬ goes e))

/-- R292, R287, R107: after FENCE every store of the strand has performed, and no taint set has changed; TCLR empties the
named set, which XD may select, and nothing else. -/
def Sys2Proof.Claims.FenceAndTclr : Prop :=
  ∀ (o : Operands) (s : State),
    let d := if o.xd then (s.cur.s o.d.toNat).toNat % 64 else o.d.toNat
    (∀ i ∈ [Instr.fence o, .fenceL64 o], exec i s = .next (s.drain.onCur (·.retire o)) ∧ s.drain.cur.buf = [] ∧
      s.drain.cur.taint = s.cur.taint) ∧
    (∀ e ∈ [(Instr.tclrS o, RegId.s d), (.tclrSL64 o, .s d), (.tclrV o, .v d), (.tclrVL64 o, .v d), (.tclrP o, .p d),
        (.tclrPL64 o, .p d), (.tclrVl o, .vl), (.tclrVlL64 o, .vl)],
      exec e.1 s = .next (s.onCur fun c => (c.setTaint e.2 .empty).retire o) ∧
      (s.cur.setTaint e.2 .empty).taintOf e.2 = .empty ∧
      ∀ r, r ≠ e.2 → (s.cur.setTaint e.2 .empty).taintOf r = s.cur.taintOf r)

namespace Sys2Proof.Claims

/-! ### Walks (R75 to R84, R91, R92) -/

/-- Fields of a page table entry (R77). -/
def entryFrame (e : Nat) : Nat := e / 2 ^ 12 % 2 ^ 40
def entryDomain (e : Nat) : Nat := e / 2 ^ 52 % 256
def entryRights (e : Nat) : Bool := e.testBit 1 || e.testBit 2 || e.testBit 3

/-- A bit that must be 0 is set; stage 2 has no domain (R77). -/
def entryReserved (two : Bool) (e : Nat) : Prop :=
  e / 2 ^ 60 ≠ 0 ∨ e.testBit 11 = true ∨ (two = true ∧ entryDomain e ≠ 0)

def writeOnly (e : Nat) : Prop := e.testBit 2 = true ∧ e.testBit 1 = false

/-- The classes of R78, by level; stage 2 has no demand-zero class (R84). -/
def IsZero (l e : Nat) : Prop :=
  e.testBit 0 = false ∧ e.testBit 10 = true ∧ l = 0 ∧ e.testBit 8 = false ∧ ¬ entryReserved false e ∧
  entryRights e = true ∧ ¬ writeOnly e

def EntrySound (two : Bool) (l e : Nat) : Prop :=
  e.testBit 0 = true ∧ ¬ entryReserved two e ∧ ¬ writeOnly e ∧ (e.testBit 10 = true → l = 0 ∧ e.testBit 8 = false)

def IsPointer (two : Bool) (l e : Nat) : Prop := EntrySound two l e ∧ entryRights e = false ∧ l ≠ 0

def IsLeaf (two : Bool) (l e : Nat) : Prop :=
  EntrySound two l e ∧ entryRights e = true ∧ l ≠ 3 ∧ entryFrame e % 2 ^ (9 * l) = 0

/-- A leaf grants the access (R79; a loader's write ignores W, R407). -/
def Allowed (acc : Acc) (super r w x u : Bool) : Prop :=
  (match acc with
    | .load => r = true
    | .store => w = true
    | .atomic => r = true ∧ w = true
    | .fetch => x = true ∧ (super = true → u = false)
    | .loader => True) ∧ (super = true ∨ u = true)

def AllowedBy (acc : Acc) (super : Bool) (e : Nat) : Prop :=
  Allowed acc super (e.testBit 1) (e.testBit 2) (e.testBit 3) (e.testBit 4)

/-- Eight bytes, the lowest first (R76). -/
def entryAt (v : Nat → Byte) (a : Nat) : Nat := natLE ((List.range 8).map fun k => v (a + k))

/-- The place of the entry that an address selects in a table of a level (R75). -/
def slotIn (table va l : Nat) : Nat := table + 8 * (va / 2 ^ (12 + 9 * l) % 512)

/-- The place that a walk from a root reads at a level, as the tables name it: at: where it found the entries above. -/
def namedSlot (v : Nat → Byte) (root va : Nat) (at_ : Nat → Nat) (l : Nat) : Nat :=
  slotIn (if l = 3 then root * 4096 else entryFrame (entryAt v (at_ (l + 1))) * 4096) va l

/-- The walker's own access at an address that a table names goes to a physical one, with nothing changed: its own for
function 0, else through stage 2 (R84). -/
def HomeOf (d : Device) (c : Ctx) (acc : Acc) (va : Word) (wr : Bool) (named at_ : Nat) : Prop :=
  guestPhys c.vf ⟨acc.tf, 3, va⟩ named true wr false wr d = .ok at_ d

/-- The pointers of the tables lead the walk of an address to a level, where it reads the entry at at l. v: the bytes of
memory as the walk sees them (R95). -/
def WalkComesTo (d : Device) (v : Nat → Byte) (c : Ctx) (acc : Acc) (va : Word) (at_ : Nat → Nat) (l : Nat) : Prop :=
  l ≤ 3 ∧ (∀ m, l ≤ m → m ≤ 3 → HomeOf d c acc va false (namedSlot v c.root va.toNat at_ m) (at_ m)) ∧
  ∀ m, l < m → m ≤ 3 → d.backed (at_ m) = true ∧ d.poisoned (at_ m) = false ∧ IsPointer false m (entryAt v (at_ m))

/-- The same for a stage-2 walk of a guest physical address from a root. -/
def Stage2ComesTo (d : Device) (root gpa : Nat) (at_ : Nat → Nat) (l : Nat) : Prop :=
  l ≤ 3 ∧ (∀ m, l ≤ m → m ≤ 3 → at_ m = namedSlot d.readByte root gpa at_ m) ∧
  ∀ m, l < m → m ≤ 3 → d.backed (at_ m) = true ∧ d.poisoned (at_ m) = false ∧ IsPointer true m (entryAt d.readByte (at_ m))

/-- The address that a leaf of a level gives (R81, R83). -/
def leafAddr (l e va : Nat) : Nat :=
  if l = 0 ∧ e.testBit 8 = true then entryFrame e / 16 * 65536 + va % 65536
  else entryFrame e * 4096 + va % 2 ^ (12 + 9 * l)

/-- The entry with A set, and D where an access commits a store (R80). -/
def accessed (e : Nat) (dirty : Bool) : Nat := e ||| (if dirty then 0x60 else 0x20)

/-- The device with an entry written, if that changes it. -/
def putEntry (d : Device) (a old new : Nat) : Device := if new = old then d else d.writeLE a 8 new

/-- The record of a quota domain (R89): its limit, its use, and its pool's place. -/
def limitOf (v : Nat → Byte) (desc : Nat) : Nat := natLE ((List.range 4).map fun k => v (desc + 0x20 + k))
def usedOf (v : Nat → Byte) (desc : Nat) : Nat := natLE ((List.range 4).map fun k => v (desc + 0x24 + k))
def poolOf (v : Nat → Byte) (desc : Nat) : Nat := entryAt v (desc + 0x28) / 16 % 2 ^ 48 * 16
def countOf (v : Nat → Byte) (pool : Nat) : Nat := natLE ((List.range 4).map fun k => v (pool + k))

/-- An address that no page maps: above bit 47, or in the range of the gather windows (R75, R93). -/
def OutsidePages (va : Word) : Prop := 2 ^ 48 ≤ va.toNat ∨ (0x7F0000000000 ≤ va.toNat ∧ va.toNat < 0x7F1000000000)

/-- What stops a walk at the entry it has come to, with nothing taken or written (R78, R79, R83, R91): no backed memory,
poison, no entry of use, a leaf that does not grant the access, a domain of no agent, its quota, or its empty pool. -/
def EntryStops (d : Device) (v : Nat → Byte) (c : Ctx) (acc : Acc) (l a : Nat) (why : Cause) : Prop :=
  let e := entryAt v a
  (d.backed a = false ∧ why = acc.tf) ∨
  (d.backed a = true ∧ d.poisoned a = true ∧ why = .poison) ∨
  (d.backed a = true ∧ d.poisoned a = false ∧
    ((¬ IsZero l e ∧ ¬ IsPointer false l e ∧ ¬ IsLeaf false l e ∧ why = acc.tf) ∨
     (IsLeaf false l e ∧ ¬ AllowedBy acc c.super e ∧ why = acc.tp) ∨
     (IsZero l e ∧ ((d.agentOf (entryDomain e) c.vf = none ∧ why = acc.tf) ∨
       ∃ ag, d.agentOf (entryDomain e) c.vf = some ag ∧
         ((limitOf v ag.addr ≤ usedOf v ag.addr ∧ why = .quota) ∨
          (usedOf v ag.addr < limitOf v ag.addr ∧ c.vf = 0 ∧ countOf v (poolOf v ag.addr) = 0 ∧ why = acc.tf))))))

/-- The translation of an access stops, and changes nothing of the device: its address has no page, a kept leaf does not
grant it, or no leaf is kept and its walk stops. -/
def NotTranslated (d : Device) (v : Nat → Byte) (c : Ctx) (acc : Acc) (va : Word) (why : Cause) : Prop :=
  (OutsidePages va ∧ why = acc.tf) ∨
  (¬ OutsidePages va ∧
    ((∃ e, d.tlbHit c va.toNat = some e ∧ ¬ Allowed acc c.super e.r e.w e.x e.u ∧ why = acc.tp) ∨
     (d.tlbHit c va.toNat = none ∧ ∃ at_ l, WalkComesTo d v c acc va at_ l ∧ EntryStops d v c acc l (at_ l) why)))

/-- Where an instruction has stopped: the device is as before it, or with the strand's earlier stores performed, which
the strand sees alike; registers stand. -/
def Unmoved (s t : State) : Prop :=
  ((t.dev = s.dev ∧ t.cur.buf = s.cur.buf) ∨ (t.dev = s.drain.dev ∧ t.cur.buf = [])) ∧ t.others = s.others ∧
  t.cur.regs = s.cur.regs ∧ t.cur.csr = s.cur.csr ∧ t.cur.sup = s.cur.sup

/-- A trap of an instruction at an address, with nothing moved. -/
def TakesCause (i : Instr) (s : State) (why : Cause) (va : Word) : Prop :=
  ∃ t : State, exec i s = .next (t.trap why va s.cur.pc false) ∧ Unmoved s t

end Sys2Proof.Claims

/-- R75 to R84, R91, R92: what a walk of the four levels gives, whatever the tables hold. Where the pointers lead it to an entry
that stops it, it stops with that cause and the address, and changes nothing. A leaf that grants the access gives the address of its page, and
has A set in memory, and D for a store that commits. A demand-zero entry takes the last frame of its domain's pool and one
of its quota, and is made valid, whether or not the access is then granted. Through a leaf of function 0, an access that the
TLB does not answer reaches that address; of memory only the entry's A and D change. A guest's addresses go through stage 2
alike, where a stop is a miss that names the page and whether a
right is missing. The model's choices in it are those of log entries 79, 101 and 107. -/
def Sys2Proof.Claims.PageWalks : Prop :=
  (∀ (d : Device) (c : Ctx) (acc : Acc) (va : Word) (at_ : Nat → Nat) (l : Nat) (dirty : Bool),
    let v := d.readByte
    WalkComesTo d v c acc va at_ l →
    let a := at_ l
    let e := entryAt v a
    let w := walkFrom c acc dirty va 3 (c.root * 4096) d
    (∀ why, EntryStops d v c acc l a why → w = .error (.cause why va) d) ∧
    (d.backed a = true → d.poisoned a = false → IsLeaf false l e → AllowedBy acc c.super e →
      (accessed e dirty ≠ e → HomeOf d c acc va true (namedSlot v c.root va.toNat at_ l) a) →
      ∃ x, w = .ok x (putEntry d a e (accessed e dirty)) ∧ x.phys = leafAddr l e va.toNat ∧ x.e.raw = accessed e dirty) ∧
    ∀ ag pool slot, d.backed a = true → d.poisoned a = false → IsZero l e →
      d.agentOf (entryDomain e) c.vf = some ag → usedOf v ag.addr < limitOf v ag.addr →
      HomeOf d c acc va true (poolOf v ag.addr) pool → countOf v pool ≠ 0 →
      HomeOf d c acc va false (entryAt v (pool + 8) + 8 * (countOf v pool - 1)) slot →
      HomeOf d c acc va true (namedSlot v c.root va.toNat at_ l) a →
      let made := (e % 2 ^ 12 ||| 0x21) + entryFrame (entryAt v slot) * 2 ^ 12 + e / 2 ^ 52 * 2 ^ 52
      let d1 := ((d.writeLE pool 4 (countOf v pool - 1)).writeLE (ag.addr + 0x24) 4 (usedOf v ag.addr + 1)).writeLE a 8 made
      (¬ AllowedBy acc c.super e → w = .error (.cause acc.tp va) d1) ∧
      (AllowedBy acc c.super e →
        (accessed made dirty ≠ made → HomeOf d1 c acc va true (namedSlot v c.root va.toNat at_ l) a) →
        ∃ x, w = .ok x (putEntry d1 a made (accessed made dirty)) ∧ x.phys = leafAddr l made va.toNat)) ∧
  (∀ (d : Device) (c : Ctx) (acc : Acc) (va : Word) (at_ : Nat → Nat) (l : Nat) (dirty : Bool),
    let v := d.readByte
    let a := at_ l
    let e := entryAt v a
    c.vf = 0 → d.migs = [] → ¬ OutsidePages va → d.tlbHit c va.toNat = none → WalkComesTo d v c acc va at_ l →
    d.backed a = true → d.poisoned a = false → IsLeaf false l e → AllowedBy acc c.super e →
    d.backed (leafAddr l e va.toNat) = true →
    ∃ d', translate c acc dirty va d = .ok (leafAddr l e va.toNat) d' ∧ entryAt d'.readByte a = accessed e dirty ∧
      (∀ x, x < a ∨ a + 8 ≤ x → d'.readByte x = d.readByte x) ∧ d'.poison = d.poison) ∧
  ∀ (d : Device) (vf root : Nat) (why : S2Why) (gpa : Nat) (rd wr ex dirty : Bool) (at_ : Nat → Nat) (l : Nat),
    vf ≠ 0 → d.s2roots.find? (·.1 == vf) = some (vf, root) → Stage2ComesTo d root gpa at_ l →
    let a := at_ l
    let e := entryAt d.readByte a
    let w := guestPhys vf why gpa rd wr ex dirty d
    let missing := (rd = true ∧ e.testBit 1 = false) ∨ (wr = true ∧ e.testBit 2 = false) ∨ (ex = true ∧ e.testBit 3 = false)
    let miss := fun (perm : Bool) => w = .error (.s2 why.cause why.kind (gpa / 4096) perm why.va) d
    (d.backed a = false → miss false) ∧
    (d.backed a = true → d.poisoned a = true → w = .error (.cause .poison why.va) d) ∧
    (d.backed a = true → d.poisoned a = false → ¬ IsPointer true l e → ¬ IsLeaf true l e → miss false) ∧
    (d.backed a = true → d.poisoned a = false → IsLeaf true l e → missing → miss true) ∧
    (d.backed a = true → d.poisoned a = false → IsLeaf true l e → ¬ missing →
      w = .ok (leafAddr l e gpa) (putEntry d a e (accessed e dirty)))

namespace Sys2Proof.Claims

/-! ### Scalar loads, stores and atomics (R100 to R106) -/

/-- n bytes of a type as a scalar register takes them: I types sign-extend, others zero-extend (R101). -/
def extend (ty : Ty) (x : Nat) : Word :=
  if ty.signed then BitVec.ofInt 64 (if 2 ^ (ty.bits - 1) ≤ x % 2 ^ ty.bits then (x % 2 ^ ty.bits : Nat) - (2 ^ ty.bits : Nat)
    else (x % 2 ^ ty.bits : Nat)) else BitVec.ofNat 64 x

/-- An address: sA + offset, sA + sB, or sA. -/
def atOffset (o : Operands) (c : Strand) : Word := c.s o.a.toNat + o.simm
def atIndex (o : Operands) (c : Strand) : Word := c.s o.a.toNat + c.s o.b.toNat
def atBase (o : Operands) (c : Strand) : Word := c.s o.a.toNat

/-- Loads and stores: with the address and the registers it comes from. -/
def loadTable : List ((Operands → Instr) × (Operands → Strand → Word) × (Operands → List RegId)) :=
  [(.ld, atOffset, fun o => [.s o.a.toNat]), (.ldIndex, atIndex, fun o => [.s o.a.toNat, .s o.b.toNat])]

def storeTable : List ((Operands → Instr) × (Operands → Strand → Word) × (Operands → List RegId)) :=
  [(.st, atOffset, fun o => [.s o.a.toNat]), (.stIndex, atIndex, fun o => [.s o.a.toNat, .s o.b.toNat])]

/-- A two's complement reading of n bits. -/
def asInt (n x : Nat) : Int := if 2 ^ (n - 1) ≤ x then (x : Int) - (2 ^ n : Nat) else x

/-- The new value of an atomic (R105), or none where it writes nothing. -/
def amoValue (aop : Nat) (ty : Ty) (old : Nat) (b cmp : Word) : Option Nat :=
  let n := ty.bits
  let x := b.toNat % 2 ^ n
  match aop with
  | 0 => some ((old + x) % 2 ^ n)
  | 1 => some (old &&& x)
  | 2 => some (old ||| x)
  | 3 => some (old ^^^ x)
  | 4 => some (if asInt n old < asInt n x then old else x)
  | 5 => some (if asInt n old < asInt n x then x else old)
  | 6 => some (min old x)
  | 7 => some (max old x)
  | 8 => some x
  | 9 => if old = cmp.toNat % 2 ^ n then some x else none
  | 10 => some (roundTo .f32 rne false false 0 ((decodeFloat .f32 old).add rne (decodeFloat .f32 x)).1).1
  | _ => some (if b.getLsbD 4 then old % 16 + 16 * (x % 16) else old / 16 * 16 + x % 16)

/-- The registers that an atomic reads. -/
def amoSources (o : Operands) : List RegId :=
  [.s o.a.toNat, .s o.b.toNat] ++ (if o.fnBits 0 4 = 9 then [.s o.d.toNat] else [])

/-- What a scalar load leaves alone: all of the strand but sd, the sets, the tags and what retiring changes. -/
def LoadFrame (o : Operands) (s t : State) : Prop :=
  ScalarsBut [o.d.toNat] s.cur t.cur ∧ (NotAtBodyEnd o s.cur → t.cur.pc = after o s.cur) ∧
  RetireOnly { s.cur with regs := { s.cur.regs with s := t.cur.regs.s }, taint := t.cur.taint, later := t.cur.later,
                          outTags := t.cur.outTags, nextTag := t.cur.nextTag } t.cur

/-- Two ranges of bytes do not overlap. -/
def Apart (a n b k : Nat) : Prop := a + n ≤ b ∨ b + k ≤ a

/-- Of the strand's stores that wait none goes to the memory of a lost device, where it is dropped (R307), and those of one
instruction under .u touch different bytes, so that the order in which they perform (R111) makes no difference. -/
def Settles (s : State) : Prop :=
  (∀ p ∈ s.cur.buf, s.dev.remoteLost p.pa = false) ∧
  ∀ (i j : Nat) (p q : PendStore), i ≠ j → s.cur.buf[i]? = some p → s.cur.buf[j]? = some q → p.u = q.u → p.u ≠ none →
    Apart p.pa p.bytes.length q.pa q.bytes.length

/-- The set of a register covers a load's tag (R284). -/
def Covers (c : Strand) (r : RegId) (tag : Nat) : Prop := tag ∈ c.tagsOf (c.taintOf r)

/-- The trap ALIGN of an access at an address, with nothing of the registers or of the device changed from those of q. -/
def TakesAlign (i : Instr) (s q : State) (va : Word) : Prop :=
  ∃ s' : State, exec i s = .next (s'.trap .align va s.cur.pc false) ∧ s'.dev = q.dev ∧ s'.others = q.others ∧
    s'.cur.regs = q.cur.regs ∧ s'.cur.csr = q.cur.csr ∧ s'.cur.sup = q.cur.sup ∧ s'.cur.buf = q.cur.buf

/-- A load of an instruction at an address, after those of the strand's stores that q holds performed. -/
def Loads (i : Instr) (o : Operands) (s q : State) (pa : Nat) : Prop :=
  ∃ t, exec i s = .next t ∧ OnlyCur q t ∧
    (o.d.toNat ≠ 0 → t.cur.s o.d.toNat = extend o.ty (natLE (q.see pa o.ty.bytes)) ∧
      Covers t.cur (.s o.d.toNat) s.cur.nextTag) ∧ LoadFrame o q t

end Sys2Proof.Claims

/-- R101, R104, R290: a load gives the bytes at its address as the strand sees them, extended by its type; its tag is in the
set of sd. Nothing else changes; memory does not. Before LDACQ the strand's earlier stores perform. -/
def Sys2Proof.Claims.ScalarLoads : Prop :=
  (∀ e ∈ loadTable, ∀ (o : Operands) (s : State) (pa : Nat), Loadable s (e.2.1 o s.cur) o.ty.bytes pa →
    Loads (e.1 o) o s s pa) ∧
  ∀ (o : Operands) (s : State) (pa : Nat), Loadable s.drain (atBase o s.cur) o.ty.bytes pa →
    Loads (.ldacq o) o s s.drain pa

/-- R101, R104: a store adds the low n bytes of sd, at its address, to the stores of the strand that wait to perform;
STREL first lets every earlier store perform. PREF only retires. -/
def Obligations.ScalarStores : Prop :=
  (∀ e ∈ storeTable, ∀ (o : Operands) (s : State) (pa : Nat), Storable s (e.2.1 o s.cur) o.ty.bytes pa →
    exec (e.1 o) s = .next (s.onCur fun c =>
      let x := c.unionOf (.s o.d.toNat :: e.2.2 o)
      (withStore pa (bytesLE o.ty.bytes (c.s o.d.toNat).toNat) x (beforeStore x c)).retire o)) ∧
  (∀ (o : Operands) (s : State) (pa : Nat), Storable s.drain (atBase o s.cur) o.ty.bytes pa →
    exec (.strel o) s = .next (s.drain.onCur fun c =>
      let x := c.unionOf [.s o.d.toNat, .s o.a.toNat]
      (withStore pa (bytesLE o.ty.bytes (c.s o.d.toNat).toNat) x (beforeStore x c)).retire o)) ∧
  ∀ (o : Operands) (s : State), exec (.pref o) s = .next (s.onCur (·.retire o))

/-- R105: an atomic writes the new value that its operation gives to the element, in memory, after the strand's earlier
stores, and the old value to sd; CAS writes nothing where the old value is not the compare value. -/
def Obligations.ScalarAtomics : Prop :=
  ∀ (o : Operands) (s : State) (pa : Nat),
    let c := s.cur
    let va := c.s o.a.toNat
    let q := quiet (c.unionOf (amoSources o)) s
    let old := q.dev.readLE pa o.ty.bytes
    o.ty ∈ amoTypes (o.fnBits 0 4) → va.toNat % o.ty.bytes = 0 → Translates q .atomic va pa → q.dev.poisoned pa = false →
    ∃ t, exec (.amo o) s = .next t ∧ t.others = s.others ∧ t.agenda = s.agenda ∧
      t.dev = (match amoValue (o.fnBits 0 4) o.ty old (c.s o.b.toNat) (c.s o.d.toNat) with
        | some v => q.dev.writeLE pa o.ty.bytes v
        | none => q.dev) ∧
      (o.d.toNat ≠ 0 → t.cur.s o.d.toNat = extend o.ty old ∧ Covers t.cur (.s o.d.toNat) s.cur.nextTag) ∧
      t.cur.buf = [] ∧ LoadFrame o q t

/-- R96: an address that is no multiple of the size takes ALIGN, with tval the address. -/
def Sys2Proof.Claims.MisalignedAccesses : Prop :=
  ∀ (o : Operands) (s : State),
    (∀ e ∈ loadTable ++ storeTable, (e.2.1 o s.cur).toNat % o.ty.bytes ≠ 0 → TakesAlign (e.1 o) s s (e.2.1 o s.cur)) ∧
    ((atBase o s.cur).toNat % o.ty.bytes ≠ 0 → TakesAlign (.amo o) s s (atBase o s.cur) ∧
      ∀ i ∈ [Instr.ldacq o, .strel o], TakesAlign i s s.drain (atBase o s.cur))

/-- R68, R75 to R79, R83, R91 to R93, R97, R98: a scalar access at an aligned address that has no page, whose walk or kept leaf
refuses it, or that meets poison (a lost device's memory too, R307,
the model's log entry 110) traps with that cause and the address as tval; no register
changes, nor what the strand sees of memory. -/
def Sys2Proof.Claims.RefusedAccesses : Prop :=
  ∀ (o : Operands) (s : State),
    let c := s.cur
    let stops := fun (i : Instr) (acc : Acc) (va : Word) => va.toNat % o.ty.bytes = 0 →
      ∀ why, NotTranslated s.drain.dev s.drain.dev.readByte c.ctx acc va why → TakesCause i s why va
    (∀ e ∈ loadTable, stops (e.1 o) .load (e.2.1 o c) ∧
      ∀ pa, (e.2.1 o c).toNat % o.ty.bytes = 0 → Translates s .load (e.2.1 o c) pa → s.poisonSeen pa = true →
        TakesCause (e.1 o) s .poison (e.2.1 o c)) ∧
    stops (.ldacq o) .load (atBase o c) ∧
    (∀ pa, (atBase o c).toNat % o.ty.bytes = 0 → Translates s.drain .load (atBase o c) pa → s.drain.dev.poisoned pa = true →
      TakesCause (.ldacq o) s .poison (atBase o c)) ∧
    (∀ e ∈ storeTable, stops (e.1 o) .store (e.2.1 o c)) ∧ stops (.strel o) .store (atBase o c) ∧
    stops (.amo o) .atomic (atBase o c) ∧
    ∀ pa, (atBase o c).toNat % o.ty.bytes = 0 → Translates s.drain .atomic (atBase o c) pa →
      s.drain.dev.poisoned pa = true → TakesCause (.amo o) s .poison (atBase o c)

/-- R281: a strand sees its own stores that have not performed, the newest one of each byte, and elsewhere what it saw
before; a store changes no memory until it performs. -/
def Sys2Proof.Claims.OwnStoresAreSeen : Prop :=
  ∀ (s : State) (pa : Nat) (bytes : List Byte) (x : Taint), s.dev.migs = [] →
    let t := s.onCur (withStore pa bytes x)
    (∀ (k : Nat) (h : k < bytes.length), t.seeByte (pa + k) = bytes[k]) ∧
    (∀ a, a < pa ∨ pa + bytes.length ≤ a → t.seeByte a = s.seeByte a) ∧ t.dev = s.dev

/-- R278, R281, R292: when the strand's stores perform, memory holds at every address what the strand saw there, and the
strand goes on seeing it; so where none goes to a lost device (R307) and those of one .u instruction, whose order is open
(R111), do not overlap. -/
def Sys2Proof.Claims.StoresPerformInOrder : Prop :=
  ∀ s : State, s.dev.migs = [] → Settles s → ∀ a, s.drain.dev.readByte a = s.seeByte a ∧ s.drain.seeByte a = s.seeByte a

/-- MemRead and MemWrite of R19: little-endian words in memory: a word written is read back, the lowest byte at the lowest address, and every
byte outside it stays. -/
def Sys2Proof.Claims.MemoryWords : Prop :=
  ∀ (d : Device) (pa n x : Nat), d.migs = [] →
    (d.writeLE pa n x).readLE pa n = x % 256 ^ n ∧
    (∀ k < n, (d.writeLE pa n x).readByte (pa + k) = BitVec.ofNat 8 (x / 256 ^ k)) ∧
    ∀ a, a < pa ∨ pa + n ≤ a → (d.writeLE pa n x).readByte a = d.readByte a

namespace Sys2Proof.Claims

/-! ### Vector instructions by element (R172, R208 to R215, R220) -/

/-- The convoy once an instruction has its place in it (R53, R54). -/
def convoyAfter (o : Operands) (sh : Shape) (c : Strand) : Convoy :=
  (if o.cv then Convoy.closed else c.convoy).join sh.cls (sh.cross && isCross o) (sh.dst (c.names o))
    (sh.named o (c.names o))

/-- Steps 10 and 11 of R51 find nothing in the way of a vector instruction: its class has room
in the convoy (a new one with CV), and its own dispatch checks hold. u is the state once
it is dispatched: it has its place in the convoy, the registers it names are in the file, and the matrix or small-matrix
state is the strand's own if it names one (R153, R158). -/
def Dispatches (o : Operands) (sh : Shape) (more : Strand → Names → Bool) (s u : State) : Prop :=
  dispatchOk o sh more s.cur (s.cur.names o) = true ∧
  (if o.cv then Convoy.closed else s.cur.convoy).fits sh.cls (sh.cross && isCross o) (sh.dst (s.cur.names o)) = true ∧
  ∃ v, InFile (sh.named o (s.cur.names o)) (s.onCur fun c => { c with convoy := convoyAfter o sh c }) v ∧
    ownStates sh.mat sh.sm v = .ok () u

/-- A vector instruction is dispatched so; no request is pending, and no register is bound to a stream. -/
def VecReady (o : Operands) (sh : Shape) (more : Strand → Names → Bool) (s u : State) : Prop :=
  s.cur.preempt = none ∧ s.cur.binds = [] ∧ Dispatches o sh more s u

/-- The elements from vstart on and below a bound, in ascending order: each that guard and mif allow has its effect. -/
def overElements (o : Operands) (bound : Nat) (step : Nat → Strand → Strand) (c : Strand) : Strand :=
  ((List.range bound).filter fun i => decide (c.csr.vstart.toNat ≤ i)).foldl
    (fun d i => if d.allows o i then step i d else d) c

/-- An element-loop instruction, dispatched in state u, that meets no stop: every element has its effect, al is vl, vstart
is 0, the destination takes the sources' sets, and it retires. Nothing of the device changes. -/
def LoopDone (o : Operands) (sh : Shape) (step : Nat → Strand → Strand) (u t : State) : Prop :=
  let c := u.cur
  let n := c.names o
  t.cur = (((overElements o c.vl step c |>.setAl c.vl).setVstart 0).taintDst sh n (c.sourceSet o sh n)).retire o ∧
  t.others = u.others ∧ t.agenda = u.agenda ∧ t.dev = u.dev ∧ ∀ a, t.dev.readByte a = u.dev.readByte a

/-- The low n bits of an integer. -/
def lowBits (n : Nat) (x : Int) : Nat := (x % (2 ^ n : Nat)).toNat

/-- An element read under its type's signedness. -/
def reading (ty : Ty) (x : Nat) : Int := if ty.signed then asInt ty.bits x else x

/-- Element i of vector operand A, of the old D, of operand B. t0: the strand before the instruction wrote, for a
cross-lane modifier (R202) and scalars. c: the strand now. -/
def elA (o : Operands) (n : Names) (c : Strand) (i : Nat) : Nat := c.elem o.ty.width n.a i
def elD (o : Operands) (n : Names) (c : Strand) (i : Nat) : Nat := c.elem o.ty.width n.d i
def elVB (o : Operands) (n : Names) (t0 c : Strand) (i : Nat) : Nat :=
  if isCross o then
    match crossIndex o o.ty.width (t0.vlmax o.ty.width) i with
    | some j => t0.elem o.ty.width n.b j
    | none => 0
  else c.elem o.ty.width n.b i

/-- Operand B of R201: a vector, the low W bits of a scalar, or of the sign-extended immediate. -/
def elB (o : Operands) (n : Names) (t0 c : Strand) (i : Nat) : Nat :=
  match bKind o with
  | .vec => elVB o n t0 c i
  | .scalar => (t0.s n.b).toNat % 2 ^ o.ty.bits
  | .imm => o.simm.toNat % 2 ^ o.ty.bits

/-- A shift amount of R212: a vector, all of a scalar, or the immediate. -/
def elShift (o : Operands) (n : Names) (t0 c : Strand) (i : Nat) : Nat :=
  match bKind o with
  | .vec => elVB o n t0 c i
  | .scalar => (t0.s n.b).toNat
  | .imm => o.imm.toNat

/-- What an element's result is, as an integer of which W bits are kept. -/
abbrev ElemVal := Operands → Names → Strand → Strand → Nat → Int

/-- The two operands as integers under the type's signedness. -/
def byType (f : Int → Int → Int) : ElemVal := fun o n t0 c i =>
  f (reading o.ty (elA o n c i)) (reading o.ty (elB o n t0 c i))

/-- Bits of a value, lowest first. -/
def fromBits (w : Nat) (f : Nat → Bool) : Int := (BitVec.ofFnLE fun j : Fin w => f j.val).toNat

/-- The element results of the integer and logic instructions that set no flag. -/
def intElems1 : List ((Operands → Instr) × EOp × ElemVal) :=
  [(.vadd, opVadd, byType (· + ·)), (.vsub, opVsub, byType (· - ·)), (.vmin, opVmin, byType min),
   (.vmax, opVmax, byType max), (.vabs, opVabs, fun o n _ c i => |reading o.ty (elA o n c i)|),
   (.vsel, opVsel, fun o n t0 c i => if t0.p (o.im 6 3) i then elA o n c i else elVB o n t0 c i),
   (.vshl, opVshl, fun o n t0 c i =>
     if o.ty.bits ≤ elShift o n t0 c i then 0 else elA o n c i * 2 ^ elShift o n t0 c i),
   (.vshr, opVshr, fun o n t0 c i =>
     if o.ty.bits ≤ elShift o n t0 c i then 0 else (elA o n c i / 2 ^ elShift o n t0 c i : Nat)),
   (.vsra, opVsra, fun o n t0 c i =>
     if o.ty.bits ≤ elShift o n t0 c i then (if asInt o.ty.bits (elA o n c i) < 0 then -1 else 0)
     else asInt o.ty.bits (elA o n c i) / 2 ^ elShift o n t0 c i),
   (.vfsl, opVfsl, fun o n _ c i =>
     ((elA o n c i * 2 ^ o.ty.bits + c.elem o.ty.width n.b i) * 2 ^ o.imm.toNat / 2 ^ o.ty.bits : Nat)),
   (.vfsr, opVfsr, fun o n _ c i =>
     ((elA o n c i * 2 ^ o.ty.bits + c.elem o.ty.width n.b i) / 2 ^ o.imm.toNat : Nat))]

def intElems2 : List ((Operands → Instr) × EOp × ElemVal) :=
  [(.vlut3, opVlut3, fun o n _ c i => fromBits o.ty.bits fun j => (o.im 0 8).testBit
     (4 * ((elD o n c i).testBit j).toNat + 2 * ((elA o n c i).testBit j).toNat +
       ((c.elem o.ty.width n.b i).testBit j).toNat)),
   (.vpopc, opVpopc, fun o n _ c i => ((List.range o.ty.bits).filter (elA o n c i).testBit).length),
   (.vclz, opVclz, fun o n _ c i =>
     ((List.range o.ty.bits).takeWhile fun k => !(elA o n c i).testBit (o.ty.bits - 1 - k)).length),
   (.vextb, opVextb, fun o n _ c i =>
     if o.ty.signed then asInt o.imLen (elA o n c i / 2 ^ o.imPos % 2 ^ o.imLen)
     else (elA o n c i / 2 ^ o.imPos % 2 ^ o.imLen : Nat)),
   (.vinsb, opVinsb, fun o n _ c i => fromBits o.ty.bits fun j =>
     if o.imPos ≤ j ∧ j < o.imPos + o.imLen then (elA o n c i).testBit (j - o.imPos) else (elD o n c i).testBit j),
   (.vmul, opVmul, byType (· * ·)),
   (.vmulh, opVmulh, fun o n t0 c i => byType (· * ·) o n t0 c i / 2 ^ o.ty.bits),
   (.vmac, opVmac, fun o n t0 c i => elD o n c i + byType (· * ·) o n t0 c i),
   (.vbcast, opVbcast, fun _ n t0 _ _ => (t0.s n.a).toNat),
   (.vbcastImm, opVbcastImm, fun o _ _ _ _ => o.simm.toNat),
   (.vid, opVid, fun _ _ _ _ i => i)]

def intElems : List ((Operands → Instr) × EOp × ElemVal) := intElems1 ++ intElems2

/-- The least and the greatest value of n bits under a type's signedness (R175, R209). -/
def leastOf (ty : Ty) (n : Nat) : Int := if ty.signed then -(2 ^ (n - 1) : Int) else 0
def mostOf (ty : Ty) (n : Nat) : Int := if ty.signed then 2 ^ (n - 1) - 1 else 2 ^ n - 1

/-- Instructions that clamp: the exact value, and the bits of the range. -/
def satElems : List ((Operands → Instr) × EOp × ElemVal × (Operands → Nat)) :=
  [(.vaddSat, opVaddSat, byType (· + ·), fun o => o.ty.bits), (.vsubSat, opVsubSat, byType (· - ·), fun o => o.ty.bits),
   (.vsat, opVsat, fun o n _ c i => reading o.ty (elA o n c i), fun o => o.simm.toNat)]

/-- The divisions: the quotient or remainder, and the result by 0 (R210). -/
def divElems : List ((Operands → Instr) × EOp × (Int → Int → Int) × (Int → Int)) :=
  [(.vdiv, opVdiv, Int.tdiv, fun _ => -1), (.vrem, opVrem, Int.tmod, id)]

/-- A condition of R214. -/
def condHolds (k w a b : Nat) : Bool :=
  match k with
  | 0 => decide (a = b)
  | 1 => decide (a ≠ b)
  | 2 => decide (asInt w a < asInt w b)
  | 3 => decide (asInt w a ≤ asInt w b)
  | 4 => decide (a < b)
  | _ => decide (a ≤ b)

/-- Elements that stay whole inside their register: vl lies within VLMAX (R154). -/
def Fits (o : Operands) (c : Strand) : Prop := c.gvl ≤ 4096 ∧ c.vl ≤ vlmaxOf c.gvl o.ty.width

/-- Elements that an instruction writes: allowed, from vstart on and below vl. -/
def Written (o : Operands) (c : Strand) (i : Nat) : Prop :=
  c.csr.vstart.toNat ≤ i ∧ i < c.vl ∧ c.allows o i = true

/-- The vector registers that hold operand D. -/
def dRegs (o : Operands) (d : Nat) : List Nat := if o.ty.width = 3 then [d, d + 1] else [d]

end Sys2Proof.Claims

/-- R172, R208 to R215, R220: each integer or logic vector instruction that sets no flag, with every element's result as
stated, exactly. -/
def Sys2Proof.Claims.VectorIntegerElements : Prop :=
  ∀ e ∈ intElems, ∀ (o : Operands) (s u : State), (e.1 o = .vextb o → o.imPos + o.imLen ≤ o.ty.bits) →
    VecReady o (e.2.1.sh o) (e.2.1.more o) s u →
    ∃ t, exec (e.1 o) s = .next t ∧ LoopDone o (e.2.1.sh o) (fun i c =>
      c.setElem o.ty.width (s.cur.names o).d i
        (lowBits o.ty.bits (e.2.2 o (s.cur.names o) u.cur c i))) u t

/-- R175, R209: the clamping instructions give the value clamped to the range, and set SATF where they clamp. -/
def Sys2Proof.Claims.VectorSaturation : Prop :=
  ∀ e ∈ satElems, ∀ (o : Operands) (s u : State), o.ty ∈ Ty.ints →
    VecReady o (e.2.1.sh o) (e.2.1.more o) s u →
    ∃ t, exec (e.1 o) s = .next t ∧ LoopDone o (e.2.1.sh o) (fun i c =>
      let x := e.2.2.1 o (s.cur.names o) u.cur c i
      let y := max (leastOf o.ty (e.2.2.2 o)) (min x (mostOf o.ty (e.2.2.2 o)))
      let d := c.setElem o.ty.width (s.cur.names o).d i (lowBits o.ty.bits y)
      if x = y then d else { d with csr := { d.csr with icsr := d.csr.icsr ||| 4 } }) u t

/-- R210 with DZS 0: quotients truncate toward zero, remainders take the sign of a, and a divisor of 0 gives all ones or a
and sets DZF. -/
def Sys2Proof.Claims.VectorDivision : Prop :=
  ∀ e ∈ divElems, ∀ (o : Operands) (s u : State), o.ty ∈ Ty.ints → s.cur.csr.icsr.getLsbD 1 = false →
    VecReady o (e.2.1.sh o) (e.2.1.more o) s u →
    ∃ t, exec (e.1 o) s = .next t ∧ LoopDone o (e.2.1.sh o) (fun i c =>
      let t0 := u.cur
      let n := s.cur.names o
      let a := reading o.ty (elA o n c i)
      let b := reading o.ty (elVB o n t0 c i)
      if b = 0 then
        let d := c.setElem o.ty.width n.d i (lowBits o.ty.bits (e.2.2.2 a))
        { d with csr := { d.csr with icsr := d.csr.icsr ||| 1 } }
      else c.setElem o.ty.width n.d i (lowBits o.ty.bits (e.2.2.1 a b))) u t

/-- R214: VCMP sets bit i of pd to whether the condition holds, signed or unsigned as FN says whatever the type. -/
def Sys2Proof.Claims.VectorCompare : Prop :=
  ∀ (o : Operands) (s u : State), o.ty ∈ Ty.ints → VecReady o (opVcmp.sh o) (opVcmp.more o) s u →
    ∃ t, exec (.vcmp o) s = .next t ∧ LoopDone o (opVcmp.sh o) (fun i c =>
      let t0 := u.cur
      let n := s.cur.names o
      c.setP n.d i (condHolds (o.fnBits 0 3) o.ty.bits (elA o n c i) (elB o n t0 c i))) u t

/-- The frame of the integer and logic vector instructions, and which elements they write: those that guard, mif, vstart
and vl admit; every other element of D and every other register keep what they held once they were in the file (R40,
R172). -/
def Obligations.VectorIntegerFrame : Prop :=
  ∀ e ∈ intElems, ∀ (o : Operands) (s u t : State), Fits o s.cur →
    VecReady o (e.2.1.sh o) (e.2.1.more o) s u → exec (e.1 o) s = .next t →
    let d := (s.cur.names o).d
    (∀ i, i < vlmaxOf s.cur.gvl o.ty.width → ¬ Written o s.cur i → t.cur.elem o.ty.width d i = u.cur.elem o.ty.width d i) ∧
    (∀ r, r ∉ dRegs o d → ∀ b < 16384, t.cur.vBytes r b 1 = u.cur.vBytes r b 1) ∧
    t.others = u.others ∧ t.agenda = s.agenda ∧ (∀ a, t.dev.readByte a = u.dev.readByte a) ∧
    t.dev = u.dev ∧ t.cur.vl = s.cur.vl ∧ t.cur.csr.al = s.cur.csr.vl ∧
    t.cur.csr.vstart = 0 ∧ t.cur.regs = { s.cur.regs with v := t.cur.regs.v } ∧ t.cur.sup = s.cur.sup ∧
    t.cur.csr = { s.cur.csr with al := t.cur.csr.al, vstart := t.cur.csr.vstart, dmap := t.cur.csr.dmap,
                                 li := t.cur.csr.li } ∧
    (NotAtBodyEnd o s.cur → t.cur.pc = after o s.cur)

/-- R210, R171 to R173: with DZS 1 a divisor of 0 stops VDIV and VREM. At the leading element they trap with INT_DZ; above
it vl and al become the element's number, the elements below are complete, trim names cause and element, and the
instruction retires. -/
def Sys2Proof.Claims.DivisionShortens : Prop :=
  ∀ e ∈ divElems, ∀ (o : Operands) (s u : State) (k : Nat), o.ty ∈ Ty.ints → s.cur.csr.icsr.getLsbD 1 = true →
    VecReady o (e.2.1.sh o) (e.2.1.more o) s u → Fits o s.cur →
    let n := s.cur.names o
    let b := elVB o n u.cur u.cur
    Written o s.cur k → b k = 0 → (∀ i < k, Written o s.cur i → b i ≠ 0) →
    (k = s.cur.csr.vstart.toNat → ∃ s' : State, exec (e.1 o) s = .next (s'.trap .intDz 0 s.cur.pc false) ∧
      s'.cur.regs = u.cur.regs ∧ s'.cur.csr = s.cur.csr ∧ s'.cur.sup = s.cur.sup ∧
      ∀ a, s'.dev.readByte a = u.dev.readByte a) ∧
    (s.cur.csr.vstart.toNat < k → ∃ t, exec (e.1 o) s = .next t ∧ t.cur.vl = k ∧ t.cur.csr.al.toNat = k ∧
      t.cur.csr.vstart = 0 ∧ t.cur.csr.trim = BitVec.ofNat 64 (0x15 + 65536 * k) ∧
      t.cur.csr.icsr = s.cur.csr.icsr ∧ (NotAtBodyEnd o s.cur → t.cur.pc = after o s.cur) ∧
      ∀ i < vlmaxOf s.cur.gvl o.ty.width, t.cur.elem o.ty.width n.d i =
        if decide (i < k) && decide (s.cur.csr.vstart.toNat ≤ i) && s.cur.allows o i then
          lowBits o.ty.bits (e.2.2.1 (reading o.ty (elA o n u.cur i)) (reading o.ty (b i)))
        else u.cur.elem o.ty.width n.d i)

namespace Sys2Proof.Claims

/-! ### Decoding and rounding of floats (R176 to R185) -/

/-- What a float stands for: a NaN, signalling or not, an infinity, or a real by its sign and magnitude. -/
inductive Val where
  | nan (signalling : Bool)
  | inf (neg : Bool)
  | real (neg : Bool) (mag : ℝ)

/-- The float types with their exponent bits, mantissa bits and bias (R176). -/
def floatFields : List (Ty × Nat × Nat × Nat) :=
  [(.f64, 11, 52, 1023), (.f32, 8, 23, 127), (.f16, 5, 10, 15), (.bf16, 8, 7, 127), (.e4m3, 4, 3, 7), (.e5m2, 5, 2, 15),
   (.e2m1, 2, 1, 1)]

/-- The largest finite magnitude of a type (R176). -/
noncomputable def largest : Ty → ℝ
  | .f64 => (2 - 2 ^ (-52 : Int)) * 2 ^ 1023
  | .f32 => (2 - 2 ^ (-23 : Int)) * 2 ^ 127
  | .f16 => 65504
  | .bf16 => (2 - 2 ^ (-7 : Int)) * 2 ^ 127
  | .e4m3 => 448
  | .e5m2 => 57344
  | _ => 6

/-- The canonical NaN of a type (R176); a NaN becomes +0 in E2M1 (R178). -/
def canonical : Ty → Nat
  | .f64 => 0x7FF8000000000000
  | .f32 => 0x7FC00000
  | .f16 => 0x7E00
  | .bf16 => 0x7FC0
  | .e4m3 => 0x7F
  | .e5m2 => 0x7E
  | _ => 0

/-- What the bits of a type with w mantissa bits, x exponent bits and a bias stand for (R176, R177, R178). -/
noncomputable def valueOf (t : Ty) (x w bias bits : Nat) : Val :=
  let m := bits % 2 ^ w
  let e := bits / 2 ^ w % 2 ^ x
  let neg := decide (bits / 2 ^ (w + x) % 2 = 1)
  if t = .e4m3 ∧ e = 15 ∧ m = 7 then .nan false
  else if t ≠ .e4m3 ∧ t ≠ .e2m1 ∧ e = 2 ^ x - 1 then (if m = 0 then .inf neg else .nan (decide (m < 2 ^ (w - 1))))
  else if e = 0 then .real neg (2 ^ (1 - (bias : Int)) * (m / 2 ^ w)) else .real neg (2 ^ ((e : Int) - bias) * (1 + m / 2 ^ w))

/-- A decoded number of the model stands for a value: with a tail, for every real above m units and below m + 1, of a number
with bits to spare. -/
def Means (w : Nat) (x : Machine.Num) (v : Val) : Prop :=
  match x, v with
  | .nan s, .nan s' => s = s'
  | .inf n, .inf n' => n = n'
  | .fin n m e tail, .real n' y => n = n' ∧
      if tail then 2 ^ (w + 18) ≤ m ∧ (m : ℝ) * 2 ^ e < y ∧ y < (m + 1 : ℝ) * 2 ^ e else y = m * 2 ^ e
  | _, _ => False

/-- The magnitudes with w mantissa bits and a least exponent, if there is one; no greatest (R180). -/
def Magnitude (w : Nat) (least : Option Int) (y : ℝ) : Prop :=
  ∃ (k : Nat) (e : Int), k < 2 ^ (w + 1) ∧ (∀ l, least = some l → l - w ≤ e) ∧ y = k * 2 ^ e

/-- A magnitude y that is no zero becomes r in a mode (R180, R182): a and b are the magnitudes next to it. -/
def Rounded (grid : ℝ → Prop) (mode : Nat) (neg : Bool) (r y z : ℝ) : Prop :=
  ∃ a b, grid a ∧ grid b ∧ a ≤ y ∧ y < b ∧ (∀ c, grid c → c ≤ a ∨ b ≤ c) ∧
    (y = a → z = a) ∧ (y ≠ a → match mode with
      | 0 => (y - a < b - y → z = a) ∧ (b - y < y - a → z = b) ∧
          (y - a = b - y → ((∃ j : Int, a = 2 * j * (b - a)) → z = a) ∧ ((¬ ∃ j : Int, a = 2 * j * (b - a)) → z = b))
      | 1 => z = a
      | 2 => z = if neg then b else a
      | 3 => z = if neg then a else b
      | 4 => (y - a < b - y → z = a) ∧ (b - y ≤ y - a → z = b)
      | _ => (r ≤ ⌊(y - a) / (b - a) * 65536⌋ → z = b) ∧ (⌊(y - a) / (b - a) * 65536⌋ < r → z = a))

/-- What a magnitude above the largest finite gives (R183): an infinity or the largest of its sign, or for E4M3 its NaN. -/
def overflows (t : Ty) (mode : Nat) (sat neg : Bool) (v : Val) : Prop :=
  if t = .e2m1 ∨ ((t = .e4m3 ∨ t = .e5m2) ∧ sat = true) then v = .real neg (largest t)
  else if t = .e4m3 then v = .nan false
  else if mode = 1 ∨ (mode = 2 ∧ neg = false) ∨ (mode = 3 ∧ neg = true) then v = .real neg (largest t) else v = .inf neg

/-- ROUNDTO (R180 to R185): the value delivered and the flags. r: the lane's state. fields: of the type. -/
def RoundsTo (f : Ty × Nat × Nat × Nat) (mode : Nat) (fz sat : Bool) (r : Nat) (v out : Val) (fl : Flags) : Prop :=
  let t := f.1
  let w := f.2.2.1
  let least : Int := 1 - f.2.2.2
  let ovf : Flags := ⟨false, false, true, false, true⟩
  match v with
  | .nan s => out = (if t = .e2m1 then .real false 0 else .nan false) ∧
      fl = ⟨s || decide (t = .e2m1), false, false, false, false⟩
  | .inf neg =>
    if t = .e2m1 ∨ ((t = .e4m3 ∨ t = .e5m2) ∧ sat = true) then out = .real neg (largest t) ∧ fl = ovf
    else if t = .e4m3 then out = .nan false ∧ fl = ⟨true, false, false, false, false⟩
    else out = .inf neg ∧ fl = ⟨false, false, false, false, false⟩
  | .real neg y =>
    (y = 0 → out = .real neg 0 ∧ fl = ⟨false, false, false, false, false⟩) ∧
    (y ≠ 0 → ∃ z z', Rounded (Magnitude w (some least)) mode neg r y z ∧ Rounded (Magnitude w none) mode neg r y z' ∧
      (largest t < z → overflows t mode sat neg out ∧ fl = ovf) ∧
      (z ≤ largest t → fz = true → t ∈ [Ty.f64, .f32, .f16, .bf16] → z ≠ 0 → z < 2 ^ least →
        out = .real neg 0 ∧ fl = ⟨false, false, false, true, true⟩) ∧
      (z ≤ largest t → ¬ (fz = true ∧ t ∈ [Ty.f64, .f32, .f16, .bf16] ∧ z ≠ 0 ∧ z < 2 ^ least) →
        out = .real neg z ∧ fl.nv = false ∧ fl.dz = false ∧ fl.of = false ∧ (fl.nx = true ↔ z ≠ y) ∧
        (fl.uf = true ↔ z ≠ y ∧ z' < 2 ^ least)))

end Sys2Proof.Claims

/-- R176, R177, R178: what the bits of every float type stand for. -/
def Obligations.FloatDecoding : Prop :=
  ∀ f ∈ floatFields, ∀ bits, bits < 2 ^ (1 + f.2.1 + f.2.2.1) →
    Means f.2.2.1 (decodeFloat f.1 bits) (valueOf f.1 f.2.1 f.2.2.1 f.2.2.2 bits)

/-- R178 to R185: RoundTo delivers bits of the type that stand for the rounded value, saturated, flushed or canonical as
the rules say, with the flags of its own. It reads no sign of a NaN and delivers sign 0. -/
def Obligations.FloatRounding : Prop :=
  ∀ f ∈ floatFields, ∀ (mode r : Nat) (fz sat : Bool) (x : Machine.Num) (v : Val), mode ≤ 5 → 1 ≤ r → r < 65536 →
    Means f.2.2.1 x v →
    let y := roundTo f.1 mode fz sat r x
    y.1 < 2 ^ (1 + f.2.1 + f.2.2.1) ∧
    RoundsTo f mode fz sat r v (valueOf f.1 f.2.1 f.2.2.1 f.2.2.2 y.1) y.2 ∧
    (∀ s, valueOf f.1 f.2.1 f.2.2.1 f.2.2.2 y.1 = .nan s → y.1 = canonical f.1)

namespace Sys2Proof.Claims

/-! ### Float vector instructions (R222 to R233) -/

/-- No exception flag has its stop enabled (R170). -/
def NoStops (c : Strand) : Prop := ∀ k ∈ [16, 17, 18, 19, 20], c.csr.fcsr.getLsbD k = false

/-- Operand B: a vector, or the low W bits of a scalar (R222). -/
def elFB (o : Operands) (n : Names) (t0 c : Strand) (i : Nat) : Nat :=
  if o.fnBits 7 1 = 0 then elVB o n t0 c i else (t0.s n.b).toNat % 2 ^ o.ty.bits

/-- The lane's state moves when a result was rounded stochastically (R181, R182). -/
def steppedLane (mode lane : Nat) (c : Strand) : Strand := if mode = 5 then (c.stepSr lane).2 else c

/-- An element's exact result, with NV and DZ of its own: from the mode and the operands A, B and the old D. -/
abbrev FloatVal := Nat → Machine.Num → Machine.Num → Machine.Num → Machine.Num × Bool × Bool

def floatElems : List ((Operands → Instr) × EOp × FloatVal) :=
  [(.vfadd, opVfadd, fun m a b _ => ((a.add m b).1, (a.add m b).2, false)),
   (.vfsub, opVfsub, fun m a b _ => ((a.add m b.negate).1, (a.add m b.negate).2, false)),
   (.vfmul, opVfmul, fun _ a b _ => ((a.mul b).1, (a.mul b).2, false)),
   (.vfma, opVfma, fun m a b d => ((Machine.Num.fma m false d a b).1, (Machine.Num.fma m false d a b).2, false)),
   (.vfnma, opVfnma, fun m a b d => ((Machine.Num.fma m true d a b).1, (Machine.Num.fma m true d a b).2, false)),
   (.vfdiv, opVfdiv, fun _ a b _ => a.div b),
   (.vfsqrt, opVfsqrt, fun _ a _ _ => (a.sqrt.1, a.sqrt.2, false)),
   (.vfrsq, opVfrsq, fun _ a _ _ => a.rsqrt),
   (.vfexp2, opVfexp2, fun _ a _ _ => (a.exp2.1, a.exp2.2, false)),
   (.vflog2, opVflog2, fun _ a _ _ => a.log2)]

/-- The result bits and the flags of element i. -/
def floatResult (o : Operands) (f : FloatVal) (n : Names) (t0 c : Strand) (i : Nat) : Nat × Flags :=
  let m := c.mode o
  let rd := fun (x : Nat) => decodeFz c.fz o.ty x
  let v := f m (rd (elA o n c i)) (rd (elFB o n t0 c i)) (rd (elD o n c i))
  let r := roundTo o.ty m c.fz false (c.srNext (laneOf o.ty.width i)) v.1
  (r.1, { r.2 with nv := r.2.nv || v.2.1, dz := r.2.dz || v.2.2 })

/-- The lesser or the greater of two numbers, with -0 below +0; a NaN loses to a number (R229). -/
def chosen (larger : Bool) (a b : Machine.Num) : Machine.Num :=
  if a.isNan then (if b.isNan then .nan false else b)
  else if b.isNan then a
  else if a.lt b || (a.isZero && b.isZero && a.isNeg && !b.isNeg) then (if larger then b else a)
  else (if larger then a else b)

/-- The value of a decoded finite number. -/
def ratOf (x : Machine.Num) : ℚ :=
  match x with
  | .fin neg m e _ => (if neg then -1 else 1) * m * 2 ^ e
  | _ => 0

/-- A number rounded to an integer in a mode of R43 (R180): |x| lies between the integers k and k + 1, and under sr the
fraction of 65536 that it lies above k decides against the lane's state r (R182). -/
def integral (mode r : Nat) (x : ℚ) : Int :=
  let k : Int := ⌊|x|⌋
  let f : ℚ := |x| - k
  let away : Bool := match mode with
    | 0 => decide (1 / 2 < f) || (decide (f = 1 / 2) && decide (k % 2 = 1))
    | 1 => false
    | 2 => decide (x < 0) && decide (f ≠ 0)
    | 3 => decide (0 < x) && decide (f ≠ 0)
    | 4 => decide (1 / 2 ≤ f)
    | _ => decide (f ≠ 0) && decide ((r : Int) ≤ ⌊f * 65536⌋)
  (if x < 0 then -1 else 1) * (if away then k + 1 else k)

/-- What VCVT gives an element (R232): the bits, the flags NV and NX or those of RoundTo, SATF, and whether it rounds. -/
def converted (st dt : Ty) (mode r : Nat) (fz : Bool) (sat raw : Nat) : Nat × Flags × Bool × Bool :=
  let x := decodeFz fz st raw
  let n := reading st (raw % 2 ^ st.bits)
  let clamp := fun (k : Int) => max (leastOf dt dt.bits) (min k (mostOf dt dt.bits))
  let nv : Flags := ⟨true, false, false, false, false⟩
  if isFloatTy dt then
    let y := roundTo dt mode fz (sat ≠ 2) r (if isFloatTy st then x else .fin (decide (n < 0)) n.natAbs 0 false)
    (y.1, y.2, false, true)
  else if isFloatTy st then
    match x with
    | .nan _ => (0, nv, false, true)
    | .inf neg => (lowBits dt.bits (if neg then leastOf dt dt.bits else mostOf dt dt.bits), nv, true, true)
    | x =>
      let k := integral mode r (ratOf x)
      if clamp k = k then (lowBits dt.bits k, ⟨false, false, false, false, decide ((k : ℚ) ≠ ratOf x)⟩, false, true)
      else (lowBits dt.bits (clamp k), nv, true, true)
  else if st.bits < dt.bits ∨ sat ≠ 1 then (lowBits dt.bits n, ⟨false, false, false, false, false⟩, false, false)
  else (lowBits dt.bits (clamp n), ⟨false, false, false, false, false⟩, decide (clamp n ≠ n), false)

/-- A condition of R228 by its number, on the outcome of a comparison (none: unordered). -/
def floatHolds (k : Nat) (a b : Machine.Num) : Bool :=
  match k with
  | 0 => a.cmp b == some 0
  | 1 => a.cmp b != some 0
  | 2 => a.lt b
  | 3 => a.le b
  | 4 => b.lt a
  | 5 => b.le a
  | 6 => a.isNan || b.isNan
  | _ => !a.isNan && !b.isNan

/-- A decoded number of the model is a value, with nothing cut off. -/
def Exactly (x : Machine.Num) (v : Val) : Prop :=
  match x, v with
  | .nan s, .nan s' => s = s'
  | .inf n, .inf n' => n = n'
  | .fin n m e false, .real n' y => n = n' ∧ y = m * 2 ^ e
  | _, _ => False

/-- The real number of a sign and a magnitude, and the sign of a value; that of a NaN is read nowhere. -/
def signedReal (neg : Bool) (y : ℝ) : ℝ := if neg then -y else y
def Val.neg : Val → Bool
  | .nan _ => false
  | .inf n => n
  | .real n _ => n
def Val.flip : Val → Val
  | .nan s => .nan s
  | .inf n => .inf (!n)
  | .real n y => .real (!n) y

/-- v + w and whether it is invalid; an exact zero has the sign of R224. -/
noncomputable def added (mode : Nat) : Val → Val → Val × Bool
  | .nan s, .nan s' => (.nan false, s || s')
  | .nan s, _ => (.nan false, s)
  | _, .nan s => (.nan false, s)
  | .inf n, .inf n' => if n = n' then (.inf n, false) else (.nan false, true)
  | .inf n, _ => (.inf n, false)
  | _, .inf n => (.inf n, false)
  | .real n x, .real n' y =>
    let z := signedReal n x + signedReal n' y
    (.real (if z = 0 then (if x = 0 ∧ n = n' then n else decide (mode = 2)) else decide (z < 0)) |z|, false)

/-- v × w and whether it is invalid. -/
noncomputable def multiplied : Val → Val → Val × Bool
  | .nan s, .nan s' => (.nan false, s || s')
  | .nan s, _ => (.nan false, s)
  | _, .nan s => (.nan false, s)
  | .real n x, .real n' y => (.real (n != n') (x * y), false)
  | .real n x, .inf n' => if x = 0 then (.nan false, true) else (.inf (n != n'), false)
  | .inf n, .real n' y => if y = 0 then (.nan false, true) else (.inf (n != n'), false)
  | .inf n, .inf n' => (.inf (n != n'), false)

/-- v / w, whether it is invalid, and whether it divides by zero (R226). -/
noncomputable def divided : Val → Val → Val × Bool × Bool
  | .nan s, .nan s' => (.nan false, s || s', false)
  | .nan s, _ => (.nan false, s, false)
  | _, .nan s => (.nan false, s, false)
  | .inf _, .inf _ => (.nan false, true, false)
  | .inf n, w => (.inf (n != w.neg), false, false)
  | .real n _, .inf n' => (.real (n != n') 0, false, false)
  | .real n x, .real n' y =>
    if y = 0 then (if x = 0 then (.nan false, true, false) else (.inf (n != n'), false, true))
    else (.real (n != n') (x / y), false, false)

/-- √v and whether it is invalid (R226). -/
noncomputable def root : Val → Val × Bool
  | .nan s => (.nan false, s)
  | .inf n => if n then (.nan false, true) else (.inf false, false)
  | .real n y => if y = 0 then (.real n 0, false) else if n then (.nan false, true) else (.real false (Real.sqrt y), false)

/-- 1/√v, whether it is invalid, and whether it divides by zero (R226). -/
noncomputable def overRoot : Val → Val × Bool × Bool
  | .nan s => (.nan false, s, false)
  | .inf n => if n then (.nan false, true, false) else (.real false 0, false, false)
  | .real n y =>
    if y = 0 then (.inf n, false, true) else if n then (.nan false, true, false)
    else (.real false (1 / Real.sqrt y), false, false)

/-- The exact results of the float arithmetic, of which floatResult is RoundTo: of exp2 and log2 the special cases and those
that are exact (their other values: log entry 20). -/
def ExactResults : Prop :=
  ∀ (mode : Nat) (a b d : Machine.Num) (v w x : Val), Exactly a v → Exactly b w → Exactly d x →
    (Exactly (a.add mode b).1 (added mode v w).1 ∧ (a.add mode b).2 = (added mode v w).2) ∧
    (Exactly (a.mul b).1 (multiplied v w).1 ∧ (a.mul b).2 = (multiplied v w).2) ∧
    (∀ sub, let p := if sub then (multiplied v w).1.flip else (multiplied v w).1
      Exactly (Machine.Num.fma mode sub d a b).1 (added mode x p).1 ∧
      (Machine.Num.fma mode sub d a b).2 = ((multiplied v w).2 || (added mode x p).2)) ∧
    (Means 52 (a.div b).1 (divided v w).1 ∧ (a.div b).2 = (divided v w).2) ∧
    (Means 52 a.sqrt.1 (root v).1 ∧ a.sqrt.2 = (root v).2) ∧
    (Means 52 a.rsqrt.1 (overRoot v).1 ∧ a.rsqrt.2 = (overRoot v).2) ∧
    (∀ s, v = .nan s → a.exp2 = (.nan false, s) ∧ a.log2 = (.nan false, s, false)) ∧
    (v = .inf false → a.exp2 = (.inf false, false) ∧ a.log2 = (.inf false, false, false)) ∧
    (v = .inf true → Exactly a.exp2.1 (.real false 0) ∧ a.exp2.2 = false ∧ a.log2 = (.nan false, true, false)) ∧
    (∀ n, v = .real n 0 → Exactly a.exp2.1 (.real false 1) ∧ a.exp2.2 = false ∧ a.log2 = (.inf true, false, true)) ∧
    (∀ y, v = .real true y → y ≠ 0 → a.log2 = (.nan false, true, false)) ∧
    (∀ n (k : Nat), k < 32768 → v = .real n k → k ≠ 0 → Exactly a.exp2.1 (.real false ((2 : ℝ) ^ (if n then -(k : Int) else k))) ∧
      a.exp2.2 = false) ∧
    ∀ k : Int, v = .real false ((2 : ℝ) ^ k) → Exactly a.log2.1 (.real (decide (k < 0)) |(k : ℝ)|) ∧ a.log2.2 = (false, false)

/-- The place of a value that is no NaN among the extended reals; the zeros share one. -/
noncomputable def place : Val → EReal
  | .nan _ => 0
  | .inf n => if n then ⊥ else ⊤
  | .real n y => (signedReal n y : ℝ)
def Val.isNan : Val → Prop
  | .nan _ => True
  | _ => False

/-- A value read under FZ: a subnormal is a zero of its sign; least: the exponent of the least normal (R179). -/
noncomputable def flushed (fz : Bool) (least : Int) : Val → Val
  | .real n y => open Classical in if fz = true ∧ y < 2 ^ least then .real n 0 else .real n y
  | v => v

/-- Comparisons of decoded numbers are those of the values they stand for (R228, R229), and what an element of the four types
decodes to is its value, under FZ too. -/
def ExactOrder : Prop :=
  (∀ (a b : Machine.Num) (v w : Val), Exactly a v → Exactly b w →
    let both := ¬ v.isNan ∧ ¬ w.isNan
    (a.cmp b = some 0 ↔ both ∧ place v = place w) ∧ (a.lt b = true ↔ both ∧ place v < place w) ∧
    (a.le b = true ↔ both ∧ place v ≤ place w) ∧ (a.isNan = true ↔ v.isNan) ∧ (a.isSnan = true ↔ v = .nan true) ∧
    (a.isZero = true ↔ ∃ n, v = .real n 0) ∧ a.isNeg = v.neg) ∧
  ∀ f ∈ floatFields, f.1 ∈ [Ty.f64, .f32, .f16, .bf16] → ∀ fz bits, bits < 2 ^ (1 + f.2.1 + f.2.2.1) →
    Exactly (decodeFz fz f.1 bits) (flushed fz (1 - f.2.2.2) (valueOf f.1 f.2.1 f.2.2.1 f.2.2.2 bits))

/-- Class k of R230, of a type whose least normal is 2 to the power least. -/
def HasClass (least : Int) (v : Val) (k : Nat) : Prop :=
  match v with
  | .inf n => k = if n then 0 else 7
  | .nan s => k = if s then 8 else 9
  | .real n y => (2 ^ least ≤ y ∧ k = if n then 1 else 6) ∨ (0 < y ∧ y < 2 ^ least ∧ k = if n then 2 else 5) ∨
      (y = 0 ∧ k = if n then 3 else 4)

end Sys2Proof.Claims

/-- R222 to R226: the arithmetic float instructions with no stop enabled: each element is RoundTo of the exact result in
the instruction's mode, its flags are set, and under sr its lane steps. The exact results are those of R224 to R226. -/
def Obligations.VectorFloatElements : Prop :=
  ExactResults ∧ ∀ e ∈ floatElems, ∀ (o : Operands) (s u : State), NoStops s.cur →
    VecReady o (e.2.1.sh o) (e.2.1.more o) s u →
    ∃ t, exec (e.1 o) s = .next t ∧ LoopDone o (e.2.1.sh o) (fun i c =>
      let n := s.cur.names o
      let r := floatResult o e.2.2 n u.cur c i
      steppedLane (c.mode o) (laneOf o.ty.width i) ((c.raise r.2).setElem o.ty.width n.d i r.1)) u t

/-- R227 to R230: minimum, maximum, class and compare, with no stop enabled. A signalling NaN sets NV; for the orderings
any NaN does. Numbers compare as the values they stand for, and the class is that of the value of the element's bits. -/
def Sys2Proof.Claims.VectorFloatCompares : Prop :=
  ExactOrder ∧ ∀ (o : Operands) (s u : State), NoStops s.cur →
    let n := s.cur.names o
    let rd := fun (c : Strand) (x : Nat) => decodeFz c.fz o.ty x
    (∀ e ∈ [(Instr.vfmin, opVfmin, false), (Instr.vfmax, opVfmax, true)], VecReady o (e.2.1.sh o) (e.2.1.more o) s u →
      ∃ t, exec (e.1 o) s = .next t ∧ LoopDone o (e.2.1.sh o) (fun i c =>
        let a := rd c (elA o n c i)
        let b := rd c (elFB o n u.cur c i)
        (c.raise ⟨a.isSnan || b.isSnan, false, false, false, false⟩).setElem o.ty.width n.d i
          (roundTo o.ty rne false false 0 (chosen e.2.2 a b)).1) u t) ∧
    (∀ f ∈ floatFields, f.1 = o.ty → o.ty ∈ [Ty.f64, .f32, .f16, .bf16] → VecReady o (opVfclass.sh o) (opVfclass.more o) s u →
      ∃ (t : State) (cls : Nat → Nat), exec (.vfclass o) s = .next t ∧
        (∀ bits, bits < 2 ^ o.ty.bits → HasClass (1 - f.2.2.2) (valueOf o.ty f.2.1 f.2.2.1 f.2.2.2 bits) (cls bits)) ∧
        LoopDone o (opVfclass.sh o) (fun i c => c.setElem o.ty.width n.d i (2 ^ cls (elA o n c i))) u t) ∧
    (VecReady o (opVfcmp.sh o) (opVfcmp.more o) s u →
      ∃ t, exec (.vfcmp o) s = .next t ∧ LoopDone o (opVfcmp.sh o) (fun i c =>
        let a := rd c (elA o n c i)
        let b := rd c (elFB o n u.cur c i)
        let k := o.fnBits 0 3
        (c.raise ⟨a.isSnan || b.isSnan || ((k == 2 || k == 3 || k == 4 || k == 5) && (a.isNan || b.isNan)),
          false, false, false, false⟩).setP n.d i (floatHolds k a b)) u t)

/-- R231 to R233: VCVT with no stop enabled. A float becomes the integer it rounds to, clamped with NV and SATF; any number
becomes the float it rounds to; an integer becomes another by extension or truncation, or clamps under .sat where it
narrows. -/
def Sys2Proof.Claims.VectorConversion : Prop :=
  ∀ (o : Operands) (s u : State), NoStops s.cur → VecReady o (opVcvt.sh o) (opVcvt.more o) s u →
    ∃ t, exec (.vcvt o) s = .next t ∧ LoopDone o (opVcvt.sh o) (fun i c =>
      let n := s.cur.names o
      let lane := laneOf o.ty.width i
      let raw := if o.ty = .e2m1 then elA o n c i % 16 else elA o n c i
      let k := converted o.ty o.dty (c.mode o) (c.srNext lane) c.fz (o.fnBits 4 2) raw
      let d := ((c.raise k.2.1).setElem o.dty.width n.d i k.1).raiseInt false k.2.2.1
      if k.2.2.2 then steppedLane (c.mode o) lane d else d) u t

/-- R186, R223: an element whose flag has its stop enabled stops with the cause of the first such flag, in the order NV,
DZ, OF, UF, NX; at the leading element the instruction traps and no register changes, not even a flag. -/
def Obligations.FloatStopAtLeadingElement : Prop :=
  ∀ e ∈ floatElems, ∀ (o : Operands) (s u : State), VecReady o (e.2.1.sh o) (e.2.1.more o) s u →
    Written o s.cur s.cur.csr.vstart.toNat →
    let t0 := u.cur
    let f := (floatResult o e.2.2 (s.cur.names o) t0 t0 s.cur.csr.vstart.toNat).2
    let on := fun (k : Nat) => s.cur.csr.fcsr.getLsbD k
    ∀ c : Cause, (c = .fpInv ∧ f.nv = true ∧ on 16 = true) ∨
        (c = .fpDz ∧ (f.nv && on 16) = false ∧ f.dz = true ∧ on 17 = true) ∨
        (c = .fpOvf ∧ (f.nv && on 16) = false ∧ (f.dz && on 17) = false ∧ f.of = true ∧ on 18 = true) ∨
        (c = .fpUnf ∧ (f.nv && on 16) = false ∧ (f.dz && on 17) = false ∧ (f.of && on 18) = false ∧ f.uf = true ∧
          on 19 = true) ∨
        (c = .fpInx ∧ (f.nv && on 16) = false ∧ (f.dz && on 17) = false ∧ (f.of && on 18) = false ∧
          (f.uf && on 19) = false ∧ f.nx = true ∧ on 20 = true) →
      ∃ s' : State, exec (e.1 o) s = .next (s'.trap c 0 s.cur.pc false) ∧ s'.cur.regs = u.cur.regs ∧
        s'.cur.csr = s.cur.csr ∧ s'.cur.sup = s.cur.sup ∧ ∀ a, s'.dev.readByte a = u.dev.readByte a

namespace Sys2Proof.Claims

/-! ### Instructions that never stop (R216 to R221) -/

/-- An instruction of R216: it makes its writes, from the registers as they stood, the destination takes the sources'
sets, vstart is 0, and it retires. u: the state in which it is dispatched. end_: what it does besides. -/
def BulkDone (o : Operands) (sh : Shape) (writes end_ : Strand → Strand) (u t : State) : Prop :=
  let c := u.cur
  let n := c.names o
  t.cur = (end_ (((writes c).taintDst sh n (c.sourceSet o sh n)).setVstart 0)).retire o ∧
  t.others = u.others ∧ t.agenda = u.agenda ∧ t.dev = u.dev ∧ ∀ a, t.dev.readByte a = u.dev.readByte a

/-- The active elements: below vl, allowed by guard and mif, whatever vstart holds (R216). -/
def active (o : Operands) (c : Strand) : List Nat := (List.range c.vl).filter (c.allows o)

/-- Those whose bit of a predicate is 1. -/
def activeIn (o : Operands) (p : Nat) (c : Strand) : List Nat := (active o c).filter (c.p p)

/-- Elements of D take these values. -/
def withElems (o : Operands) (d : Nat) (l : List (Nat × Nat)) (c : Strand) : Strand :=
  l.foldl (fun c e => c.setElem o.ty.width d e.1 e.2) c

/-- Element j of a register, 0 from VLMAX on. -/
def orZero (o : Operands) (c : Strand) (r j : Nat) : Nat :=
  if j < vlmaxOf c.gvl o.ty.width then c.elem o.ty.width r j else 0

/-- The slide's k' (R219). -/
def slideK (o : Operands) (c : Strand) : Nat :=
  min c.vl (if o.fnBits 1 1 = 1 then (c.s (o.auxBits 0 5)).toNat else o.simm.toNat)

/-- Permutations and slides: which elements of D take which values. -/
def permElems : List ((Operands → Instr) × (Operands → Shape) × (Operands → Strand → Names → Bool) ×
    (Operands → Names → Strand → List (Nat × Nat))) :=
  let any := fun (_ : Operands) (_ : Strand) (_ : Names) => true
  let at_ := fun (o : Operands) (c : Strand) (r j : Nat) => c.elem o.ty.width r j
  [(.vperm, fun o => permShape o .v, any, fun o n c => (active o c).map fun i => (i, orZero o c n.a (at_ o c n.b i))),
   (.vtbl, fun o => permShape o .v, fun o c _ => decide (2 ^ o.imm.toNat ≤ c.vlmax c.ew),
     fun o n c => (active o c).map fun i => (i, at_ o c n.a (at_ o c n.b i % 2 ^ o.imm.toNat))),
   (.vexpand, fun o => permShape o .p, any, fun o n c =>
     (activeIn o n.b c).zipIdx.map fun e => (e.1, at_ o c n.a e.2)),
   (.vrev, fun o => permShape o .z, any, fun o n c => (active o c).map fun i => (i, at_ o c n.a (c.vl - 1 - i))),
   (.vzip, fun o => permShape o .v, any, fun o n c => (active o c).map fun i =>
     (i, orZero o c (if i % 2 = 0 then n.a else n.b) (o.imm.toNat * ((c.vl + 1) / 2) + i / 2))),
   (.vunzip, fun o => permShape o .v, any, fun o n c => (active o c).map fun i =>
     let k := 2 * i + o.imm.toNat
     (i, if k < c.vl then at_ o c n.a k else at_ o c n.b (k - c.vl))),
   (.vslideup, slideShape, any, fun o n c => (active o c).map fun i =>
     let k := slideK o c
     (i, if k ≤ i then at_ o c n.a (i - k) else at_ o c n.b (c.vl - k + i))),
   (.vslidedn, slideShape, any, fun o n c => (active o c).map fun i =>
     let k := slideK o c
     (i, if i + k < c.vl then at_ o c n.a (i + k) else at_ o c n.b (i + k - c.vl)))]

/-- VINSS and VIOTA. -/
def insElems : List ((Operands → Instr) × (Operands → Shape) × (Operands → Names → Strand → List (Nat × Nat))) :=
  let ins := fun (o : Operands) (n : Names) (c : Strand) (j : Nat) =>
    if j < vlmaxOf c.gvl o.ty.width then [(j, (c.s n.a).toNat)] else []
  [(.vinss, fun o => { cls := .arith, dTy := o.ty, a := .s, b := .s, usesMif := false },
     fun o n c => ins o n c (c.s o.b.toNat).toNat),
   (.vinssImm, fun o => { cls := .arith, dTy := o.ty, a := .s, b := .z, usesMif := false },
     fun o n c => ins o n c o.imm.toNat),
   (.viota, fun o => { cls := .arith, dTy := o.ty, a := .p }, fun o n c => (active o c).map fun i =>
     (i, ((activeIn o n.a c).filter (· < i)).length))]

/-- The shape of an instruction on predicates. -/
def predShape (d a b : RegK) (mif : Bool) : Shape :=
  { cls := .arith, ew := false, d := d, dTy := .i8, a := a, b := b, usesMif := mif }

/-- Logic on predicates, in both forms. -/
def predLogic : List ((Operands → Instr) × RegK × (Bool → Bool → Bool)) :=
  [(.pand, .p, (· && ·)), (.pandL64, .p, (· && ·)), (.por, .p, (· || ·)), (.porL64, .p, (· || ·)),
   (.pxor, .p, fun a b => a != b), (.pxorL64, .p, fun a b => a != b), (.pnot, .z, fun a _ => !a),
   (.pnotL64, .z, fun a _ => !a)]

/-- Bits of a predicate take these values. -/
def withBits (d : Nat) (l : List (Nat × Bool)) (c : Strand) : Strand := l.foldl (fun c e => c.setP d e.1 e.2) c

/-- Word w of a predicate lies inside it (R221). -/
def wordOk (o : Operands) (c : Strand) (_ : Names) : Bool := decide (o.imm.toNat < c.gvl / 16)

end Sys2Proof.Claims

/-- R217, R219, R220: permutations, slides, VINSS and VIOTA: each destination element as stated, from the registers as
they stood. -/
def Obligations.Permutations : Prop :=
  (∀ e ∈ permElems, ∀ (o : Operands) (s u : State), VecReady o (e.2.1 o) (e.2.2.1 o) s u →
    ∃ t, exec (e.1 o) s = .next t ∧ BulkDone o (e.2.1 o) (fun c =>
      withElems o (s.cur.names o).d (e.2.2.2 o (s.cur.names o) c) c) id u t) ∧
  ∀ e ∈ insElems, ∀ (o : Operands) (s u : State), VecReady o (e.2.1 o) (fun _ _ => true) s u →
    ∃ t, exec (e.1 o) s = .next t ∧ BulkDone o (e.2.1 o) (fun c =>
      withElems o (s.cur.names o).d (e.2.2 o (s.cur.names o) c) c) id u t

/-- R218: VCOMPRESS packs the active elements whose bit of pB is 1 to the front of vd; vl and al become their number, a
convoy opens, and trim stays. -/
def Sys2Proof.Claims.CompressPacks : Prop :=
  ∀ (o : Operands) (s u : State), VecReady o (permShape o .p) (fun _ _ => true) s u →
    let n := s.cur.names o
    let taken := activeIn o n.b s.cur
    ∃ t, exec (.vcompress o) s = .next t ∧ t.cur.csr.trim = s.cur.csr.trim ∧ BulkDone o (permShape o .p)
      (fun c => withElems o n.d (taken.zipIdx.map fun e => (e.2, c.elem o.ty.width n.a e.1)) c)
      (fun c => (((c.setVl taken.length).setAl taken.length).addTaint .vl
        (s.cur.sourceSet o (permShape o .p) n)).closeConvoy) u t

/-- R220: VEXTS gives element j of va, extended by the type, and 0 from VLMAX on; it ignores vl, mif and any guard. -/
def Sys2Proof.Claims.ElementExtract : Prop :=
  ∀ (o : Operands) (s u : State), ∀ e ∈ [(Instr.vexts o, RegK.s, (s.cur.s o.b.toNat).toNat),
      (.vextsImm o, .z, o.imm.toNat)],
    let sh : Shape := { cls := .arith, d := .s, dTy := .i8, a := .v, b := e.2.1, usesMif := false }
    VecReady o sh (fun _ _ => true) s u →
    ∃ t, exec e.1 s = .next t ∧ BulkDone o sh (fun c => c.setS (s.cur.names o).d
      (extend o.ty (orZero o c (s.cur.names o).a e.2.2))) id u t

/-- R221: the predicate instructions. Other bits than the stated ones are undisturbed. -/
def Sys2Proof.Claims.PredicateInstructions : Prop :=
  ∀ (o : Operands) (s u : State),
    let n := s.cur.names o
    (∀ e ∈ predLogic, VecReady o (predShape .p .p e.2.1 true) (fun _ _ => true) s u →
      ∃ t, exec (e.1 o) s = .next t ∧ BulkDone o (predShape .p .p e.2.1 true) (fun c =>
        withBits n.d ((active o c).map fun i => (i, e.2.2 (c.p n.a i) (c.p n.b i))) c) id u t) ∧
    (∀ i ∈ [Instr.pset o, .psetL64 o], VecReady o (predShape .p .z .z false) (fun _ _ => true) s u →
      ∃ t, exec i s = .next t ∧ BulkDone o (predShape .p .z .z false) (fun c =>
        c.setPAll n.d (BitVec.ofNat 16384 (2 ^ min c.vl (4 * c.gvl) - 1))) id u t) ∧
    (∀ i ∈ [Instr.pfirst o, .pfirstL64 o], VecReady o (predShape .p .p .z true) (fun _ _ => true) s u →
      ∃ t, exec i s = .next t ∧ BulkDone o (predShape .p .p .z true) (fun c =>
        withBits n.d ((active o c).map fun i => (i, decide ((activeIn o n.a c).head? = some i))) c) id u t) ∧
    (∀ i ∈ [Instr.pcount o, .pcountL64 o], VecReady o (predShape .s .p .z true) (fun _ _ => true) s u →
      ∃ t, exec i s = .next t ∧ BulkDone o (predShape .s .p .z true) (fun c =>
        c.setS n.d (BitVec.ofNat 64 (activeIn o n.a c).length)) id u t) ∧
    (VecReady o (predShape .s .p .z false) (wordOk o) s u →
      ∃ t, exec (.pmovsToScalar o) s = .next t ∧ BulkDone o (predShape .s .p .z false) (fun c =>
        c.setS n.d (BitVec.ofFnLE fun k : Fin 64 => c.p n.a (64 * o.imm.toNat + k.val))) id u t) ∧
    (VecReady o (predShape .p .s .z false) (wordOk o) s u →
      ∃ t, exec (.pmovsToPredicate o) s = .next t ∧ BulkDone o (predShape .p .s .z false) (fun c =>
        withBits n.d ((List.range 64).map fun k => (64 * o.imm.toNat + k, (c.s n.a).getLsbD k)) c) id u t)

namespace Sys2Proof.Claims

/-! ### Quantisation by blocks (R234 to R238) -/

/-- Elements of a block of a format: 32, or 8 of SF4. -/
def perBlock (f : Ty) : Nat := if f = .sf4 then 8 else 32

/-- The active elements of block b, from vs on. -/
def inBlock (o : Operands) (bs vs b : Nat) (c : Strand) : List Nat :=
  (List.range c.vl).filter fun i => i / bs == b && decide (vs ≤ i) && c.allows o i

/-- An instruction by blocks that meets no stop: in every block with an active element the elements have their effect in
ascending order, then the block has its end. -/
def BlocksDone (o : Operands) (sh : Shape) (bs : Nat) (element finish : Nat → Strand → Strand) (u t : State) : Prop :=
  let c := u.cur
  let n := c.names o
  let vs := c.csr.vstart.toNat
  let blocks := (List.range ((c.vl + bs - 1) / bs)).filter fun b => decide (vs / bs ≤ b)
  let d := blocks.foldl (fun c b =>
    if (inBlock o bs vs b c).isEmpty then c else finish b ((inBlock o bs vs b c).foldl (fun c i => element i c) c)) c
  t.cur = (((d.setAl c.vl).setVstart 0).taintDst sh n (c.sourceSet o sh n)).retire o ∧
  t.others = u.others ∧ t.agenda = u.agenda ∧ t.dev = u.dev ∧ ∀ a, t.dev.readByte a = u.dev.readByte a

/-- The band scale of SF4: the BF16 in the low half of sC (R234). -/
def band (o : Operands) (c : Strand) : Machine.Num := decodeFloat .bf16 ((c.s (o.auxBits 0 5)).toNat % 65536)

/-- Write a four-bit code at place k of the bytes from at_ on. -/
def withNibble (r at_ k x : Nat) (c : Strand) : Strand :=
  let old := c.elem 0 r (at_ + k / 2)
  c.setElem 0 r (at_ + k / 2) (if k % 2 = 0 then 16 * (old / 16) + x else 16 * x + old % 16)

/-- The value of a band scale that is neither zero, infinite nor a NaN. -/
def usable (b : Machine.Num) : Prop := ∃ n m e, b = .fin n m e false ∧ m ≠ 0

/-- The value of an E3M5 scale byte (R188). -/
def sorusScale (s : Nat) : ℚ := if s < 32 then s / 128 else 2 ^ ((s / 32 : Nat) - 3 : Int) * (1 + (s % 32 : Nat) / 32)

/-- ε of the finite elements that are not zero (R193). -/
def exponents (xs : List Machine.Num) : List Int :=
  (xs.filter fun x => x.isNan == false && decide (ratOf x ≠ 0)).map fun x => Int.log 2 |ratOf x|

/-- ClipExp gives e (R193): the smallest exponent below or at which enough of them lie. -/
def ClipsAt (es : List Int) (qpct : Nat) (e : Int) : Prop :=
  let enough := fun (k : Int) => qpct * es.length ≤ 65536 * (es.filter fun x => decide (x ≤ k)).length
  e ∈ es ∧ enough e ∧ ∀ k ∈ es, enough k → e ≤ k

/-- The scale byte of a block of an MX format with emax (R190). -/
def MxByte (emax : Int) (xs : List Machine.Num) (qpct byte : Nat) : Prop :=
  (exponents xs = [] → byte = 127) ∧
  ∀ e, ClipsAt (exponents xs) qpct e → (byte : Int) = min (max (e - emax) (-127)) 127 + 127

/-- The scale byte of a sorus under a band scale (R194): the least E3M5 scale from a / 6 |B| on, or the greatest. -/
def SorusByte (xs : List Machine.Num) (qpct : Nat) (b : Machine.Num) (byte : Nat) : Prop :=
  (exponents xs = [] ∨ ¬ usable b → byte = 0) ∧
  ∀ e, usable b → ClipsAt (exponents xs) qpct e → ∃ x ∈ xs, ratOf x ≠ 0 ∧ Int.log 2 |ratOf x| ≤ e ∧
    (∀ y ∈ xs, ratOf y ≠ 0 → Int.log 2 |ratOf y| ≤ e → |ratOf y| ≤ |ratOf x|) ∧
    let q := |ratOf x| / (6 * |ratOf b|)
    byte < 256 ∧ (q ≤ sorusScale byte ∨ byte = 255) ∧ ∀ k < byte, sorusScale k < q

/-- The code that an element takes, its flags and whether it rounds (R237): the value over the block's scale, rounded once
into the format; NaN codes under the scale byte 255, and zeros under a scale of 0. -/
def Codes (o : Operands) (n : Names) (c : Strand) (i : Nat) (code : Nat) (fl : Flags) (rounds : Bool) : Prop :=
  let f := o.dty
  let x := decodeFz c.fz o.ty (elA o n c i)
  let sc := c.elem 0 n.b (i / perBlock f)
  let b := band o c
  let r := c.srNext (laneOf o.ty.width i)
  let scaled := fun (neg : Bool) (scale : ℚ) => match x with
    | .nan s => Val.nan s
    | .inf n => .inf (n != neg)
    | .fin n m e _ => .real (n != neg) ((m : ℝ) * 2 ^ e / scale)
  ∃ k ∈ floatFields, k.1 = (if f = .sf4 then .e2m1 else f) ∧
    if f = .sf4 then
      (sc = 0 ∨ ¬ usable b → code = 0 ∧ fl = ⟨false, false, false, false, false⟩ ∧ rounds = false) ∧
      (sc ≠ 0 → usable b → rounds = true ∧ code < 16 ∧ RoundsTo k (c.mode o) false true r
        (scaled (decide (ratOf b < 0)) (sorusScale sc * |ratOf b|)) (valueOf k.1 k.2.1 k.2.2.1 k.2.2.2 code) fl)
    else
      (sc = 255 → code = canonical f ∧ fl = ⟨true, false, false, false, false⟩ ∧ rounds = false) ∧
      (sc ≠ 255 → rounds = true ∧ code < 2 ^ (1 + k.2.1 + k.2.2.1) ∧ RoundsTo k (c.mode o) false (o.im 0 1 = 0) r
        (scaled false (2 ^ ((sc : Int) - 127))) (valueOf k.1 k.2.1 k.2.2.1 k.2.2.2 code) fl)

/-- VQNT of one element: its code, its flags, and the lane's step where it rounded. Q: what Codes gives. -/
def quantised (o : Operands) (n : Names) (Q : Strand → Nat → Nat × Flags × Bool) (i : Nat) (c : Strand) : Strand :=
  let q := Q c i
  let d := c.raise q.2.1
  let d := if o.dty = .sf4 then withNibble n.d (5 * (i / 8)) (i % 8) q.1 d else d.setElem 0 n.d i q.1
  if q.2.2 then steppedLane (c.mode o) (laneOf o.ty.width i) d else d

/-- The end of a sorus: a last odd nibble is 0, and the scale byte follows the codes (R237). -/
def sorusEnd (o : Operands) (n : Names) (b : Nat) (c : Strand) : Strand :=
  if o.dty = .sf4 then
    let j := min (8 * (b + 1)) c.vl - 8 * b
    let d := if j % 2 = 1 then withNibble n.d (5 * b) j 0 c else c
    d.setElem 0 n.d (5 * b + (j + 1) / 2) (d.elem 0 n.b b)
  else c

/-- VDQNT of one element: the value its code and scale stand for, with NV of its own (R238). -/
def dequantValue (o : Operands) (n : Names) (i : Nat) (c : Strand) : Machine.Num × Bool :=
  if o.ty = .sf4 then
    let j := min (8 * (i / 8 + 1)) c.vl - 8 * (i / 8)
    let code := c.elem 0 n.a (5 * (i / 8) + i % 8 / 2) / 2 ^ (4 * (i % 2)) % 16
    ((decodeFloat .e2m1 code).mul (e3m5 (c.elem 0 n.a (5 * (i / 8) + (j + 1) / 2)))).1.mul (band o c)
  else
    let x := decodeFloat o.ty (if o.ty = .e2m1 then elA o n c i % 16 else elA o n c i)
    match e8m0 (c.elem 0 n.b (i / 32)) with
    | none => (.nan false, false)
    | some k => (if x.isNan then .nan false else x.scale k, false)

/-! ### Reductions and scans (R239 to R242) -/

/-- The outcome of a reduction or scan that meets no stop, from the accumulator and the strand after its elements. -/
def FoldDone {α : Type} (o : Operands) (sh : Shape) (init : Strand → α) (step : Nat → α → Strand → α × Strand)
    (put : α → Strand → Strand) (u t : State) : Prop :=
  let c := u.cur
  let n := c.names o
  let r := ((List.range c.vl).filter fun i => decide (c.csr.vstart.toNat ≤ i)).foldl
    (fun (r : α × Strand) i => if r.2.allows o i then step i r.1 r.2 else r) (init c, c)
  t.cur = ((put r.1 ((r.2.setAl c.vl).setVstart 0)).taintDst sh n (c.sourceSet o sh n)).retire o ∧
  t.others = u.others ∧ t.agenda = u.agenda ∧ t.dev = u.dev ∧ ∀ a, t.dev.readByte a = u.dev.readByte a

/-- The integer operations on 64-bit values (R240). -/
def redTable : List ((Operands → Instr) × (Ty → Word → Word → Word)) :=
  let less := fun (ty : Ty) (a b : Word) => if ty.signed then decide (a.toInt < b.toInt) else decide (a.toNat < b.toNat)
  [(.vredsum, fun _ a b => a + b), (.vredmin, fun ty a b => if less ty a b then a else b),
   (.vredmax, fun ty a b => if less ty a b then b else a), (.vredand, fun _ a b => a &&& b),
   (.vredor, fun _ a b => a ||| b), (.vredxor, fun _ a b => a ^^^ b)]

/-- The operation of VSCAN by FN[2:0]. -/
def scanOp (k : Nat) : Ty → Word → Word → Word :=
  match redTable[k]? with
  | some e => e.2
  | none => fun _ a b => a ^^^ b

/-- One rounded addition: the sum's bits, and the strand with its flags and the lane stepped. -/
def addRounded (o : Operands) (lane a b : Nat) (c : Strand) : Nat × Strand :=
  let v := (decodeFz c.fz o.ty a).add (c.mode o) (decodeFz c.fz o.ty b)
  let r := roundTo o.ty (c.mode o) c.fz false (c.srNext lane) v.1
  (r.1, steppedLane (c.mode o) lane (c.raise { r.2 with nv := r.2.nv || v.2 }))

/-- Every element into its lane's partial, in ascending order (R199). -/
def intoLanes (o : Operands) (es : List (Nat × Nat)) (ps : List Nat) (c : Strand) : List Nat × Strand :=
  es.foldl (fun r e =>
    let l := laneOf o.ty.width e.1
    let x := addRounded o l (r.1.getD l 0) e.2 r.2
    (r.1.set l x.1, x.2)) (ps, c)

/-- One level of the tree: nodes 2j and 2j + 1 into node j, which steps lane j × step. -/
def treeUp (o : Operands) (step : Nat) : Nat → List Nat → Strand → List Nat × Strand
  | j, a :: b :: rest, c =>
    let x := addRounded o (j * step) a b c
    let r := treeUp o step (j + 1) rest x.2
    (x.1 :: r.1, r.2)
  | _, l, c => (l, c)

/-- The six levels over 64 partials. -/
def treeSum (o : Operands) (ps : List Nat) (c : Strand) : Nat × Strand :=
  let r := [2, 4, 8, 16, 32, 64].foldl (fun (r : List Nat × Strand) step => treeUp o step 0 r.1 r.2) (ps, c)
  (r.1.headD 0, r.2)

/-- The carry of a float reduction: the low W bits of sB. -/
def carryIn (o : Operands) (n : Names) (c : Strand) : Nat := (c.s n.b).toNat % 2 ^ o.ty.bits

end Sys2Proof.Claims

/-- R235, R190, R193, R194: QSCALE writes the scale byte of every block that has an active element, from the block's active
elements. -/
def Sys2Proof.Claims.QuantScales : Prop :=
  ∀ (o : Operands) (s u : State), s.cur.csr.qpct.toNat ≤ 65536 → VecReady o (qscaleShape o) (fun _ n => n.d != n.a) s u →
    o.dty ∈ [Ty.sf4, .e4m3, .e5m2, .e2m1] →
    let n := s.cur.names o
    let bs := perBlock o.dty
    let c := u.cur
    let xs := fun (b : Nat) => (inBlock o bs 0 b c).map fun i => decodeFz c.fz o.ty (elA o n c i)
    ∃ (t : State) (byte : Nat → Nat), exec (.qscale o) s = .next t ∧
      (∀ b, if o.dty = .sf4 then SorusByte (xs b) c.csr.qpct.toNat (band o c) (byte b)
        else MxByte (if o.dty = .e4m3 then 8 else if o.dty = .e5m2 then 15 else 2) (xs b) c.csr.qpct.toNat (byte b)) ∧
      BulkDone o (qscaleShape o) (fun c =>
        ((List.range ((c.vl + bs - 1) / bs)).filter fun b => !(inBlock o bs 0 b c).isEmpty).foldl
          (fun d b => d.setElem 0 n.d b (byte b)) c) id u t

/-- R236 to R238: VQNT and VDQNT with no stop enabled, from a vstart at a block's start. -/
def Sys2Proof.Claims.QuantiseAndDequantise : Prop :=
  ∀ (o : Operands) (s u : State), NoStops s.cur →
    let n := s.cur.names o
    (VecReady o (vqntShape o)
        (fun t n => (n.d != n.a && n.d != n.b) && t.csr.vstart.toNat % perBlock o.dty == 0) s u →
      o.dty ∈ [Ty.sf4, .e4m3, .e5m2, .e2m1] → s.cur.mode o ≤ 5 →
      ∃ (t : State) (Q : Strand → Nat → Nat × Flags × Bool), exec (.vqnt o) s = .next t ∧
        (∀ c i, c.mode o ≤ 5 → Codes o n c i (Q c i).1 (Q c i).2.1 (Q c i).2.2) ∧
        BlocksDone o (vqntShape o) (perBlock o.dty) (quantised o n Q) (sorusEnd o n) u t) ∧
    (VecReady o (vdqntShape o) (fun t n => (n.d != n.a && (o.ty == .sf4 || n.d != n.b) &&
        decide (t.vl ≤ t.vlmax o.dty.width)) && t.csr.vstart.toNat % perBlock o.ty == 0) s u →
      ∃ t, exec (.vdqnt o) s = .next t ∧ BlocksDone o (vdqntShape o) (perBlock o.ty) (fun i c =>
        let lane := laneOf o.ty.width i
        let v := dequantValue o n i c
        let r := roundTo o.dty (c.mode o) c.fz false (c.srNext lane) v.1
        steppedLane (c.mode o) lane
          ((c.raise { r.2 with nv := r.2.nv || v.2 }).setElem o.dty.width n.d i r.1)) (fun _ c => c) u t)

/-- R240: the integer reductions fold the active elements, extended to 64 bits, into the carry of sB, and VSCAN also writes
every running result and gives the last one to sB. -/
def Sys2Proof.Claims.IntegerReductions : Prop :=
  ∀ (o : Operands) (s u : State),
    let n := s.cur.names o
    (∀ e ∈ redTable, VecReady o (redShape false) (fun _ _ => true) s u →
      ∃ t, exec (e.1 o) s = .next t ∧ FoldDone o (redShape false) (fun c => c.s n.b)
        (fun i acc c => (e.2 o.ty acc (extend o.ty (elA o n c i)), c)) (fun acc c => c.setS n.d acc) u t) ∧
    (VecReady o (scanShape o false) (fun _ _ => true) s u →
      ∃ t, exec (.vscan o) s = .next t ∧ FoldDone o (scanShape o false) (fun c => c.s n.b)
        (fun i acc c =>
          let r := scanOp (o.fnBits 0 3) o.ty acc (extend o.ty (elA o n c i))
          (r, c.setElem o.ty.width n.d i r.toNat))
        (fun acc c => (c.setS n.b acc).setTaint (.s n.b)
          (u.cur.sourceSet o (scanShape o false) n)) u t)

/-- R241, R242, R198, R199, with no stop enabled: VFREDOSUM adds in element order, VFSCAN also writes each sum, VFREDMIN and
VFREDMAX choose step by step, and VFREDSUM adds every element into its lane's partial, then the partials in a tree, then
the carry. -/
def Sys2Proof.Claims.FloatReductions : Prop :=
  ∀ (o : Operands) (s u : State), NoStops s.cur →
    let n := s.cur.names o
    (VecReady o (redShape true) (fun _ _ => true) s u →
      (∃ t, exec (.vfredosum o) s = .next t ∧ FoldDone o (redShape true) (carryIn o n)
        (fun i acc c => addRounded o (laneOf o.ty.width i) acc (elA o n c i) c)
        (fun acc c => c.setS n.d (BitVec.ofNat 64 acc)) u t) ∧
      ∃ t, exec (.vfredsum o) s = .next t ∧ FoldDone o (redShape true) (fun _ => ([] : List (Nat × Nat)))
        (fun i acc c => (acc ++ [(i, elA o n c i)], c))
        (fun acc c =>
          let l := intoLanes o acc (List.replicate 64 (signBit o.ty true)) c
          let r := treeSum o l.1 l.2
          let x := addRounded o 0 (carryIn o n s.cur) r.1 r.2
          x.2.setS n.d (BitVec.ofNat 64 x.1)) u t) ∧
    (VecReady o (redShape false) (fun _ _ => true) s u → ∀ e ∈ [(Instr.vfredmin, false), (Instr.vfredmax, true)],
      ∃ t, exec (e.1 o) s = .next t ∧ FoldDone o (redShape false) (carryIn o n)
        (fun i acc c =>
          let a := decodeFz c.fz o.ty acc
          let b := decodeFz c.fz o.ty (elA o n c i)
          ((roundTo o.ty rne false false 0 (chosen e.2 a b)).1,
            c.raise ⟨a.isSnan || b.isSnan, false, false, false, false⟩))
        (fun acc c => c.setS n.d (BitVec.ofNat 64 acc)) u t) ∧
    (VecReady o (scanShape o true) (fun _ _ => true) s u →
      ∃ t, exec (.vfscan o) s = .next t ∧ FoldDone o (scanShape o true) (carryIn o n)
        (fun i acc c =>
          let r := addRounded o (laneOf o.ty.width i) acc (elA o n c i) c
          (r.1, r.2.setElem o.ty.width n.d i r.1))
        (fun acc c => (c.setS n.b (BitVec.ofNat 64 acc)).setTaint (.s n.b)
          (u.cur.sourceSet o (scanShape o true) n)) u t)

namespace Sys2Proof.Claims

/-! ### Vector memory instructions (R108 to R123) -/

/-- What every vector instruction leaves alone: other strands, the agenda, all of the device but the
numbers of .u stores, all of the strand but the listed parts. u: the state in which it is
dispatched. -/
def VecKeeps (u t : State) : Prop :=
  t.others = u.others ∧ t.agenda = u.agenda ∧
  t.dev = { u.dev with nextUGroup := t.dev.nextUGroup } ∧
  (∀ a, t.dev.readByte a = u.dev.readByte a) ∧ t.cur.sup = u.cur.sup ∧ t.cur.ev = u.cur.ev ∧ t.cur.wins = u.cur.wins ∧
  t.cur.farm = u.cur.farm ∧ t.cur.status = u.cur.status ∧
  t.cur.regs = { u.cur.regs with v := t.cur.regs.v } ∧
  t.cur.csr = { u.cur.csr with al := t.cur.csr.al, vstart := t.cur.csr.vstart, dmap := t.cur.csr.dmap, li := t.cur.csr.li,
                               ar := t.cur.csr.ar, ac := t.cur.csr.ac, eprog := t.cur.csr.eprog, vl := t.cur.csr.vl, cbytes := t.cur.csr.cbytes,
                               spr := t.cur.csr.spr }

/-- Registers of the current strand that are in the file, which holds all that are in it (R157, R158): naming them moves
nothing. -/
def Resides (l : List Nat) (s : State) : Prop :=
  (∀ r ∈ l, ∃ x ∈ s.dev.resid, x.uid = s.cur.uid ∧ x.reg = r) ∧
  let here := s.dev.resid.filter fun x => match s.find x.uid with
    | some c => c.core == s.cur.core
    | none => s.cur.core == 0
  (here.map fun x => match s.find x.uid with
    | some c => 4 * c.gvl
    | none => 0).sum ≤ 524288

/-- A strand of a virtual function whose store waits performs it before its next access is translated (R95), so what its
later accesses reach may change: of such a strand an instruction of several stores is stated where it performs one. -/
def OneStore (s : State) (is : List Nat) : Prop := s.cur.vf = 0 ∨ is.length ≤ 1

/-- The registers but those listed hold what they held. -/
def VectorsBut (l : List Nat) (c d : Strand) : Prop := ∀ r, r ∉ l → ∀ b < 16384, d.vBytes r b 1 = c.vBytes r b 1

/-- The address that a unit-stride access of n bytes reaches: through its gather window where it lies in one (R119). -/
def throughWindow (c : Strand) (va : Word) (n : Nat) : Option Word :=
  if 0x7F0000000000 ≤ va.toNat ∧ va.toNat < 0x7F1000000000 then
    (c.wins.find? fun w => w.w == (va.toNat - 0x7F0000000000) / 2 ^ 32).bind fun w =>
      if va.toNat % 2 ^ 32 % w.esz = 0 ∧ w.esz = n then
        (w.idx[va.toNat % 2 ^ 32 / w.esz]?).map fun k => w.base + BitVec.ofNat 64 (k * w.esz)
      else none
  else some va

/-- The address of an element, or none where its window gives none: unit stride, strided, indexed (R108, R109). -/
abbrev ElemAddr := Operands → Names → Strand → Nat → Option Word

def unitTarget : ElemAddr := fun o n c i =>
  if o.ty = .e2m1 then some (c.s n.a + BitVec.ofNat 64 (i / 2))
  else throughWindow c (c.s n.a + BitVec.ofNat 64 (i * o.ty.bytes)) o.ty.bytes
def stridedTarget : ElemAddr := fun _ n c i => some (c.s n.a + BitVec.ofNat 64 i * c.s n.b)
def indexedTarget : ElemAddr := fun o n c i => some (c.s n.a + BitVec.ofNat 64 (c.elem o.ty.width n.b i))
def tileTarget : ElemAddr := fun o n c e =>
  some (c.s n.a + BitVec.ofNat 64 (e / c.vl) * c.csr.pitch + BitVec.ofNat 64 (e % c.vl * o.ty.bytes))

def vecLoads : List ((Operands → Instr) × RegK × ElemAddr) :=
  [(.vld, .z, unitTarget), (.vlds, .s, stridedTarget), (.vldx, .v, indexedTarget)]
def vecStores : List ((Operands → Instr) × RegK × ElemAddr) :=
  [(.vst, .z, unitTarget), (.vsts, .s, stridedTarget), (.vstx, .v, indexedTarget)]

/-- Elements of a tile: e names row e / vl and column e mod vl; guard and mif test the column (R112). -/
def TileWritten (o : Operands) (c : Strand) (e : Nat) : Prop :=
  c.csr.vstart.toNat ≤ e ∧ e < c.csr.rows.toNat * c.vl ∧ c.allows o (e % c.vl) = true

/-- The bits an element takes from the bytes at its address: half of a byte for E2M1 (R110). -/
def loadedBits (o : Operands) (i x : Nat) : Nat := if o.ty = .e2m1 then x / 2 ^ (4 * (i % 2)) % 16 else x

/-- What a strand sees once element i of a register is stored at an address, from what it saw: whole bytes, or half of
one. -/
def storedByte (o : Operands) (data i pa : Nat) (v : Nat → Byte) (a : Nat) : Byte :=
  if o.ty = .e2m1 then
    if a = pa then
      let old := (v pa).toNat
      BitVec.ofNat 8 (if i % 2 = 0 then 16 * (old / 16) + data % 16 else 16 * (data % 16) + old % 16)
    else v a
  else if pa ≤ a ∧ a < pa + o.ty.bytes then BitVec.ofNat 8 (data / 256 ^ (a - pa)) else v a

/-- What a strand sees after the stores of these elements, in ascending order. -/
def storedView (o : Operands) (data : Nat → Nat) (pa : Nat → Nat) (is : List Nat) (v : Nat → Byte) : Nat → Byte :=
  is.foldl (fun v i => storedByte o (data i) i (pa i) v) v

/-- The elements that an element-loop or a tile instruction performs, ascending. -/
def performed (o : Operands) (c : Strand) : List Nat :=
  (List.range c.vl).filter fun i => decide (c.csr.vstart.toNat ≤ i) && c.allows o i
def performedTile (o : Operands) (c : Strand) : List Nat :=
  (List.range (c.csr.rows.toNat * c.vl)).filter fun e => decide (c.csr.vstart.toNat ≤ e) && c.allows o (e % c.vl)

/-- Byte k of the raw bytes that a block of ZBP stands for (R195), from its bytes after the header. -/
def rawByte (h : Nat) (body : List Nat) (j : Nat) : Nat :=
  if h = 128 then body.getD j 0
  else
    let bit := fun (k : Nat) => (body.getD (k / 8) 0).testBit (k % 8)
    if bit j then body.getD (8 + ((List.range j).filter bit).length) 0 else 0

/-- A block that R114 does not call malformed. -/
def blockSound (h : Nat) (body : List Nat) : Bool :=
  h == 128 || (decide (h < 56) && ((List.range 64).filter fun k => (body.getD (k / 8) 0).testBit (k % 8)).length == h)

/-- VLDC over a stream of bytes: the elements and the bytes taken; none where a block is malformed. -/
def zbpRun (vmax : Nat) : Nat → List Nat → List Nat × Nat → Option (List Nat × Nat)
  | 0, _, r => some r
  | k + 1, bytes, (es, pos) =>
    match bytes.drop pos with
    | [] => some (es, pos)
    | h :: body =>
      if vmax < es.length + 64 then some (es, pos)
      else
        let size := if 128 ≤ h then 65 else 9 + h
        if bytes.length < pos + size then some (es, pos)
        else if blockSound h body then
          zbpRun vmax k bytes (es ++ (List.range 64).map (rawByte h body), pos + size)
        else none

/-- The access of an element stops: at an address that is no multiple of its size, or where its translation stops (R97). -/
def ElementStops (o : Operands) (d : Device) (v : Nat → Byte) (c : Ctx) (acc : Acc) (va : Word) (why : Cause) : Prop :=
  (va.toNat % o.ty.bytes ≠ 0 ∧ why = .align) ∨ (va.toNat % o.ty.bytes = 0 ∧ NotTranslated d v c acc va why)

/-- A stop at element k, above the leading one, has shortened an instruction (R172, R173): vl and al are k, trim names
cause and element, and it has retired. -/
def Shortened (o : Operands) (u : State) (why : Cause) (k : Nat) (t : State) : Prop :=
  t.cur.vl = k ∧ t.cur.csr.al.toNat = k ∧ t.cur.csr.vstart = 0 ∧
  t.cur.csr.trim = BitVec.ofNat 64 (causeCode why + 65536 * k) ∧ t.others = u.others ∧ t.cur.sup = u.cur.sup ∧
  (NotAtBodyEnd o u.cur → t.cur.pc = after o u.cur)

/-- The registers of a spill, first of each pair for 64-bit types (R121). -/
def spillList (o : Operands) (n : Names) : List Nat :=
  if o.ty.width = 3 then (List.range ((o.im 0 6 + 1) / 2)).map fun q => n.d + 2 * q
  else (List.range (o.im 0 6 + 1)).map fun q => n.d + q

/-- The transfers of a spill or fill in order: the register's place in the range, the register, the element. With
spr.VALID it goes on where it stood; with the dirty-map option a register that was not written is skipped. -/
def spillMoves (o : Operands) (n : Names) (c : Strand) : List (Nat × Nat × Nat) :=
  let valid := c.csr.spr.getLsbD 63
  let r0 := if valid then c.csr.spr.toNat / 2 ^ 32 % 64 else n.d
  let e0 := if valid then c.csr.spr.toNat % 2 ^ 32 else 0
  let dirty := fun (r : Nat) => c.csr.dmap.getLsbD r || (decide (o.ty.width = 3) && c.csr.dmap.getLsbD (r + 1))
  (spillList o n).zipIdx.flatMap fun e =>
    if e.1 < r0 ∨ (o.im 6 1 = 1 ∧ dirty e.1 = false) then []
    else ((List.range c.vl).filter fun i => decide (e.1 ≠ r0) || decide (e0 ≤ i)).map fun i => (e.2, e.1, i)

/-- The address of a transfer (R122). -/
def spillTarget (o : Operands) (n : Names) (c : Strand) (q i : Nat) : Word :=
  c.s n.a + BitVec.ofNat 64 ((q * c.vl + i) * o.ty.bytes)

/-- A vector atomic of one element on a device: the old value and what memory becomes (R120). -/
def atomicStep (o : Operands) (pa x cmp : Nat) (d : Device) : Nat × Device :=
  let old := d.readLE pa o.ty.bytes
  (old, match amoValue (o.fnBits 0 4) o.ty old (BitVec.ofNat 64 x) (BitVec.ofNat 64 cmp) with
    | some v => d.writeLE pa o.ty.bytes v
    | none => d)

/-- Fields of a stream record of 64 bytes (R116). -/
def recordField (bs : List Byte) (at_ n : Nat) : Nat := natLE ((bs.drop at_).take n)

/-- The binding of a register to the record at an address. -/
def boundTo (r : Nat) (a : Word) (bs : List Byte) : Binding :=
  { reg := r, addr := a, base := BitVec.ofNat 64 (recordField bs 0x00 8), scale := BitVec.ofNat 64 (recordField bs 0x08 8),
    band := BitVec.ofNat 64 (recordField bs 0x10 8), total := BitVec.ofNat 64 (recordField bs 0x18 8),
    pos := BitVec.ofNat 64 (recordField bs 0x20 8), rowlen := BitVec.ofNat 32 (recordField bs 0x28 4),
    pitch := BitVec.ofNat 32 (recordField bs 0x2C 4), fmt := BitVec.ofNat 8 (recordField bs 0x30 1), reads := none }

/-- The type code of a stream's format, whether it is an MX format, and the pairings with a TYPE that deliver (R116, R117). -/
def formatTy (b : Binding) : Ty := Ty.ofCode (BitVec.ofNat 4 (b.fmt.toNat % 16))
def formatMx (b : Binding) : Bool := decide (b.fmt.toNat / 16 % 2 = 1)
def Pairs (b : Binding) (t : Ty) : Prop :=
  (formatMx b = false ∧ formatTy b = t) ∨
  ((formatMx b = true ∨ formatTy b ∈ [Ty.f64, .f32, .f16, .bf16, .e4m3, .e5m2, .e2m1, .sf4]) ∧ t ∈ [Ty.f64, .f32, .f16, .bf16])

/-- The strand delivers x as element i of a register bound so, for a TYPE: stream element POS + i, which the stream has and
whose parts can be read; raw where the format is TYPE, else times its scales, rounded once to TYPE with rne (R116, R117; the
scale byte of a sorus that the stream ends in: R192). pa: where the bytes at an address lie. -/
def Delivers (s : State) (pa : Word → Nat) (b : Binding) (t : Ty) (i x : Nat) : Prop :=
  let n := b.pos.toNat + i
  let row := n / b.rowlen.toNat
  let c := n % b.rowlen.toNat
  let line := fun (k : Nat) => b.base + BitVec.ofInt 64 (row * b.pitch.toInt) + BitVec.ofNat 64 k
  let f := formatTy b
  let has := fun (a : Word) (k v : Nat) => Loadable s a k (pa a) ∧ v = natLE (s.see (pa a) k)
  let half := fun (v : Nat) => v / 16 ^ (c % 2) % 16
  let rounded := fun (v : Machine.Num) => (roundTo t 0 false false 0 v).1
  n < b.total.toNat ∧
  if f = .sf4 then
    ∃ code sc band, has (line (5 * (c / 8) + c % 8 / 2)) 1 code ∧
      has (line (5 * (c / 8) + (min 8 (b.total.toNat - (row * b.rowlen.toNat + c / 8 * 8)) + 1) / 2)) 1 sc ∧
      has (b.band + BitVec.ofNat 64 (2 * (row / 64))) 2 band ∧
      x = rounded ((decodeFloat .e2m1 (half code)).mul ((e3m5 sc).mul (decodeFloat .bf16 band)).1).1
  else ∃ raw, has (line (if f = .e2m1 then c / 2 else c * f.bytes)) f.bytes raw ∧
    let v := if f = .e2m1 then half raw else raw
    if formatMx b then
      ∃ sc, has (b.scale + BitVec.ofNat 64 (row * (b.rowlen.toNat / 32) + c / 32)) 1 sc ∧
        x = rounded (if sc = 255 then .nan false else (decodeFloat f v).scale ((sc : Int) - 127))
    else x = if f = t then v else rounded (decodeFloat f v)

/-- A strand whose bound sources hold elements in their registers: x of a register and an element. -/
def filled (o : Operands) (regs : List Nat) (x : Nat → Nat → Nat) (c : Strand) : Strand :=
  (regs.filter fun r => (c.bindOf r).isSome).foldl (fun c r =>
    (List.range c.vl).foldl (fun c i => c.setElem o.ty.width r i (x r i)) c) c

/-- Instructions by element whose operands may be streams: the result of an element, from strands that hold the operands,
and what else it does to the strand. -/
def streamElems : List ((Operands → Instr) × EOp × (Operands → Names → Strand → Strand → Nat → Nat × (Strand → Strand))) :=
  (intElems.map fun e => (e.1, e.2.1, fun o n t0 c i => (lowBits o.ty.bits (e.2.2 o n t0 c i), id))) ++
  floatElems.map fun e => (e.1, e.2.1, fun o n t0 c i =>
    let r := floatResult o e.2.2 n t0 c i
    (r.1, fun d => steppedLane (d.mode o) (laneOf o.ty.width i) (d.raise r.2)))

/-- Streams of bound sources have moved on by k elements, and no other has (R117). -/
def movedOn (regs : List Nat) (k : Nat) (binds : List Binding) : List Binding :=
  binds.map fun b => if regs.contains b.reg then { b with pos := b.pos + BitVec.ofNat 64 k } else b

end Sys2Proof.Claims

/-- R108 to R110, R119: VLD, VLDS and VLDX give every performed element the bytes at its address as the strand sees them;
al is vl, the register's set covers the load's tag, and nothing else changes. R68, R97, R172, R173: the first element that stops, at a
misaligned address, where its translation stops, or at poison, traps with that address where it is the leading one, with
no register changed; above it it shortens the instruction, with the elements below it loaded and the others as they were. -/
def Obligations.VectorLoads : Prop :=
  ∀ e ∈ vecLoads, ∀ (o : Operands) (s u : State) (va : Nat → Word) (pa : Nat → Nat),
    VecReady o (memShape o e.2.1 false) (fun _ _ => true) s u → Fits o u.cur →
    let n := s.cur.names o
    let loaded := fun (t : State) (i : Nat) =>
      t.cur.elem o.ty.width n.d i = loadedBits o i (natLE (u.see (pa i) o.ty.bytes))
    let kept := fun (t : State) (i : Nat) => t.cur.elem o.ty.width n.d i = u.cur.elem o.ty.width n.d i
    ((∀ i, Written o u.cur i → e.2.2 o n u.cur i = some (va i) ∧ Loadable u (va i) o.ty.bytes (pa i)) →
      ∃ t, exec (e.1 o) s = .next t ∧ VecKeeps u t ∧ VectorsBut (dRegs o n.d) u.cur t.cur ∧
        t.cur.csr.al = u.cur.csr.vl ∧ t.cur.csr.vl = u.cur.csr.vl ∧ t.cur.csr.vstart = 0 ∧ t.cur.buf = u.cur.buf ∧
        Covers t.cur (.v n.d) u.cur.nextTag ∧ (NotAtBodyEnd o u.cur → t.cur.pc = after o u.cur) ∧
        (∀ i, Written o u.cur i → loaded t i) ∧
        ∀ i < vlmaxOf u.cur.gvl o.ty.width, ¬ Written o u.cur i → kept t i) ∧
    ∀ k why, Written o u.cur k → e.2.2 o n u.cur k = some (va k) →
      (∀ i < k, Written o u.cur i → e.2.2 o n u.cur i = some (va i) ∧ Loadable u (va i) o.ty.bytes (pa i)) →
      ElementStops o u.drain.dev u.drain.dev.readByte u.cur.ctx .load (va k) why ∨
        ((va k).toNat % o.ty.bytes = 0 ∧ Translates u .load (va k) (pa k) ∧ u.poisonSeen (pa k) = true ∧ why = .poison) →
      (k = u.cur.csr.vstart.toNat → ∃ t : State,
        exec (e.1 o) s = .next (t.trap why (va k) s.cur.pc false) ∧ Unmoved u t) ∧
      (u.cur.csr.vstart.toNat < k → ∃ t, exec (e.1 o) s = .next t ∧ Shortened o u why k t ∧
        ((t.dev = u.dev ∧ t.cur.buf = u.cur.buf) ∨ (t.dev = u.drain.dev ∧ t.cur.buf = [])) ∧
        t.cur.regs = { u.cur.regs with v := t.cur.regs.v } ∧ VectorsBut (dRegs o n.d) u.cur t.cur ∧
        (∀ i < k, Written o u.cur i → loaded t i) ∧
        ∀ i < vlmaxOf u.cur.gvl o.ty.width, k ≤ i ∨ ¬ Written o u.cur i → kept t i)

/-- R108 to R111: VST, VSTS and VSTX store every performed element at its address, in ascending order; the strand sees
them at once, memory when they perform. No register changes. R97, R172, R173: the first element that stops, at a misaligned address or
where its translation stops, traps with that address where it is the leading one; above it it shortens the instruction: those
below it are stored, and it and those above it are not. -/
def Obligations.VectorStores : Prop :=
  ∀ e ∈ vecStores, ∀ (o : Operands) (s u : State) (va : Nat → Word) (pa : Nat → Nat), u.dev.migs = [] →
    VecReady o (memShape o e.2.1 true) (fun _ _ => true) s u → OneStore u (performed o u.cur) →
    let n := s.cur.names o
    let view := fun (is : List Nat) => storedView o (fun i => u.cur.elem o.ty.width n.d i) pa is u.seeByte
    ((∀ i, Written o u.cur i → e.2.2 o n u.cur i = some (va i) ∧ Storable u (va i) o.ty.bytes (pa i)) →
      ∃ t, exec (e.1 o) s = .next t ∧ VecKeeps u t ∧ t.cur.regs = u.cur.regs ∧ t.cur.csr.dmap = u.cur.csr.dmap ∧
        t.cur.csr.al = u.cur.csr.vl ∧ t.cur.csr.vl = u.cur.csr.vl ∧ t.cur.csr.vstart = 0 ∧
        (NotAtBodyEnd o u.cur → t.cur.pc = after o u.cur) ∧ ∀ a, t.seeByte a = view (performed o u.cur) a) ∧
    ∀ k why, Settles u → Written o u.cur k → e.2.2 o n u.cur k = some (va k) →
      (∀ i < k, Written o u.cur i → e.2.2 o n u.cur i = some (va i) ∧ Storable u (va i) o.ty.bytes (pa i)) →
      let below := (performed o u.cur).filter fun i => decide (i < k)
      (o.u = true → o.ty ≠ .e2m1 → ∀ i ∈ below, ∀ j ∈ below, i ≠ j → Apart (pa i) o.ty.bytes (pa j) o.ty.bytes) →
      ElementStops o u.drain.dev (view below) u.cur.ctx .store (va k) why →
      (k = u.cur.csr.vstart.toNat → ∃ t : State, exec (e.1 o) s = .next (t.trap why (va k) s.cur.pc false) ∧
        Unmoved (u.onDev fun d => { d with nextUGroup := t.dev.nextUGroup }) t) ∧
      (u.cur.csr.vstart.toNat < k → ∃ t, exec (e.1 o) s = .next t ∧ Shortened o u why k t ∧ t.cur.regs = u.cur.regs ∧
        ∀ a, t.seeByte a = view below a)

/-- R112, R113: VLD2D and VST2D move a tile: element e at row e / vl and column e mod vl. ar is rows, ac 0, al and eprog the
number of elements; vl and rows stay. -/
def Sys2Proof.Claims.TileMoves : Prop :=
  ∀ (o : Operands) (s u : State) (pa : Nat → Nat), u.cur.gvl ≤ 4096 →
    let n := s.cur.names o
    let all := u.cur.csr.rows.toNat * u.cur.vl
    let fits := fun (c : Strand) (_ : Names) => decide (c.csr.rows.toNat * c.vl ≤ c.vlmax c.ew)
    let ends := fun (t : State) => t.cur.csr.ar = u.cur.csr.rows ∧ t.cur.csr.ac = 0 ∧ t.cur.csr.eprog.toNat = all ∧
      t.cur.csr.al.toNat = all ∧ t.cur.csr.vl = u.cur.csr.vl ∧ t.cur.csr.vstart = 0 ∧
      (NotAtBodyEnd o u.cur → t.cur.pc = after o u.cur)
    (VecReady o (memShape o .z false) fits s u →
      (∀ e, TileWritten o u.cur e → ∀ va, tileTarget o n u.cur e = some va → Loadable u va o.ty.bytes (pa e)) →
      ∃ t, exec (.vld2d o) s = .next t ∧ VecKeeps u t ∧ ends t ∧ VectorsBut (dRegs o n.d) u.cur t.cur ∧
        (∀ e, TileWritten o u.cur e → t.cur.elem o.ty.width n.d e = loadedBits o e (natLE (u.see (pa e) o.ty.bytes))) ∧
        ∀ e < vlmaxOf u.cur.gvl o.ty.width, ¬ TileWritten o u.cur e →
          t.cur.elem o.ty.width n.d e = u.cur.elem o.ty.width n.d e) ∧
    (u.dev.migs = [] → VecReady o (memShape o .z true) fits s u → OneStore u (performedTile o u.cur) →
      (∀ e, TileWritten o u.cur e → ∀ va, tileTarget o n u.cur e = some va → Storable u va o.ty.bytes (pa e)) →
      ∃ t, exec (.vst2d o) s = .next t ∧ VecKeeps u t ∧ ends t ∧ t.cur.regs = u.cur.regs ∧
        ∀ a, t.seeByte a = storedView o (fun i => u.cur.elem o.ty.width n.d i) pa (performedTile o u.cur) u.seeByte a)

/-- R114, R195: VLDC decodes whole ZBP blocks while they fit the byte bound and VLMAX(0): vl and al are the elements,
cbytes the bytes, and elements from vl on keep their content. -/
def Sys2Proof.Claims.CompressedLoad : Prop :=
  ∀ (o : Operands) (s u : State) (pa : Nat → Nat), u.cur.gvl ≤ 4096 → o.ty = .n8 →
    VecReady o { memShape o .s false with usesMif := false } (fun t _ => t.csr.vstart == 0) s u →
    let n := s.cur.names o
    let base := u.cur.s n.a
    let bytes := (List.range (u.cur.s n.b).toNat).map fun k => (u.seeByte (pa k)).toNat
    (∀ k < (u.cur.s n.b).toNat, Loadable u (base + BitVec.ofNat 64 k) 1 (pa k)) →
    ∀ r, zbpRun (4 * u.cur.gvl) 257 bytes ([], 0) = some r →
    ∃ t, exec (.vldc o) s = .next t ∧ VecKeeps u t ∧ t.cur.vl = r.1.length ∧ t.cur.csr.al.toNat = r.1.length ∧
      t.cur.csr.cbytes.toNat = r.2 ∧ t.cur.csr.vstart = 0 ∧ VectorsBut [n.d] u.cur t.cur ∧
      (NotAtBodyEnd o u.cur → t.cur.pc = after o u.cur) ∧
      (∀ (i : Nat) (h : i < r.1.length), t.cur.elem 0 n.d i = r.1[i]) ∧
      ∀ i < 4 * u.cur.gvl, r.1.length ≤ i → t.cur.elem 0 n.d i = u.cur.elem 0 n.d i

/-- R115, R116, R118: VBIND binds a register to the stream record at sA; one that is bound is unbound first, so the record is
read as it stands after that. VUNBIND stores the position back at byte 0x20 of the record and releases the register, and does
nothing where it is not bound. -/
def Sys2Proof.Claims.StreamBinding : Prop :=
  ∀ (o : Operands) (s u : State) (pa : Nat → Nat),
    let n := s.cur.names o
    let a := u.cur.s n.a
    let seen := fun (v : State) => (List.range 64).map fun k => v.seeByte (pa k)
    let ready := fun (k : RegK) => Dispatches o (bindShape k) (fun _ _ => true) s u
    (ready .s → a.toNat % 64 = 0 → (∀ k < 64, Loadable u (a + BitVec.ofNat 64 k) 1 (pa k)) → recordOk (seen u) = true →
      u.cur.binds.length < 8 → u.cur.bindOf n.d = none →
      ∃ t, exec (.vbind o) s = .next t ∧ VecKeeps u t ∧ t.cur.regs = u.cur.regs ∧ t.cur.buf = u.cur.buf ∧
        (NotAtBodyEnd o u.cur → t.cur.pc = after o u.cur) ∧
        t.cur.binds = u.cur.binds ++ [boundTo n.d a (seen u)]) ∧
    (∀ b q, u.cur.vf = 0 → ready .s → a.toNat % 64 = 0 → u.cur.bindOf n.d = some b → Storable u (b.addr + 0x20) 8 q →
      let v := u.onCur (withStore q (bytesLE 8 b.pos.toNat) .empty)
      (∀ k < 64, Loadable v (a + BitVec.ofNat 64 k) 1 (pa k)) → recordOk (seen v) = true →
      ∃ t, exec (.vbind o) s = .next t ∧ VecKeeps u t ∧ t.cur.regs = u.cur.regs ∧ t.cur.buf = v.cur.buf ∧
        (NotAtBodyEnd o u.cur → t.cur.pc = after o u.cur) ∧
        t.cur.binds = u.cur.binds.filter (fun x => x.reg != n.d) ++ [boundTo n.d a (seen v)]) ∧
    (ready .z → u.cur.bindOf n.d = none → ∃ t, exec (.vunbind o) s = .next t ∧ VecKeeps u t ∧
      t.cur.binds = u.cur.binds ∧ t.cur.buf = u.cur.buf ∧ t.cur.regs = u.cur.regs) ∧
    ∀ b q, ready .z → u.cur.bindOf n.d = some b → Storable u (b.addr + 0x20) 8 q →
      ∃ t, exec (.vunbind o) s = .next t ∧ VecKeeps u t ∧ t.cur.regs = u.cur.regs ∧
        t.cur.binds = u.cur.binds.filter (fun x => x.reg != n.d) ∧
        t.cur.buf = u.cur.buf ++ [⟨q, bytesLE 8 b.pos.toNat, [], none, .empty⟩]

/-- R116 to R118: the integer and the float element instructions with sources bound to streams. Every performed element
takes what its streams deliver as though the registers held it; POS moves on by al. The first element that a stream has not
takes STREAM_END: a trap at the leading one, with POS as it was; else the instruction is shortened, and POS moves on by the elements
below it. A bound destination is ILL at dispatch, and so is a format that does not pair with TYPE. Cross-lane operands are
left out: what they take is the model's choice (log entry 81). -/
def Sys2Proof.Claims.StreamDelivery : Prop :=
  ∀ e ∈ streamElems, ∀ (o : Operands) (s u : State) (pa : Word → Nat) (x : Nat → Nat → Nat),
    let n := s.cur.names o
    let sh := e.2.1.sh o
    let regs := sh.vecSources n
    (((∃ r ∈ dRegs o n.d, s.cur.bindOf r ≠ none) ∨ (∃ r ∈ regs, ∃ b, s.cur.bindOf r = some b ∧ ¬ Pairs b o.ty)) →
      (if o.cv then Convoy.closed else s.cur.convoy).fits sh.cls (sh.cross && isCross o) (sh.dst n) = true →
      exec (e.1 o) s = .next (s.trap .ill (parcel0 o) s.cur.pc false)) ∧
    (s.cur.preempt = none → (∀ b ∈ s.cur.binds, b.reads = none) → NoStops s.cur → isCross o = false →
      (e.1 o = .vextb o → o.imPos + o.imLen ≤ o.ty.bits) → Fits o u.cur →
      (o.ty.width = 3 → n.d % 2 = 0 ∧ n.a % 2 = 0 ∧ n.b % 2 = 0) → Dispatches o sh (e.2.1.more o) s u →
      let step := fun (i : Nat) (c : Strand) =>
        let r := e.2.2 o n (filled o regs x u.cur) (filled o regs x c) i
        (r.2 c).setElem o.ty.width n.d i r.1
      let source := fun (b : Binding) => b ∈ u.cur.binds ∧ b.reg ∈ regs ∧ u.cur.bindOf b.reg = some b
      ((∀ b, source b → ∀ i, Written o u.cur i → Delivers u pa b o.ty i (x b.reg i)) →
        ∃ t, exec (e.1 o) s = .next t ∧ t.others = u.others ∧ t.agenda = u.agenda ∧ t.dev = u.dev ∧
          t.cur.buf = u.cur.buf ∧ (NotAtBodyEnd o u.cur → t.cur.pc = after o u.cur) ∧
          t.cur.regs = (overElements o u.cur.vl step u.cur).regs ∧
          t.cur.csr = { (overElements o u.cur.vl step u.cur).csr with al := u.cur.csr.vl, vstart := 0, li := t.cur.csr.li } ∧
          t.cur.binds = movedOn regs u.cur.vl u.cur.binds) ∧
      ∀ k, Written o u.cur k →
        (∀ b, source b → ∀ i < k, Written o u.cur i → Delivers u pa b o.ty i (x b.reg i)) →
        (∀ b, source b → Delivers u pa b o.ty k (x b.reg k) ∨ b.total.toNat ≤ b.pos.toNat + k) →
        (∃ b, source b ∧ b.total.toNat ≤ b.pos.toNat + k) →
        (k = u.cur.csr.vstart.toNat → ∃ t : State, exec (e.1 o) s = .next (t.trap .streamEnd 0 s.cur.pc false) ∧
          Unmoved u t ∧ t.cur.binds.map (fun b => (b.reg, b.pos)) = u.cur.binds.map fun b => (b.reg, b.pos)) ∧
        (u.cur.csr.vstart.toNat < k → ∃ t, exec (e.1 o) s = .next t ∧ Shortened o u .streamEnd k t ∧ t.dev = u.dev ∧
          t.cur.regs = (overElements o k step u.cur).regs ∧ t.cur.binds = movedOn regs k u.cur.binds))

/-- R119: WBIND gives window w the base, the element size and the first vl indices; WUNBIND removes it. -/
def Sys2Proof.Claims.GatherWindows : Prop :=
  ∀ (o : Operands) (s u : State), u.cur.binds = [] →
    let n := s.cur.names o
    let w := o.im 0 4
    let sh : Shape := { cls := .mem, d := .z, dTy := .i8, writes := false, a := .s, b := .v, usesMif := false }
    (VecReady o sh (fun t _ => decide (t.vl ≤ t.gvl)) s u →
      ∃ t, exec (.wbind o) s = .next t ∧ t.others = u.others ∧ t.dev = u.dev ∧
        t.cur.regs = u.cur.regs ∧ t.cur.csr.vl = u.cur.csr.vl ∧ (NotAtBodyEnd o u.cur → t.cur.pc = after o u.cur) ∧
        t.cur.wins = { w := w, base := u.cur.s n.a, esz := 2 ^ o.im 4 2,
                       idx := (List.range u.cur.vl).map (u.cur.elem o.ty.width n.b) } ::
          u.cur.wins.filter (fun k => k.w != w)) ∧
    (VecReady o (bindShape .z) (fun _ _ => true) s u →
      ∃ t, exec (.wunbind o) s = .next t ∧ t.others = u.others ∧ t.dev = u.dev ∧
        t.cur.regs = u.cur.regs ∧ (NotAtBodyEnd o u.cur → t.cur.pc = after o u.cur) ∧
        t.cur.wins = u.cur.wins.filter (fun k => k.w != w) ∧ t.cur.taintOf (.win w) = .empty)

/-- R120, R105: VAMO performs its elements' atomics in ascending order, after the strand's earlier stores; each element of
D takes the old value. Stated of a strand of function 0, whose physical addresses no table in memory gives. -/
def Obligations.VectorAtomics : Prop :=
  ∀ (o : Operands) (s u : State) (pa : Nat → Nat), u.cur.vf = 0 → Fits o u.cur → o.ty ∈ amoTypes (o.fnBits 0 4) →
    let n := s.cur.names o
    let cas := if o.ty.width = 3 then n.d + 2 else n.d + 1
    let sh : Shape := { memShape o .v false with
      readsD := true, vmore := if o.fnBits 0 4 == 9 then [cas] else [] }
    VecReady o sh (fun _ n => o.vamoDOk (BitVec.ofNat 6 n.d)) s u →
    (∀ i, Written o u.cur i → let va := u.cur.s n.a + BitVec.ofNat 64 (u.cur.elem o.ty.width n.b i)
      va.toNat % o.ty.bytes = 0 ∧ Translates u .atomic va (pa i) ∧ u.drain.dev.poisoned (pa i) = false) →
    let is := performed o u.cur
    let run := fun (l : List Nat) => l.foldl (fun d i => (atomicStep o (pa i) (u.cur.elem o.ty.width n.d i)
      (u.cur.elem o.ty.width cas i) d).2) u.drain.dev
    is ≠ [] →
    ∃ t, exec (.vamo o) s = .next t ∧ t.dev = run is ∧ t.others = u.others ∧
      t.cur.buf = [] ∧ t.cur.csr.al = u.cur.csr.vl ∧ t.cur.csr.vstart = 0 ∧ t.cur.sup = u.cur.sup ∧
      VectorsBut (dRegs o n.d) u.cur t.cur ∧ (NotAtBodyEnd o u.cur → t.cur.pc = after o u.cur) ∧
      (∀ i, Written o u.cur i → t.cur.elem o.ty.width n.d i =
        (run (is.filter (· < i))).readLE (pa i) o.ty.bytes) ∧
      ∀ i < vlmaxOf u.cur.gvl o.ty.width, ¬ Written o u.cur i →
        t.cur.elem o.ty.width n.d i = u.cur.elem o.ty.width n.d i

/-- R121 to R123: VSAVE stores, and VLOAD loads, every element below vl of every register of the range that the dirty map
does not skip, from where spr says on; spr is 0 at the end. Each register is named as it is transferred (R158): stated where
the range is in the file, so that only the times of naming change. -/
def Obligations.SpillAndFill : Prop :=
  ∀ (o : Operands) (s u : State) (pa : Nat → Nat → Nat), u.cur.preempt = none → u.cur.binds = [] → Fits o u.cur →
    let n := s.cur.names o
    Resides ((List.range (o.im 0 6 + 1)).map (n.d + ·)) u →
    let moves := spillMoves o n u.cur
    let ready := fun (store : Bool) => VecReady o (spillShape o n store) (spillOk o) s u
    let kept := fun (t : State) => VecKeeps (u.onDev fun d => { d with resid := t.dev.resid }) t
    (u.dev.migs = [] → ready true → (∀ m ∈ moves, Storable u (spillTarget o n u.cur m.1 m.2.2) o.ty.bytes (pa m.1 m.2.2)) →
      (u.cur.vf = 0 ∨ moves.length ≤ 1) →
      ∃ t, exec (.vsave o) s = .next t ∧ kept t ∧ t.cur.regs = u.cur.regs ∧ t.cur.csr.spr = 0 ∧
        t.cur.csr.vl = u.cur.csr.vl ∧ (NotAtBodyEnd o u.cur → t.cur.pc = after o u.cur) ∧
        ∀ a, t.seeByte a = moves.foldl (fun v m => storedByte { o with ty := if o.ty = .e2m1 then .n8 else o.ty }
          (u.cur.elem o.ty.width m.2.1 m.2.2) m.2.2 (pa m.1 m.2.2) v) u.seeByte a) ∧
    (ready false → (∀ m ∈ moves, Loadable u (spillTarget o n u.cur m.1 m.2.2) o.ty.bytes (pa m.1 m.2.2)) →
      ∃ t, exec (.vload o) s = .next t ∧ kept t ∧ t.cur.csr.spr = 0 ∧ t.cur.csr.vl = u.cur.csr.vl ∧
        t.cur.buf = u.cur.buf ∧ (NotAtBodyEnd o u.cur → t.cur.pc = after o u.cur) ∧
        VectorsBut ((List.range (o.im 0 6 + 1)).map (n.d + ·)) u.cur t.cur ∧
        (∀ m ∈ moves, t.cur.elem o.ty.width m.2.1 m.2.2 = natLE (u.see (pa m.1 m.2.2) o.ty.bytes)) ∧
        ∀ r ∈ spillList o n, ∀ i < vlmaxOf u.cur.gvl o.ty.width, (∀ q, (q, r, i) ∉ moves) →
          t.cur.elem o.ty.width r i = u.cur.elem o.ty.width r i)

namespace Sys2Proof.Claims

/-- Register r of a strand is not in the file. -/
def Absent (s : State) (c : Strand) (r : Nat) : Prop := ∀ x ∈ s.dev.resid, ¬ (x.uid = c.uid ∧ x.reg = r)

/-- The place of a register in the strand's backing area (R157). -/
def placeOf (c : Strand) (r : Nat) : Nat := c.backing + r * (4 * c.gvl)

/-- Resident registers of the current strand's core, and the bytes that they take of the file. -/
def onFile (s : State) : List Resid :=
  s.dev.resid.filter fun x => s.strands.any fun c => (s.find x.uid == some c) && c.core == s.cur.core

def bytesOf (s : State) (x : Resid) : Nat := match s.find x.uid with | some c => 4 * c.gvl | none => 0

/-- A strand waits in an instruction whose destination is the register: it is in flight. -/
def WaitsInto (c : Strand) (r : Nat) : Prop :=
  (∃ port next, c.status = .waiting (.epop port r) next) ∨ ∃ mb k next, c.status = .waiting (.mbrecv mb r k) next

/-- A register that no instruction in flight names: not the one that issues, and none that waits. -/
def Idle (s : State) (keep : List Nat) (x : Resid) : Prop :=
  x ∈ onFile s ∧ ¬ (x.uid = s.cur.uid ∧ x.reg ∈ keep) ∧ ∀ c ∈ s.strands, c.uid = x.uid → ¬ WaitsInto c x.reg

/-- One that no open convoy names either. -/
def OutOfConvoys (s : State) (keep : List Nat) (x : Resid) : Prop :=
  Idle s keep x ∧ ∀ c ∈ s.strands, c.uid = x.uid → c.convoy.isOpen = true → x.reg ∉ c.convoy.named

/-- A register that an eviction may take (R158): no convoy's while another can go; where none can, a convoy issues instruction by
instruction (R159). -/
def Evictable (s : State) (keep : List Nat) (x : Resid) : Prop :=
  OutOfConvoys s keep x ∨ (Idle s keep x ∧ ∀ y, ¬ OutOfConvoys s keep y)

/-- A byte's line is marked poisoned. -/
def marked (d : Device) (pa : Nat) : Prop := d.resolve pa / 64 ∈ d.poison

/-- Named before another, or at the same time from a lower slot and number. -/
def NamedBefore (s : State) (x y : Resid) : Prop :=
  let slot := fun (u : Nat) => match s.find u with | some c => c.slot | none => 0
  x.last < y.last ∨ (x.last = y.last ∧ (slot x.uid < slot y.uid ∨ (slot x.uid = slot y.uid ∧ x.reg < y.reg)))

/-- A strand whose registers may have been written back: no value of it has changed. -/
def SameButBacked (c d : Strand) : Prop := d = { c with fileDirty := d.fileDirty }

/-- Every resident register's strand exists. -/
def Owned (s : State) : Prop := ∀ x ∈ s.dev.resid, (s.find x.uid).isSome = true

end Sys2Proof.Claims

/-- R157 to R160, R384: naming vector registers. Poison in the backing area of one that is swapped out kills the context
with REASON 7. Else every one of them is in the file, awake and named now, one that was swapped out with the bytes of its
place in the backing area; nothing else of any strand changes but what is still to be written back, and of the device only
memory, by what is written back, and residency. While the file is too full, the register that may be taken and was named
least recently goes, lowest slot and number first; one written since it was loaded is written to its place, whose lines are
then whole, and no other byte of memory changes; an unwritten one changes no byte. -/
def Obligations.Residency : Prop :=
  (∀ (s : State) (regs : List Nat) (r : Nat), let c := s.cur
    r ∈ regs → Absent s c r → c.ctxArea ≠ none → c.backing % 64 = 0 → c.gvl % 16 = 0 →
    (∃ k < 4 * c.gvl, marked s.dev (placeOf c r + k)) →
    touch regs s = .error .lost s ∧ ∀ conv, s.stopAt conv .lost = s.kill c.uid 7 ⟨0x3F, c.pc, 0, c.csr.vstart.toNat, 0⟩) ∧
  (∀ (s : State) (regs : List Nat), let c := s.cur
    Owned s → c.gvl ≤ 4096 → c.backing % 64 = 0 → c.gvl % 16 = 0 →
    (c.ctxArea ≠ none → ∀ r ∈ regs, Absent s c r → ∀ k < 4 * c.gvl, s.dev.poisoned (placeOf c r + k) = false) →
    ∃ u, InFile regs s u ∧ u.agenda = s.agenda ∧ List.Forall₂ SameButBacked s.others u.others ∧
      u.cur = { c with regs := { c.regs with v := u.cur.regs.v }, fileDirty := u.cur.fileDirty } ∧
      u.dev = { s.dev with mem := u.dev.mem, poison := u.dev.poison, resid := u.dev.resid } ∧
      (∀ r ∈ regs, ⟨c.uid, r, s.dev.cyc.toNat, false⟩ ∈ u.dev.resid) ∧
      (∀ r k, k < 4 * c.gvl → (u.cur.vBytes r k 1 =
        if r ∈ regs ∧ c.ctxArea ≠ none ∧ (s.dev.resid.any fun x => x.uid == c.uid && x.reg == r) = false
        then (s.dev.readByte (placeOf c r + k)).toNat else c.vBytes r k 1)) ∧
      ((onFile s).length + regs.length ≤ 256 → ((onFile u).map (bytesOf u)).sum ≤ 524288 ∨ ∀ x ∈ onFile u, ¬ Evictable u regs x)) ∧
  (∀ (s : State) (keep : List Nat) (n : Nat), Owned s →
    (((onFile s).map (bytesOf s)).sum ≤ 524288 → evict keep (n + 1) s = s) ∧
    ∀ v, 524288 < ((onFile s).map (bytesOf s)).sum → Evictable s keep v →
      (∀ x, Evictable s keep x → x = v ∨ NamedBefore s v x) → evict keep (n + 1) s = evict keep n (s.swapOut v)) ∧
  ∀ (s : State) (v : Resid) (c : Strand), s.find v.uid = some c →
    let n := 4 * c.gvl
    let t := s.swapOut v
    t.dev.resid = (s.dev.resid.filter fun x => !(x.uid == v.uid && x.reg == v.reg)) ∧
    t.dev = { s.dev with mem := t.dev.mem, poison := t.dev.poison, resid := t.dev.resid } ∧
    (c.fileDirty.getLsbD v.reg = false → t.dev.mem = s.dev.mem ∧ t.dev.poison = s.dev.poison) ∧
    (v.reg < 64 → c.fileDirty.getLsbD v.reg = true → c.ctxArea ≠ none → s.dev.movesIn (placeOf c v.reg) n = false →
      (∀ k < n, (t.dev.readByte (placeOf c v.reg + k)).toNat = c.vBytes v.reg k 1) ∧
      (∀ a, a < placeOf c v.reg ∨ placeOf c v.reg + n ≤ a → t.dev.readByte a = s.dev.readByte a) ∧
      (c.backing % 64 = 0 → c.gvl % 16 = 0 → ∀ k < n, ¬ marked t.dev (placeOf c v.reg + k))) ∧
    ∃ d, t.find v.uid = some d ∧ SameButBacked c d ∧ (v.reg < 64 → d.fileDirty.getLsbD v.reg = false) ∧
      ∀ k, k ≠ v.reg → d.fileDirty.getLsbD k = c.fileDirty.getLsbD k

namespace Sys2Proof.Claims

/-! ### Scratchpad and lane slices (R124 to R137) -/

/-- n bytes of the group's window, or of a lane's slice, from an offset. -/
abbrev CoreRead := State → Nat → Nat → Nat → Nat
def windowRead : CoreRead := fun s _ a n => s.dev.scrGet s.cur.group a n
def sliceRead : CoreRead := fun s lane a n => s.cur.sliceGet lane a n

/-- An access on the core that meets no cause (R133, R136): aligned, inside the window, and no poisoned group is read. -/
def WindowOk (s : State) (load : Bool) (place : Word → Nat) (_lane : Nat) (a : Word) (n : Nat) : Prop :=
  a.toNat % n = 0 ∧ a.toNat < s.dev.windowSize s.cur.group ∧ (load = true → s.dev.scrBad s.cur.group (place a) = false)
def SliceOk (s : State) (load : Bool) (_place : Word → Nat) (lane : Nat) (a : Word) (n : Nat) : Prop :=
  a.toNat % n = 0 ∧ a.toNat < 1024 * s.cur.kern.slice ∧ (load = true → s.cur.slicePoisoned lane a.toNat = false)

/-- An offset: unit stride (R132), by lane (R136), or indexed. -/
abbrev CoreAddr := Operands → Names → Strand → Nat → Word
def unitOffset : CoreAddr := fun o n c i => c.s n.a + BitVec.ofNat 64 (i * o.ty.bytes)
def laneAddr : CoreAddr := fun o n c i =>
  c.s n.a + BitVec.ofNat 64 ((i / epslot o.ty.width / 64 * epslot o.ty.width + i % epslot o.ty.width) * o.ty.bytes)
def indexOffset : CoreAddr := fun o n c i => c.s n.a + BitVec.ofNat 64 (c.elem o.ty.width n.b i)

/-- How an access on the core goes: may it be made, and what it reads. -/
abbrev CoreOk := State → Bool → (Word → Nat) → Nat → Word → Nat → Prop

noncomputable def coreLoads : List ((Operands → Instr) × RegK × CoreAddr × CoreOk × CoreRead) :=
  [(.spld, .z, unitOffset, WindowOk, windowRead), (.spldx, .v, indexOffset, WindowOk, windowRead),
   (.lpld, .z, laneAddr, SliceOk, sliceRead), (.lpldIndex, .v, indexOffset, SliceOk, sliceRead)]

noncomputable def coreStores : List ((Operands → Instr) × RegK × CoreAddr × CoreOk × CoreRead) :=
  [(.spst, .z, unitOffset, WindowOk, windowRead),
   (.lpst, .z, laneAddr, SliceOk, sliceRead), (.lpstIndex, .v, indexOffset, SliceOk, sliceRead)]

/-- Bytes by lane and offset once these elements are stored, in this order. -/
def storedCore (n : Nat) (data lane at_ : Nat → Nat) (is : List Nat) (v : Nat → Nat → Nat) : Nat → Nat → Nat :=
  is.foldl (fun v i l a =>
    if l = lane i ∧ at_ i ≤ a ∧ a < at_ i + n then data i / 256 ^ (a - at_ i) % 256 else v l a) v

/-- What an access on the core leaves alone; of the device only the group's own window changes, where
it stores there, of which the tags and the slots stay. u: the state in which it is dispatched. -/
def CoreKeeps (u t : State) : Prop :=
  t.others = u.others ∧ t.agenda = u.agenda ∧ t.dev = { u.dev with scratch := t.dev.scratch } ∧
  (∀ a, t.dev.readByte a = u.dev.readByte a) ∧ (∀ g, g ≠ u.cur.group → t.dev.window g = u.dev.window g) ∧
  t.myTags = u.myTags ∧ t.mySlots = u.mySlots ∧ t.cur.sup = u.cur.sup ∧ t.cur.farm = u.cur.farm ∧
  t.cur.status = u.cur.status ∧ t.cur.buf = u.cur.buf ∧
  t.cur.regs = { u.cur.regs with v := t.cur.regs.v, slice := t.cur.regs.slice, sliceBad := t.cur.regs.sliceBad } ∧
  t.cur.csr = { u.cur.csr with al := t.cur.csr.al, vstart := t.cur.csr.vstart, dmap := t.cur.csr.dmap, li := t.cur.csr.li,
                               ar := t.cur.csr.ar, ac := t.cur.csr.ac, eprog := t.cur.csr.eprog }

/-- Lane of an element. -/
def laneNum (o : Operands) (i : Nat) : Nat := i / epslot o.ty.width % 64

/-- The place of a tile element: its row and column give an offset by the descriptor's pitch, which the descriptor's
rotation places (R128, R132). -/
def tileOffset (o : Operands) (n : Names) (c : Strand) (e : Nat) : Word :=
  c.s n.a + BitVec.ofNat 64 (e / c.vl * ((c.s n.b).toNat % 65536) + e % c.vl * o.ty.bytes)

end Sys2Proof.Claims

/-- R130, R131: SPLK finds the slot of a tag or gives all ones; SPTAG gives a slot a tag that no other then has; SPINV
frees a slot and SPINV all of them. A slot outside the window takes TP_STORE. -/
def Obligations.TagTable : Prop :=
  ∀ (o : Operands) (s : State) (w : Scratch),
    let a := s.cur.s o.a.toNat
    let same := fun (t : State) => t.cur = s.cur.retire o ∧ t.others = s.others ∧ t.agenda = s.agenda ∧
      t.dev = { s.dev with scratch := t.dev.scratch } ∧ (∀ g, g ≠ s.cur.group → t.dev.window g = s.dev.window g)
    (∀ k, s.myTags.find? (fun e => e.2 == a) = some (k, a) → exec (.splk o) s = .next (s.onCur fun c =>
      (c.putS o.d.toNat (BitVec.ofNat 64 k) [.s o.a.toNat]).retire o)) ∧
    ((∀ e ∈ s.myTags, e.2 ≠ a) → exec (.splk o) s = .next (s.onCur fun c =>
      (c.putS o.d.toNat (BitVec.allOnes 64) [.s o.a.toNat]).retire o)) ∧
    (s.mySlots ≤ a.toNat → ∀ i ∈ [Instr.sptag o, .spinv o],
      exec i s = .next (s.trap .tpStore (BitVec.ofNat 64 (4096 * a.toNat)) s.cur.pc false)) ∧
    (s.dev.window s.cur.group = some w →
      (a.toNat < w.slots → ∃ t, exec (.sptag o) s = .next t ∧ same t ∧ t.dev.window s.cur.group = some { w with
        tags := (w.tags.filter fun e => e.1 != a.toNat && e.2 != s.cur.s o.b.toNat) ++ [(a.toNat, s.cur.s o.b.toNat)] }) ∧
      (a.toNat < w.slots → ∃ t, exec (.spinv o) s = .next t ∧ same t ∧
        t.dev.window s.cur.group = some { w with tags := w.tags.filter fun e => e.1 != a.toNat }) ∧
      ∃ t, exec (.spinvAll o) s = .next t ∧ same t ∧ t.dev.window s.cur.group = some { w with tags := [] })

/-- R132 to R137: SPLD, SPLDX, LPLD and its indexed form load, and SPST, LPST and its indexed form store, every performed
element at its offset in the window or in the slice of its own lane. -/
def Sys2Proof.Claims.ScratchpadAndSlices : Prop :=
  ∀ (o : Operands) (s u : State), u.cur.kern.slice ≤ 16 → Fits o u.cur →
    let n := s.cur.names o
    let ends := fun (t : State) => CoreKeeps u t ∧ t.cur.csr.al = u.cur.csr.vl ∧ t.cur.csr.vl = u.cur.csr.vl ∧
      t.cur.csr.vstart = 0 ∧ (NotAtBodyEnd o u.cur → t.cur.pc = after o u.cur)
    (∀ e ∈ coreLoads, VecReady o (memShape o e.2.1 false) (fun _ _ => true) s u →
      (∀ i, Written o u.cur i → e.2.2.2.1 u true BitVec.toNat (laneNum o i) (e.2.2.1 o n u.cur i) o.ty.bytes) →
      ∃ t, exec (e.1 o) s = .next t ∧ ends t ∧ VectorsBut (dRegs o n.d) u.cur t.cur ∧ t.dev.scratch = u.dev.scratch ∧
        t.cur.regs.slice = u.cur.regs.slice ∧
        (∀ i, Written o u.cur i → t.cur.elem o.ty.width n.d i =
          e.2.2.2.2 u (laneNum o i) (e.2.2.1 o n u.cur i).toNat o.ty.bytes) ∧
        ∀ i < vlmaxOf u.cur.gvl o.ty.width, ¬ Written o u.cur i →
          t.cur.elem o.ty.width n.d i = u.cur.elem o.ty.width n.d i) ∧
    ∀ e ∈ coreStores, VecReady o (memShape o e.2.1 true) (fun _ _ => true) s u →
      (∀ i, Written o u.cur i → e.2.2.2.1 u false BitVec.toNat (laneNum o i) (e.2.2.1 o n u.cur i) o.ty.bytes) →
      ∃ t, exec (e.1 o) s = .next t ∧ ends t ∧ t.cur.regs.v = u.cur.regs.v ∧
        (e.1 o = .spst o → t.cur.regs = u.cur.regs ∧ ∀ a, windowRead t 0 a 1 =
          storedCore o.ty.bytes (fun i => u.cur.elem o.ty.width n.d i) (fun _ => 0)
            (fun i => (e.2.2.1 o n u.cur i).toNat) (performed o u.cur) (fun l a => windowRead u l a 1) 0 a) ∧
        (e.1 o ≠ .spst o → t.dev.scratch = u.dev.scratch ∧ ∀ l < 64, ∀ a < 16384, sliceRead t l a 1 =
          storedCore o.ty.bytes (fun i => u.cur.elem o.ty.width n.d i) (laneNum o)
            (fun i => (e.2.2.1 o n u.cur i).toNat) (performed o u.cur) (fun l a => sliceRead u l a 1) l a)

/-- R128, R132, R133: SPLD and SPST of a tile through a descriptor: element e at row e / vl and column e mod vl of the
window; ar is rows, ac 0, al and eprog the number of elements. -/
def Sys2Proof.Claims.ScratchpadTiles : Prop :=
  ∀ (o : Operands) (s u : State), u.cur.gvl ≤ 4096 →
    let n := s.cur.names o
    let all := u.cur.csr.rows.toNat * u.cur.vl
    let fits := fun (c : Strand) (n : Names) => tileFits c n && descOk (c.s n.b)
    let place := scrPlace (u.cur.s n.b) (u.cur.s n.a)
    let ends := fun (t : State) => CoreKeeps u t ∧ t.cur.csr.ar = u.cur.csr.rows ∧ t.cur.csr.ac = 0 ∧
      t.cur.csr.eprog.toNat = all ∧ t.cur.csr.al.toNat = all ∧ t.cur.csr.vl = u.cur.csr.vl ∧ t.cur.csr.vstart = 0 ∧
      (NotAtBodyEnd o u.cur → t.cur.pc = after o u.cur)
    (VecReady o (memShape o .s false) fits s u →
      (∀ e, TileWritten o u.cur e → WindowOk u true place 0 (tileOffset o n u.cur e) o.ty.bytes) →
      ∃ t, exec (.spldTile o) s = .next t ∧ ends t ∧ VectorsBut (dRegs o n.d) u.cur t.cur ∧ t.dev.scratch = u.dev.scratch ∧
        (∀ e, TileWritten o u.cur e → t.cur.elem o.ty.width n.d e =
          windowRead u 0 (place (tileOffset o n u.cur e)) o.ty.bytes) ∧
        ∀ e < vlmaxOf u.cur.gvl o.ty.width, ¬ TileWritten o u.cur e →
          t.cur.elem o.ty.width n.d e = u.cur.elem o.ty.width n.d e) ∧
    (VecReady o (memShape o .s true) fits s u →
      (∀ e, TileWritten o u.cur e → WindowOk u false place 0 (tileOffset o n u.cur e) o.ty.bytes) →
      ∃ t, exec (.spstTile o) s = .next t ∧ ends t ∧ t.cur.regs = u.cur.regs ∧ ∀ a, windowRead t 0 a 1 =
        storedCore o.ty.bytes (fun i => u.cur.elem o.ty.width n.d i) (fun _ => 0)
          (fun e => place (tileOffset o n u.cur e)) (performedTile o u.cur) (fun l a => windowRead u l a 1) 0 a)

namespace Sys2Proof.Claims

/-! ### Small matrices and the matrix engine (R243 to R277) -/

/-- Loads that an access waited for have performed: of the strand only its sets and outstanding loads differ. -/
def Settled (c d : Strand) : Prop := d = { c with taint := d.taint, outTags := d.outTags, later := d.later }

/-- An instruction of a matrix unit, dispatched in state u, that meets no stop: the strand becomes g of it, owns the unit's
state (R153), and retires. Of the device only the window may change. -/
def UnitDone (o : Operands) (sh : Shape) (g : Strand → Strand) (u t : State) : Prop :=
  (∃ c, Settled u.cur c ∧ t.cur.regs = (g c).regs ∧ t.cur.ctxDirty = (g c).ctxDirty ∧
    t.cur.csr = { (g c).csr with li := t.cur.csr.li }) ∧
  (sh.mat = true → t.cur.matUsed = true ∧ (u.cur.core, u.cur.uid) ∈ t.dev.matOwner) ∧
  (sh.sm = true → t.cur.smUsed = true ∧ (u.cur.core, u.cur.uid) ∈ t.dev.smOwner) ∧
  t.others = u.others ∧ t.agenda = u.agenda ∧ t.cur.sup = u.cur.sup ∧ t.cur.farm = u.cur.farm ∧
  t.cur.status = u.cur.status ∧ t.cur.buf = u.cur.buf ∧ t.dev = { u.dev with scratch := t.dev.scratch } ∧
  (∀ a, t.dev.readByte a = u.dev.readByte a) ∧ (NotAtBodyEnd o u.cur → t.cur.pc = after o u.cur)

/-- Its element loop is over: al is vl, vstart 0. -/
def ended (c : Strand) : Strand := (c.setAl c.vl).setVstart 0

/-- The exact sum of numbers; beside it whether it is invalid: a signalling NaN, or infinities of both signs (R185, R196). -/
def sumOf (m : Nat) (l : List Machine.Num) : Machine.Num × Bool :=
  (match l with
    | [] => .zero
    | x :: xs => xs.foldl (fun a y => (a.add m y).1) x,
   l.any Machine.Num.isSnan || (l.contains (.inf true) && l.contains (.inf false)))

/-- The sum of some numbers and of products, which are exact too. -/
def sumProducts (m : Nat) (l : List Machine.Num) (ps : List (Machine.Num × Machine.Num)) : Machine.Num × Bool :=
  let ps := ps.map fun p => p.1.mul p.2
  let z := sumOf m (l ++ ps.map (·.1))
  (z.1, z.2 || ps.any (·.2))

/-- An entry of a lane's result: from the mode, the operands A, B and the old D by row and column, the scalar, and K. -/
abbrev LaneVal := Nat → (Nat → Nat → Machine.Num) → (Nat → Nat → Machine.Num) → (Nat → Nat → Machine.Num) →
  Machine.Num → Nat → Nat → Nat → Machine.Num × Bool

noncomputable def smTable : List ((Operands → Instr) × EOp × LaneVal) :=
  [(.smmul, opSmmul, fun m a b _ _ k r c => sumProducts m [] ((List.range k).map fun j => (a r j, b j c))),
   (.smmac, opSmmac, fun m a b d _ k r c => sumProducts m [d r c] ((List.range k).map fun j => (a r j, b j c))),
   (.smadd, opSmadd, fun m a b _ _ _ r c => (a r c).add m (b r c)),
   (.smsub, opSmsub, fun m a b _ _ _ r c => (a r c).add m (b r c).negate),
   (.smscal, opSmscal, fun _ a _ _ x _ r c => (a r c).mul x)]

/-- Entries rounded one after another, row by row; under sr the lane's state steps once for each (R268). -/
def roundedCorner (ty : Ty) (m : Nat) (fz : Bool) (rows cols : Nat) (val : Nat → Nat → Machine.Num × Bool)
    (sg : BitVec 16) : Mat × BitVec 16 × Flags :=
  (corner rows cols).foldl (fun st e =>
    let sg := if m = 5 then srStep st.2.1 else st.2.1
    let v := val e.1 e.2
    let r := roundTo ty m fz false sg.toNat v.1
    (fun i j => if i = e.1 ∧ j = e.2 then r.1 else st.1 i j, sg, st.2.2.or { r.2 with nv := r.2.nv || v.2 }))
    (fun _ _ => 0, sg, .none)

/-- A lane's result takes its place: flags, entries, the singular bit of the lane (a singular column and those after it
are the canonical NaN), and the lane's rounding state. -/
def laneResult (o : Operands) (n : Names) (lane rows cols : Nat) (clr : Bool) (m : Mat) (sing : Option Nat)
    (sg : BitVec 16) (f : Flags) (c : Strand) : Strand :=
  let c := (c.raise f).putCorner lane n.d rows cols (match sing with
    | some j => fun r k => if k < j then m r k else canonNan o.ty
    | none => m)
  { c with csr := { c.csr with smflag := putBit c.csr.smflag lane (sing.isSome || (!clr && c.csr.smflag.getLsbD lane)) },
           regs := { c.regs with sigma := Store.set c.regs.sigma lane sg } }

/-- Values rounded one after another, each stepping the lane's state under sr (R182, R268): the encodings, the state and the
flags. -/
def roundings (ty : Ty) (m : Nat) (fz : Bool) (sg : BitVec 16) (l : List (Machine.Num × Bool)) : List Nat × BitVec 16 × Flags :=
  l.foldl (fun st v =>
    let sg := if m = 5 then srStep st.2.1 else st.2.1
    let r := roundTo ty m fz false sg.toNat v.1
    (st.1 ++ [r.1], sg, st.2.2.or { r.2 with nv := r.2.nv || v.2 })) ([], sg, .none)

/-- What a lane's computation gives: the matrix, the column at which it is singular, a permutation, the lane's state and the
flags. -/
structure LaneOut where
  m : Mat
  sing : Option Nat
  perm : List Nat
  sg : BitVec 16
  f : Flags

/-- x - Σ of products, exactly, and an exact value divided by a number. -/
def lessProducts (m : Nat) (x : Machine.Num) (ps : List (Machine.Num × Machine.Num)) : Machine.Num × Bool :=
  sumProducts m [x] (ps.map fun p => (p.1.negate, p.2))
def dividedBy (x : Machine.Num × Bool) (y : Machine.Num) : Machine.Num × Bool := ((x.1.div y).1, x.2 || (x.1.div y).2.1)

/-- The numbers from lo on and below hi. -/
def upTo (lo hi : Nat) : List Nat := (List.range hi).filter fun i => decide (lo ≤ i)

/-- R273: the factor l and the pivots d of the lower triangle of a. The columns before the singular one (all n where none is)
are complete; the values of the algorithm, in its order, are rounded to these encodings. -/
def IsCholesky (ty : Ty) (m : Nat) (fz : Bool) (sg : BitVec 16) (n : Nat) (a : Mat) (r : LaneOut) : Prop :=
  ∃ d : Nat → Nat,
    let v := fun (x : Nat) => decodeFz fz ty x
    let last := r.sing.getD n
    let pivot := fun (j : Nat) => lessProducts m (v (a j j)) ((List.range j).map fun k => (v (r.m j k), v (r.m j k)))
    let bad := fun (j : Nat) => (v (d j)).isNan = true ∨ (v (d j)).le .zero = true
    let column := fun (j : Nat) => [(pivot j, d j), ((v (d j)).sqrt, r.m j j)] ++ (upTo (j + 1) n).map fun i =>
      (dividedBy (lessProducts m (v (a i j)) ((List.range j).map fun k => (v (r.m i k), v (r.m j k)))) (v (r.m j j)), r.m i j)
    let steps := (List.range last).flatMap column ++ (if r.sing.isSome then [(pivot last, d last)] else [])
    (r.sing.isSome = true → last < n ∧ bad last) ∧ (∀ j < last, ¬ bad j) ∧ (∀ i c, i < c → r.m i c = 0) ∧
    roundings ty m fz sg (steps.map (·.1)) = (steps.map (·.2), r.sg, r.f)

/-- R274: rows are named as they stand in a. order j is their order before step j, w j their candidates in column j, l and u
the factors' entries, l by original row. -/
def IsLu (ty : Ty) (m : Nat) (fz : Bool) (sg : BitVec 16) (n : Nat) (a : Mat) (r : LaneOut) : Prop :=
  ∃ (order : Nat → Nat → Nat) (w l u : Nat → Nat → Nat) (p : Nat → Nat),
    let v := fun (x : Nat) => decodeFz fz ty x
    let last := r.sing.getD n
    let candidate := fun (j row : Nat) => lessProducts m (v (a row j)) ((List.range j).map fun k => (v (l row k), v (u k j)))
    let candidates := fun (j : Nat) => (upTo j n).map fun i => (candidate j (order j i), w j (order j i))
    let bad := fun (j : Nat) => (∃ i, j ≤ i ∧ i < n ∧ (v (w j (order j i))).isNan = true) ∨
      ∀ i, j ≤ i → i < n → (v (w j (order j i))).isZero = true
    let column := fun (j : Nat) =>
      let row := order (j + 1)
      candidates j ++
      ((upTo (j + 1) n).map fun c =>
        (lessProducts m (v (a (row j) c)) ((List.range j).map fun k => (v (l (row j) k), v (u k c))), u j c)) ++
      (upTo (j + 1) n).map fun i => (dividedBy (v (w j (row i)), false) (v (u j j)), l (row i) j)
    let steps := (List.range last).flatMap column ++ (if r.sing.isSome then candidates last else [])
    (∀ i, order 0 i = i) ∧
    (r.sing.isSome = true → last < n ∧ bad last) ∧
    (∀ j < last, ¬ bad j ∧ j ≤ p j ∧ p j < n ∧ u j j = w j (order j (p j)) ∧
      (∀ i, j ≤ i → i < n → (v (w j (order j (p j)))).abs.lt (v (w j (order j i))).abs = false) ∧
      (∀ i, j ≤ i → i < p j → (v (w j (order j i))).abs.lt (v (w j (order j (p j)))).abs = true) ∧
      ∀ i, order (j + 1) i = order j (if i = p j then j else if i = j then p j else i)) ∧
    (∀ i c, i < n → c < last → r.m i c = if i ≤ c then u i c else l (order last i) c) ∧
    r.perm = (List.range 6).map (fun q => if q < n then order last q else q) ∧
    roundings ty m fz sg (steps.map (·.1)) = (steps.map (·.2), r.sg, r.f)

/-- R275: the columns of the solution in ascending order, each by forward rows, by back rows or both; y are the results of the
forward rows. perm is read in mode 1. -/
def IsSolution (ty : Ty) (m : Nat) (fz : Bool) (sg : BitVec 16) (n cols mode : Nat) (a b : Mat) (perm : List Nat)
    (r : LaneOut) : Prop :=
  let v := fun (x : Nat) => decodeFz fz ty x
  let bad := (∃ j < n, (v (a j j)).isNan = true ∨ (v (a j j)).isZero = true) ∨ (mode = 1 ∧ ¬ ∀ q < n, q ∈ perm)
  (bad → r.sing = some 0 ∧ r.sg = sg ∧ r.f = .none) ∧
  (¬ bad → r.sing = none ∧ ∃ y : Mat,
    let rhs := fun (i c : Nat) => v (b (if mode = 1 then perm.getD i 0 else i) c)
    let forward := fun (i c : Nat) =>
      let z := lessProducts m (rhs i c) ((List.range i).map fun k => (v (a i k), v (y k c)))
      (if mode = 1 then z else dividedBy z (v (a i i)), y i c)
    let back := fun (i c : Nat) =>
      let z := lessProducts m (if mode = 3 then rhs i c else v (y i c)) ((upTo (i + 1) n).map fun k =>
        (v (if mode = 0 then a k i else a i k), v (r.m k c)))
      (dividedBy z (v (a i i)), r.m i c)
    let steps := (List.range cols).flatMap fun c =>
      (if mode = 3 then [] else (List.range n).map fun i => forward i c) ++
      (if mode = 2 then [] else (List.range n).reverse.map fun i => back i c)
    (mode = 2 → ∀ i < n, ∀ c < cols, r.m i c = y i c) ∧
    roundings ty m fz sg (steps.map (·.1)) = (steps.map (·.2), r.sg, r.f))

/-- The result of a factorisation or a solution takes its place in a lane. F: what the rules of the instruction give. -/
def factored (o : Operands) (n : Names) (F : Strand → Nat → LaneOut) (i : Nat) (c : Strand) : Strand :=
  let r := F c i
  laneResult o n (laneNum o i) (smRows o) (smCols o) (decide (o.im 0 1 = 1)) r.m r.sing r.sg r.f c

/-- The bits of a permutation: three for each row (R274). -/
def packedPerm (p : List Nat) : Nat := ((List.range 6).map fun q => p.getD q q * 8 ^ q).sum

/-! #### Operands of MMA and MMAS -/

/-- K index k of a row of a scratchpad operand: readable, and its value (R250). -/
def ScrNumOk (s : State) (ty : Ty) (desc base start : Word) (k : Nat) : Prop :=
  let ok := fun (j n : Nat) => WindowOk s true (scrPlace desc base) 0 (start + BitVec.ofNat 64 j) n
  match ty with
  | .sf4 => ok (5 * (k / 8) + k % 8 / 2) 1 ∧ ok (5 * (k / 8) + 4) 1
  | .e2m1 => ok (k / 2) 1
  | ty => ok (k * ty.bytes) ty.bytes

def scrNumAt (s : State) (ty : Ty) (desc base start : Word) (k : Nat) : Machine.Num :=
  let byte := fun (j n : Nat) => windowRead s 0 (scrPlace desc base (start + BitVec.ofNat 64 j)) n
  match ty with
  | .sf4 => ((decodeFloat .e2m1 (byte (5 * (k / 8) + k % 8 / 2) 1 / 2 ^ (4 * (k % 2)) % 16)).mul
      (e3m5 (byte (5 * (k / 8) + 4) 1))).1
  | .e2m1 => decodeFloat .e2m1 (byte (k / 2) 1 / 2 ^ (4 * (k % 2)) % 16)
  | ty => decodeFloat ty (byte (k * ty.bytes) ty.bytes)

/-- Row m of A and column x of B at a scratch address: tiles of 48 rows or 64 columns. -/
def rowStart (desc base : Word) (per m : Nat) : Word :=
  base + BitVec.ofNat 64 (m / per * (desc.toNat / 65536 % 65536) + m % per * (desc.toNat % 65536))

def valA (o : Operands) (f : MmaForm) (n : Names) (s : State) (t m j : Nat) : Machine.Num :=
  if f.aScr then scrNumAt s f.aTy (s.cur.s f.aDesc) (s.cur.s n.a) (rowStart (s.cur.s f.aDesc) (s.cur.s n.a) 48 m)
    (t * f.kt + j)
  else matNum f.aTy (s.cur.elem o.ty.width n.a (t * (s.cur.tm * f.kt) + m * f.kt + j))
def valB (o : Operands) (f : MmaForm) (n : Names) (s : State) (t x k : Nat) : Machine.Num :=
  if f.bScr then scrNumAt s f.bTy (s.cur.s f.bDesc) (s.cur.s n.b) (rowStart (s.cur.s f.bDesc) (s.cur.s n.b) 64 x)
    (t * f.kw + k)
  else matNum f.bTy (s.cur.elem o.ty.width n.b (t * (f.kw * s.cur.tn) + x * f.kw + k))

/-- Every entry that k-step t reads from the scratchpad can be read. -/
def StepReadable (f : MmaForm) (n : Names) (s : State) (t : Nat) : Prop :=
  (f.aScr = true → ∀ m < s.cur.tm, ∀ j < f.kt, ScrNumOk s f.aTy (s.cur.s f.aDesc) (s.cur.s n.a)
    (rowStart (s.cur.s f.aDesc) (s.cur.s n.a) 48 m) (t * f.kt + j)) ∧
  (f.bScr = true → ∀ x < s.cur.tn, ∀ k < f.kw, ScrNumOk s f.bTy (s.cur.s f.bDesc) (s.cur.s n.b)
    (rowStart (s.cur.s f.bDesc) (s.cur.s n.b) 64 x) (t * f.kw + k))

/-- K-step t (R251): every accumulator of the tile takes its old value plus its kt products, rounded once to F32. A signalling
NaN of either slice sets NV, also one that no kept element names. -/
def kStepped (o : Operands) (f : MmaForm) (n : Names) (s : State) (t : Nat) (c : Strand) : Strand :=
  let cells := (corner c.tm c.tn).map fun e =>
    let v := sumProducts rne [decodeFloat .f32 (c.tileAt o.d.toNat e.1 e.2).toNat]
      ((List.range f.kt).map fun j => (valA o f n s t e.1 j, valB o f n s t e.2 (keptIndex o f c t e.1 j)))
    let r := roundTo .f32 rne false false 0 v.1
    (e, r.1, { r.2 with nv := r.2.nv || v.2 })
  let signals := (corner c.tm f.kt).any (fun e => (valA o f n s t e.1 e.2).isSnan) ||
    (corner c.tn f.kw).any fun e => (valB o f n s t e.1 e.2).isSnan
  cells.foldl (fun c e => c.setTile o.d.toNat e.1.1 e.1.2 (BitVec.ofNat 32 e.2.1))
    (c.raise (cells.foldl (fun acc e => acc.or e.2.2) ⟨signals, false, false, false, false⟩))

/-- The k-steps of a product (R251): tk / kw, and no more than slices of a vector operand lie below vl (R249). -/
def stepsOf (f : MmaForm) (c : Strand) : Nat :=
  ((if f.aScr then [] else [c.vl / (c.tm * f.kt)]) ++ (if f.bScr then [] else [c.vl / (f.kw * c.tn)])).foldl min
    (c.tk / f.kw)

def mmaShape (o : Operands) (f : MmaForm) (c : Strand) : Shape :=
  { tileShape c o.d.toNat o.ty with
    a := if f.aScr then .s else .v, b := if f.bScr then .s else .v,
    more := (if f.aScr then [.s f.aDesc] else []) ++ (if f.bScr then [.s f.bDesc] else []),
    raws := if f.sparse then [f.vM] else [] }

/-- Output j of a stage of stride s (R257): j and j + s, or j - s and j, are a pair with its pinna w. -/
def pairOutput (m : Nat) (w x : Nat → Machine.Num) (s j : Nat) : Machine.Num × Bool :=
  let first := if j &&& s = 0 then j else j - s
  let b := ((first >>> (Nat.log2 s + 1)) <<< Nat.log2 s) ||| (first &&& (s - 1))
  let row := if j &&& s = 0 then 0 else 2
  sumProducts m [] [(w (4 * b + row), x first), (w (4 * b + row + 1), x (first + s))]

/-- A token of a butterfly (R257 to R260): the stages but the last carry their outputs in the carry format, the last rounds
them to TYPE, in ascending order. -/
def tokenDone (o : Operands) (n : Names) (pin : List Machine.Num) (strides : List Nat) (tok : Nat) (c : Strand) : Strand :=
  let l := 2 ^ o.im 0 4
  let cf : Ty := if c.csr.bcfg = 0 then .f32 else .bf16
  let w := fun (q k : Nat) => pin.getD (q * (2 * l) + k) .zero
  let x0 := fun (j : Nat) => decodeFloat o.ty (c.elem o.ty.width n.a (tok * l + j))
  let f0 : Flags := ⟨(List.range l).any fun j => (x0 j).isSnan, false, false, false, false⟩
  let u := strides.dropLast.zipIdx.foldl (fun (st : (Nat → Machine.Num) × Flags) e =>
    let out := fun (j : Nat) =>
      let v := pairOutput rne (w e.2) st.1 e.1 j
      let r := roundTo cf rne false false 0 v.1
      (decodeFloat cf r.1, ({ r.2 with nv := r.2.nv || v.2 } : Flags))
    (fun j => (out j).1, (List.range l).foldl (fun f j => f.or (out j).2) st.2)) (x0, f0)
  let r := (List.range l).foldl (fun (st : List Nat × Store 16 × Flags) j =>
    let lane := laneOf o.ty.width (tok * l + j)
    let sg := srStep (Store.get st.2.1 lane)
    let v := pairOutput (c.mode o) (w (strides.length - 1)) u.1 (strides.getLastD 1) j
    let y := roundTo o.ty (c.mode o) false false sg.toNat v.1
    (st.1 ++ [y.1], if c.mode o = 5 then Store.set st.2.1 lane sg else st.2.1,
      st.2.2.or { y.2 with nv := y.2.nv || v.2 })) ([], c.regs.sigma, u.2)
  let d := ((List.range l).zip r.1).foldl (fun c e => c.setElem o.ty.width n.d (tok * l + e.1) e.2) (c.raise r.2.2)
  { d with regs := { d.regs with sigma := r.2.1 } }

/-- The strides of BFLY and of BCHAIN. -/
def bflyStrides (o : Operands) (c : Strand) : List Nat := [(Store.get c.csr.bs (o.im 4 3)).toNat]
def bchainStrides (o : Operands) (c : Strand) : List Nat :=
  (List.range (o.im 4 3 + 1)).map fun q => (Store.get c.csr.bs q).toNat

end Sys2Proof.Claims

/-- R264 to R269, with vl at most 64: SMLD and SMST move the corner of every active lane's register from and to the
lane's slice, SMGET, SMPUT and SMTRN move entries. -/
def Sys2Proof.Claims.SmallMatrixMoves : Prop :=
  ∀ (o : Operands) (s u : State), s.cur.kern.slice ≤ 16 →
    let n := s.cur.names o
    let lane := laneNum o
    let cells := corner (o.fnBits 3 3 + 1) (o.fnBits 0 3 + 1)
    let done := fun (e : EOp) (i : Instr) (step : Nat → Strand → Strand) =>
      VecReady o (e.sh o) (fun t _ => decide (t.vl ≤ 64)) s u →
      ∃ t, exec i s = .next t ∧ t.dev.scratch = u.dev.scratch ∧
        UnitDone o (e.sh o) (fun c => ended (overElements o c.vl step c)) u t
    let at_ := fun (e : Nat × Nat) => u.cur.s n.a + BitVec.ofNat 64 ((e.1 * (o.fnBits 0 3 + 1) + e.2) * o.ty.bytes)
    ((∀ i, Written o u.cur i → ∀ e ∈ cells, SliceOk u true BitVec.toNat (lane i) (at_ e) o.ty.bytes) →
      done opSmld (.smld o) fun i c => cells.foldl (fun d e => d.setM (lane i) n.d e.1 e.2
        (BitVec.ofNat 64 (c.sliceGet (lane i) (at_ e).toNat o.ty.bytes))) c) ∧
    ((∀ i, Written o u.cur i → ∀ e ∈ cells, SliceOk u false BitVec.toNat (lane i) (at_ e) o.ty.bytes) →
      done opSmst (.smst o) fun i c => cells.foldl (fun d e => d.slicePut (lane i) (at_ e).toNat o.ty.bytes
        ((c.mAt (lane i) n.d e.1 e.2).toNat % 2 ^ o.ty.bits)) c) ∧
    (done opSmget (.smget o) fun i c => c.setElem o.ty.width n.d i
      ((c.mAt (lane i) n.a (o.fnBits 3 3) (o.fnBits 0 3)).toNat % 2 ^ o.ty.bits)) ∧
    (done opSmput (.smput o) fun i c => c.setM (lane i) n.d (o.fnBits 3 3) (o.fnBits 0 3)
      (BitVec.ofNat 64 (c.elem o.ty.width n.a i))) ∧
    done opSmtrn (.smtrn o) fun i c => (corner (o.fnBits 0 3 + 1) (o.fnBits 3 3 + 1)).foldl (fun d e =>
      d.setM (lane i) n.d e.1 e.2 (BitVec.ofNat 64 ((c.mAt (lane i) n.a e.2 e.1).toNat % 2 ^ o.ty.bits))) c

/-- R268, R271 to R276, of shapes up to 6 × 6, with no stop enabled: SMMUL, SMMAC, SMADD, SMSUB and SMSCAL round every
entry once, and SMCHOL, SMLU and SMSOLV give the factors or the solution, the singular bit and, for SMLU, the permutation. -/
def Sys2Proof.Claims.SmallMatrixArithmetic : Prop :=
  ∀ (o : Operands) (s u : State), NoStops s.cur → u.cur.csr.fcsr.getLsbD 21 = false →
    let n := s.cur.names o
    let lane := laneNum o
    let rows := o.fnBits 3 3 + 1
    let cols := o.fnBits 0 3 + 1
    rows ≤ 6 → cols ≤ 6 →
    let ready := fun (e : EOp) => VecReady o (e.sh o) (fun t _ => decide (t.vl ≤ 64)) s u
    let done := fun (e : EOp) (i : Instr) (step : Nat → Strand → Strand) =>
      ∃ t, exec i s = .next t ∧ t.dev.scratch = u.dev.scratch ∧
        UnitDone o (e.sh o) (fun c => ended (overElements o c.vl step c)) u t
    (∀ e ∈ smTable, ready e.2.1 → done e.2.1 (e.1 o) fun i c =>
      let num := fun (m r k : Nat) => decodeFz c.fz o.ty ((c.mAt (lane i) m r k).toNat % 2 ^ o.ty.bits)
      let x := decodeFz c.fz o.ty (if (e.2.1.sh o).b = .v then c.elem o.ty.width n.b i else 0)
      let r := roundedCorner o.ty (c.mode o) c.fz rows cols
        (e.2.2 (c.mode o) (num n.a) (num n.b) (num n.d) x (o.im 0 3 + 1)) (Store.get c.regs.sigma (lane i))
      laneResult o n (lane i) rows cols false r.1 none r.2.1 r.2.2 c) ∧
    (ready opSmchol → rows = cols → ∃ F, (∀ c i, IsCholesky o.ty (c.mode o) c.fz (Store.get c.regs.sigma (lane i)) rows
        (c.entry o.ty (lane i) n.a) (F c i)) ∧
      done opSmchol (.smchol o) (factored o n F)) ∧
    (ready opSmlu → rows = cols → ∃ F, (∀ c i, IsLu o.ty (c.mode o) c.fz (Store.get c.regs.sigma (lane i)) rows
        (c.entry o.ty (lane i) n.a) (F c i)) ∧
      done opSmlu (.smlu o) fun i c =>
        (factored o n F i c).setElem o.ty.width n.b i (packedPerm (F c i).perm)) ∧
    (ready opSmsolv → ∃ F, (∀ c i, IsSolution o.ty (c.mode o) c.fz (Store.get c.regs.sigma (lane i)) rows cols (o.im 1 2)
        (c.entry o.ty (lane i) n.a) (c.entry o.ty (lane i) n.b)
        ((List.range rows).map fun q => (if o.im 1 2 = 1 then c.elem o.ty.width (o.im 3 5) i else 0) / 8 ^ q % 8) (F c i)) ∧
      done opSmsolv (.smsolv o) (factored o n F))

/-- R245 to R247, R255, R256: MSHAPE grants a tile and gives it in sd; MZERO clears the tile and the matrix set; MACCLD
and MACCST move its elements from sA on, scaled and rounded. -/
def Obligations.MatrixTiles : Prop :=
  ∀ (o : Operands) (s u : State),
    let n := s.cur.names o
    (∀ e ∈ [(Instr.mshape o, ([] : List RegId), o.imm.toNat),
        (.mshapeReg o, [.s (o.auxBits 0 5)], (u.cur.s (o.auxBits 0 5)).toNat)],
      let sh : Shape := { cls := .mat, ew := false, d := .s, dTy := .i8, a := .s, b := .s, usesVl := false,
                          usesMif := false, more := e.2.1, mat := true }
      let g := kGranule o.ty (decide (o.fnBits 1 1 = 1))
      let tm := if 96 ≤ (u.cur.s n.a).toNat then 96 else 48
      let tn := if 128 ≤ (u.cur.s n.b).toNat then 128 else 64
      let tk := if e.2.2 = 0 then 0 else max g (min e.2.2 512 / g * g)
      VecReady o sh (fun _ _ => true) s u → ∃ t, exec e.1 s = .next t ∧ UnitDone o sh (fun c =>
        { c.setS n.d (BitVec.ofNat 64 (tm + 2 ^ 16 * tn + 2 ^ 32 * tk)) with
          csr := { c.csr with tm := BitVec.ofNat 32 tm, tn := BitVec.ofNat 32 tn, tk := BitVec.ofNat 32 tk } }) u t) ∧
    (∀ sh : Shape, sh = { tileShape u.cur o.d.toNat .i8 with ew := false, usesVl := false, usesMif := false } →
      VecReady o sh (fun c _ => c.baseOk o.d.toNat) s u → ∃ t, exec (.mzero o) s = .next t ∧ t.cur.taintOf .mat = .empty ∧
        UnitDone o sh (fun c => (corner c.tm c.tn).foldl (fun d e => d.setTile o.d.toNat e.1 e.2 0) c) u t) ∧
    (NoStops s.cur → ∀ sh : Shape, sh = { cls := .mat, rm := true, d := .v, dTy := o.ty, writes := false, a := .s,
                                          b := if o.im 3 1 = 1 then .s else .z, wrote := u.cur.tileIds (o.im 0 3), mat := true } →
      VecReady o sh (accMoveOk o) s u → ∃ t, exec (.maccld o) s = .next t ∧ UnitDone o sh (fun c =>
        ended (overElements o c.vl (fun i c =>
          let lane := laneNum o i
          let e := (c.s n.a).toNat + i
          let v := (decodeFz c.fz o.ty (elD o n c i)).mul (accScale o c)
          let r := roundTo .f32 (c.mode o) c.fz false (c.srNext lane) v.1
          steppedLane (c.mode o) lane ((c.raise { r.2 with nv := r.2.nv || v.2 }).setTile (o.im 0 3) (e / c.tn) (e % c.tn)
            (BitVec.ofNat 32 r.1))) c)) u t) ∧
    (NoStops s.cur → ∀ sh : Shape, sh = { cls := .mat, rm := true, dTy := o.ty, a := .s,
                                          b := if o.im 3 1 = 1 then .s else .z, more := [.mat], mat := true } →
      VecReady o sh (accMoveOk o) s u → ∃ t, exec (.maccst o) s = .next t ∧ UnitDone o sh (fun c =>
        ended (overElements o c.vl (fun i c =>
          let lane := laneNum o i
          let e := (c.s n.a).toNat + i
          let v := (decodeFz c.fz .f32 (c.tileAt (o.im 0 3) (e / c.tn) (e % c.tn)).toNat).mul (accScale o c)
          let r := roundTo o.ty (c.mode o) c.fz (decide (o.im 4 1 = 0)) (c.srNext lane) v.1
          steppedLane (c.mode o) lane ((c.raise { r.2 with nv := r.2.nv || v.2 }).setElem o.ty.width n.d i r.1)) c)) u t)

/-- R248 to R254, with no stop enabled: MMA and MMAS add, in each k-step that guard and mif allow, the products of the
slices of A and B to the tile, each accumulator rounded once; al is the number of k-steps, the least that tk and the slices
below vl allow, and tk what they took. Each completes
so wherever its operands can be read. -/
def Obligations.MatrixProducts : Prop :=
  ∀ (o : Operands) (s u : State), NoStops s.cur →
    let n := s.cur.names o
    let ready := fun (f : MmaForm) =>
      VecReady o (mmaShape o f s.cur) (fun c _ => mmaOk o f o.d.toNat c) s u ∧
      ∀ t, u.cur.csr.vstart.toNat ≤ t → t < stepsOf f u.cur → u.cur.allows o t = true → StepReadable f n u t
    let done := fun (f : MmaForm) (t : State) =>
      t.dev.scratch = u.dev.scratch ∧ UnitDone o (mmaShape o f s.cur) (fun c =>
        let d := overElements o (stepsOf f u.cur) (kStepped o f n u) c
        { d with csr := { d.csr with al := BitVec.ofNat 32 (stepsOf f u.cur), tk := BitVec.ofNat 32 (f.kw * stepsOf f u.cur),
                                     vstart := 0 } }) u t
    (ready (mmaForm o false) → ∃ t, exec (.mma o) s = .next t ∧ done (mmaForm o false) t) ∧
    (ready (mmaForm o true) → ∃ t, exec (.mmas o) s = .next t ∧ done (mmaForm o true) t)

/-- R257 to R260, with no stop enabled: BFLY and BCHAIN run the stages over every token of L elements that guard and mif
allow, with the pinna entries of the scratchpad at sB. -/
def Sys2Proof.Claims.Butterflies : Prop :=
  ∀ (o : Operands) (s u : State), NoStops s.cur →
    ∀ e ∈ [(Instr.bfly o, bflyStrides o u.cur, bflyStrides o), (.bchain o, bchainStrides o u.cur, bchainStrides o)],
    let n := s.cur.names o
    let l := 2 ^ o.im 0 4
    let sh : Shape := { cls := .mat, rm := true, dTy := o.ty, a := .v, b := .s }
    let pt : Ty := if o.im 7 1 = 1 then .e4m3 else .bf16
    let at_ := fun (k : Nat) => u.cur.s n.b + BitVec.ofNat 64 (k * pt.bytes)
    let count := e.2.1.length * (2 * l)
    let pin := (List.range count).map fun k => decodeFloat pt (windowRead u 0 (at_ k).toNat pt.bytes)
    VecReady o sh (fun c _ => c.vl % l == 0 && c.csr.vstart.toNat % l == 0 && (e.2.2 c).all (strideOk l)) s u →
    (u.cur.csr.vstart.toNat < u.cur.vl → ∀ k < count, WindowOk u true BitVec.toNat 0 (at_ k) pt.bytes) →
    ∃ t, exec e.1 s = .next t ∧ t.dev.scratch = u.dev.scratch ∧ UnitDone o sh (fun c =>
      ended (((List.range (c.vl / l)).filter fun k => decide (c.csr.vstart.toNat / l ≤ k)).foldl (fun d k =>
        if d.allows o (k * l) then tokenDone o n pin e.2.1 k d else d) c)) u t

/-- R261, R262: MTRANS transposes the rows × vl elements of a register into another; its scratchpad form moves them, in
tile order, from one place of the window to another. -/
def Sys2Proof.Claims.Transposes : Prop :=
  ∀ (o : Operands) (s u : State),
    let n := s.cur.names o
    let rows := u.cur.csr.rows.toNat
    let sE := o.auxBits 0 5
    (∀ sh : Shape, sh = { cls := .mat, dTy := o.ty, a := .v, usesMif := false } →
      VecReady o sh (fun c n => n.d != n.a && tileFits c n) s u →
      ∃ t, exec (.mtrans o) s = .next t ∧ t.dev.scratch = u.dev.scratch ∧ UnitDone o sh (fun c =>
        ((List.range (rows * u.cur.vl)).foldl (fun d e => d.setElem o.ty.width n.d (e % u.cur.vl * rows + e / u.cur.vl)
          (u.cur.elem o.ty.width n.a e)) c).setVstart 0) u t) ∧
    ∀ sh : Shape, sh = { cls := .mat, d := .s, dTy := .i8, writes := false, a := .s, b := .s, usesMif := false,
                         more := [.s sE] } →
      let w := o.ty.bytes
      let from_ := fun (e : Nat) => let p := tileOrder rows u.cur.vl e
        u.cur.s n.a + BitVec.ofNat 64 (p.1 * ((u.cur.s n.b).toNat % 65536) + p.2 * w)
      let dest := fun (e : Nat) => let p := tileOrder rows u.cur.vl e
        u.cur.s n.d + BitVec.ofNat 64 (p.2 * ((u.cur.s sE).toNat % 65536) + p.1 * w)
      let placeA := scrPlace (u.cur.s n.b) (u.cur.s n.a)
      let placeD := scrPlace (u.cur.s sE) (u.cur.s n.d)
      let es := (List.range (rows * u.cur.vl)).filter fun e => decide (u.cur.csr.vstart.toNat ≤ e)
      VecReady o sh (fun c n => descOk (c.s n.b) && descOk (c.s sE)) s u →
      (∀ e ∈ es, WindowOk u true placeA 0 (from_ e) w ∧ WindowOk u false placeD 0 (dest e) w) →
      ∃ t, exec (.mtransScratch o) s = .next t ∧
        t.dev.scratch = (es.foldl (fun d e => d.scrPut u.cur.group (placeD (dest e)) w
          (d.scrGet u.cur.group (placeA (from_ e)) w)) u.dev).scratch ∧
        UnitDone o sh (fun c =>
          let all := BitVec.ofNat 32 (rows * u.cur.vl)
          { c with csr := { c.csr with al := all, eprog := all, vstart := 0 } }) u t

namespace Sys2Proof.Claims

/-! ### Engines and mailboxes (R138 to R148, R311 to R316, R345 to R353) -/

/-- Every strand has its own number. -/
def OwnNumber (s : State) : Prop := ∀ r ∈ s.others, r.uid ≠ s.cur.uid

/-- n words of a register's slots, the first lowest (R143). -/
def slotWords (c : Strand) (r n : Nat) : Nat := ((List.range n).map fun k => (c.word r k).toNat * 2 ^ (32 * k)).sum

/-- The register's first n slots hold the words of a number; the others and the other registers what they held. -/
def TookWords (r n x : Nat) (c d : Strand) : Prop :=
  (∀ k < n, (d.word r k).toNat = x / 2 ^ (32 * k) % 2 ^ 32) ∧ VectorsBut [r] c d ∧
  ∀ b, 4 * n ≤ b → b < 16384 → d.vBytes r b 1 = c.vBytes r b 1

/-- An instruction that retires with nothing else of its strand changed but what a part names. -/
def Retired (o : Operands) (s t : State) : Prop :=
  t.cur.sup = s.cur.sup ∧ t.cur.farm = s.cur.farm ∧ t.cur.status = s.cur.status ∧
  t.cur.csr = { s.cur.csr with dmap := t.cur.csr.dmap, li := t.cur.csr.li } ∧
  (NotAtBodyEnd o s.cur → t.cur.pc = after o s.cur)

/-- The place where a command's access of n bytes falls (R139, R140): at an address its engine can translate, or in the
pusher's window. It does not depend on what memory and the window hold. -/
def EngAccess (c : Cmd) (d : Device) (sd : Side) (load : Bool) (a : Word) (n : Nat) (p : Place) : Prop :=
  a.toNat % n = 0 ∧ match p with
    | .mem pa => sd.scr = false ∧ (load = true → d.poisoned pa = false) ∧ d.remoteLost pa = false ∧ ∀ m w,
        let d' := { d with mem := m, scratch := w }
        translate c.ctx (if load then .load else .store) (!load) a d' = .ok pa d'
    | .scr k => sd.scr = true ∧ a.toNat < d.windowSize c.group ∧ k = scrPlace sd.desc sd.base a ∧
        (load = true → d.scrBad c.group k = false)

def placeGet (c : Cmd) (d : Device) (p : Place) (n : Nat) : Nat :=
  match p with
  | .mem pa => d.readLE pa n
  | .scr k => d.scrGet c.group k n
def placePut (c : Cmd) (p : Place) (n x : Nat) (d : Device) : Device :=
  match p with
  | .mem pa => d.writeLE pa n x
  | .scr k => d.scrPut c.group k n x

/-- A copy's element without conversion, or a fill's (R140). -/
def copied (c : Cmd) (src_ dst : Nat → Place) (q : Nat) (d : Device) : Device :=
  placePut c (dst q) c.sz (if c.kind = 2 then c.p64 % 2 ^ (8 * c.sz) else placeGet c d (src_ q) c.sz) d

/-- A command that may run: it has started, or it can start now. -/
def MayRun (d : Device) (c : Cmd) (kind : Nat) : Prop :=
  c.kind = kind ∧ portTakes c.port kind = true ∧ (c.state = .started ∨ d.canStart c = true)

/-- No strand waits until commands have ended, to be saved (R150) or with its kill to be completed (R383). -/
def NoneLeaving (s : State) : Prop := ∀ r ∈ s.strands, r.leaving = none ∧ r.dying = none

/-- Scratch windows whose group has neither a live strand nor a command to run are freed (R125, R141). -/
def windowsInUse (s : State) : State :=
  let used := fun (g : Nat) => s.strands.any (fun r => r.live && r.group == g) ||
    s.dev.cmds.any fun c => c.group == g && (decide (c.state = .pushed) || decide (c.state = .started))
  s.onDev fun d => { d with scratch := d.scratch.filter fun w => used w.group }

/-- Nothing settles the node of a strand now: it lists no strand, or one of them lives. -/
def NodeStays (s : State) (p : Strand) : Prop :=
  let l := ((s.dev.queue p.queue).run p.node.toNat).strands
  l = [] ∨ ∃ r ∈ s.strands, r.live = true ∧ r.uid ∈ l

/-- The messages a collective's elements come from, by rank (R313). -/
def collMsgs (d : Device) (c : Cmd) (own : MemberMessage) : List MemberMessage :=
  let g := d.collGroup c.gid
  if isPair c.kind || c.kind == kBcast then (g.msgOf own c.peer).toList
  else (List.range g.members.length).filterMap (g.msgOf own)

/-- Elements that a collective command writes. -/
def collCount (d : Device) (c : Cmd) : Nat :=
  if c.kind = kGather then (d.collGroup c.gid).members.length * c.elems else if c.kind = kSend then 0 else c.elems

/-- Element i of segment k of a member's contribution as it is received (R314): where WIRE is 0 as it was sent, a NaN
canonical (log entry 78); else in F32 by code and scale, the scale bytes behind the codes of the segment. -/
def received (c : Cmd) (m : MemberMessage) (k i : Nat) : Nat :=
  let n := c.elems
  let byte := fun (j : Nat) => (m.data.getD j 0).toNat
  let f32 := fun (x : Machine.Num) => (roundTo .f32 0 false false 0 x).1
  let codes := if c.wire = 3 ∨ c.wire = 4 then n else (n + 1) / 2
  let base := k * (codes + (n + wireBlock c.wire - 1) / wireBlock c.wire)
  let scale := byte (base + codes + i / wireBlock c.wire)
  let nibble := byte (base + i / 2) / 16 ^ (i % 2) % 16
  let times := fun (x : Machine.Num) => match e8m0 scale with
    | some e => x.scale e
    | none => .nan false
  match c.wire with
  | 0 => match c.dtype with
    | 9 => f32 (decodeFloat .f32 (natLE ((m.data.drop (4 * (k * n + i))).take 4)))
    | 10 => (roundTo .bf16 0 false false 0 (decodeFloat .bf16 (natLE ((m.data.drop (2 * (k * n + i))).take 2)))).1
    | _ => natLE ((m.data.drop (k * n + i)).take 1)
  | 1 => f32 (decodeFloat .bf16 (natLE ((m.data.drop (2 * (k * n + i))).take 2)))
  | 2 => f32 ((decodeFloat .e2m1 nibble).mul ((e3m5 scale).mul (decodeFloat .bf16 m.band)).1).1
  | 3 => f32 (times (decodeFloat .e4m3 (byte (base + i))))
  | 4 => f32 (times (decodeFloat .e5m2 (byte (base + i))))
  | _ => f32 (times (decodeFloat .e2m1 nibble))

/-- The fold of elements by ascending rank (R313): in F32, each sum rounded once with rne, or the lesser or greater of two;
a BF16 result is rounded once from there. -/
def reduced (c : Cmd) (xs : List Nat) : Nat :=
  let rd := decodeFloat .f32
  let up := fun (x : Nat) => if c.dtype = 10 then (roundTo .f32 0 false false 0 (decodeFloat .bf16 x)).1 else x
  let step := fun (acc x : Nat) => (roundTo .f32 0 false false 0 (match c.rop with
    | 0 => ((rd acc).add 0 (rd x)).1
    | 1 => chosen false (rd acc) (rd x)
    | _ => chosen true (rd acc) (rd x))).1
  let all := (xs.drop 1).foldl (fun acc x => step acc (up x)) (up (xs.headD 0))
  if c.dtype = 10 then (roundTo .bf16 0 false false 0 (rd all)).1 else all

/-- Destination element j from the members' messages, by rank (R313). -/
def destValue (c : Cmd) (rank : Nat) (msgs : List MemberMessage) (j : Nat) : Nat :=
  match c.kind with
  | 0x10 => match msgs[j / c.elems]? with
    | some m => received c m 0 (j % c.elems)
    | none => 0
  | 0x11 => reduced c (msgs.map fun m => received c m rank j)
  | 0x12 => reduced c (msgs.map fun m => received c m 0 j)
  | _ => match msgs.head? with
    | some m => received c m 0 j
    | none => 0

/-- A message of the command's collective does not agree with it (R315). -/
def Differs (g : CollGroup) (c : Cmd) (own : MemberMessage) : Prop :=
  ∃ k < g.members.length, ∃ m, g.msgOf own k = some m ∧ c.agrees m = false

/-- Another member's command of the collective has ended with a status other than OK (R316). -/
def PeerEnded (g : CollGroup) (own : MemberMessage) : Prop := ∃ a ∈ g.aborts ++ g.sentAborts, abortEnds own a = true

/-- TIMEOUT has passed and some member has not joined (R312, R316). -/
def Overdue (d : Device) (c : Cmd) (own : MemberMessage) : Prop :=
  c.limit ≠ 0 ∧ c.joinedAt + c.limit ≤ d.gtime.toNat ∧ d.allJoined c own = false

/-- The collective can end with OK (R313, R315, R316). -/
def CollReady (d : Device) (c : Cmd) (own : MemberMessage) : Prop :=
  let g := d.collGroup c.gid
  c.state = .started ∧ c.own = some own ∧ ¬ Differs g c own ∧ ¬ PeerEnded g own ∧ ¬ Overdue d c own ∧
  ∀ k ∈ c.needs g.members.length own.rank, ∃ m, g.msgOf own k = some m

/-- Another member's data that belongs to a command has been heard (R317). -/
def dataThere (g : CollGroup) (own : MemberMessage) : Bool :=
  (List.range g.members.length).any fun k => k != own.rank && (g.msgOf own k).any fun m => !m.data.isEmpty

/-- The waits from push to the first member's data that end where a group becomes another (R317). -/
def dataWaits (d : Device) (before after_ : CollGroup) : List (Nat × Nat × Nat) :=
  d.cmds.filterMap fun c => c.own.bind fun own =>
    if c.state = .started ∧ c.gid = before.gid ∧ dataThere before own = false ∧ dataThere after_ own = true then
      some (0x27, c.engine.2, d.gtime.toNat - c.pushedAt) else none

/-- A collective command of a member ends with a status other than OK: the group keeps the abort that goes to the other
members (R316). -/
def CollFails (id : Nat) (c : Cmd) (rank st : Nat) (s t : State) : Prop :=
  t.cur = s.cur ∧ t.others = s.others ∧ t.agenda = s.agenda ∧ t.dev.mem = s.dev.mem ∧
  t.dev.cmd id = some { c with state := .ended st 0 0 } ∧
  (t.dev.collGroup c.gid).sentAborts = (s.dev.collGroup c.gid).sentAborts ++
    [⟨c.gid, rank, c.seq, c.kind, if isPair c.kind then c.tag else 0, if isPair c.kind then c.peer else 0⟩]

noncomputable def collKinds : List ((Nat → Instr) × Nat) :=
  [(.allgather, 0x10), (.redscat, 0x11), (.allred, 0x12), (.bcast, 0x13), (.sendColl, 0x14), (.recvColl, 0x15)]

end Sys2Proof.Claims

/-- R143 to R147: the engine instructions. EPUSH takes the command from the register after the strand's earlier stores,
or waits where the engine is full; EPOP gives the oldest record, or NOREC, or waits; EPOLL, EVRD, EVSET and WAITEV. EPUSH of a
register bound to a stream is ILL, which the model's log entry 80 chooses; so is EPOP to one (R118). -/
def Obligations.EngineInstructions : Prop :=
  ∀ (o : Operands) (s : State), OwnNumber s →
    let port := o.eng 0 3
    let k := o.eng 0 4
    let a := o.a.toNat
    (s.cur.bindOf a ≠ none → exec (.epush o) s = .next (s.trap .ill (parcel0 o) s.cur.pc false)) ∧
    (∀ u, s.cur.bindOf a = none → InFile [a] s u →
      let q := quiet (u.cur.taintOf (.v a)) u
      let words := BitVec.ofNat 1024 (slotWords u.cur a 32)
      let cmd := q.cur.command s.dev.nextCmd port q.dev.gtime.toNat words
      (q.dev.engineFull port s.cur.core = false → ∃ t, exec (.epush o) s = .next t ∧ Retired o u t ∧ t.others = u.others ∧
        t.cur.regs = u.cur.regs ∧ t.cur.buf = [] ∧ t.cur.ev = (q.cur.notePush cmd).ev ∧
        t.dev = { q.dev with cmds := q.dev.cmds ++ [cmd], nextCmd := q.dev.nextCmd + 1 }) ∧
      (q.dev.engineFull port s.cur.core = true → ∃ t, exec (.epush o) s = .next t ∧ t.others = u.others ∧
        t.cur = { q.cur with status := .waiting (.push port words) (after o s.cur) } ∧ t.dev = q.dev)) ∧
    (s.cur.bindOf o.d.toNat ≠ none → exec (.epop o) s = .next (s.trap .ill (parcel0 o) s.cur.pc false)) ∧
    (∀ u, s.cur.bindOf o.d.toNat = none → o.d.toNat < 64 → InFile [o.d.toNat] s u →
      (∀ j r, s.cur.recs.findIdx? (fun e => e.1 == port) = some j → s.cur.recs[j]? = some r →
        (∀ c ∈ s.dev.cmds, c.uid = s.cur.uid → c.port = port → c.completed = false) →
        ∃ t, exec (.epop o) s = .next t ∧ Retired o u t ∧ t.others = u.others ∧ TookWords o.d.toNat 8 r.2.toNat u.cur t.cur ∧
          t.cur.recs = s.cur.recs.eraseIdx j ∧ t.dev = u.dev) ∧
      (s.cur.recs.findIdx? (fun e => e.1 == port) = none →
        (∀ c ∈ s.dev.cmds, c.uid = s.cur.uid → c.port = port → c.flag 0 = true → c.node ≠ 0) →
        ∃ t, exec (.epop o) s = .next t ∧ Retired o u t ∧ t.others = u.others ∧
          TookWords o.d.toNat 8 (2 ^ 128 * 0xFF) u.cur t.cur ∧ t.dev = u.dev) ∧
      (s.cur.recs.findIdx? (fun e => e.1 == port) = none →
        (∃ c ∈ s.dev.cmds, c.uid = s.cur.uid ∧ c.port = port ∧ c.flag 0 = true ∧ c.node = 0) →
        ∃ t, exec (.epop o) s = .next t ∧ t.others = u.others ∧
          t.cur = { u.cur with status := .waiting (.epop port o.d.toNat) (after o s.cur) } ∧ t.dev = u.dev)) ∧
    exec (.epoll o) s = .next (s.onCur fun c =>
      (c.putS o.d.toNat (BitVec.ofNat 64 (c.recs.filter fun e => e.1 == port).length) []).retire o) ∧
    exec (.evrd o) s = .next (s.onCur fun c => (c.putS o.d.toNat (c.evCtr k).val []).retire o) ∧
    exec (.evset o) s = .next (s.onCur fun c =>
      (c.setEv k ⟨c.s a, decide (o.eng 4 1 = 1), c.s a, []⟩).retire o) ∧
    (let n := (s.cur.s o.b.toNat).toNat + (if o.form = .x96 then o.imm.toNat else 0)
     (n ≤ (s.cur.evCtr k).val.toNat → exec (.waitev o) s = .next (s.onCur (·.retire o))) ∧
     ((s.cur.evCtr k).val.toNat < n →
      exec (.waitev o) s = .next (s.onCur fun c => { c with status := .waiting (.waitev k n) (after o c) })))

/-- R139 to R142: COPY_6D, FILL_COPY and SCRATCH_INSTALL. A malformed command ends with 0x80; an element that stops ends
the command with its status and the number of elements moved; otherwise every element is moved in loop order and the
command ends with status 0, SCRATCH_INSTALL tagging its slot. Its group's window is freed with its last command where no
strand of the group lives (R125, R141). R148: a timed command starts at its time. -/
def Sys2Proof.Claims.CopyCommands : Prop :=
  ∀ (id : Nat) (s : State) (c : Cmd), s.dev.cmd id = some c →
    (c.flag 1 = true → s.dev.canStart c = true →
      exec (.timedCommandStart id) s = .next (s.onDev fun d => d.setCmd { c with state := .started })) ∧
    (NoneLeaving s → ∀ e ∈ [(Instr.copy6d id, 1), (.fillCopy id, 2), (.scratchInstall id, 3)], MayRun s.dev c e.2 →
      let ended := fun (d : Device) (st n a : Nat) => exec e.1 s = .next (windowsInUse { s with dev := d.setCmd { c with
        state := .ended st n a } })
      let tagged := fun (d : Device) =>
        if c.kind = 3 then d.tagSlot c.group (c.dest.base.toNat / 4096) (BitVec.ofNat 64 c.p64) else d
      (c.copyOk = false → ended s.dev 0x80 0 0) ∧
      (c.copyOk = true → (c.kind = 3 → s.dev.installCheck c = none) →
        (∀ ps d q z x, engLoop c c.total 0 ⟨0, []⟩ [] s.dev = (ps, some (q, z, x), d) → x.page = none →
          ended (d.engClean c ps) x.status q x.addr) ∧
        (∀ ps d, engLoop c c.total 0 ⟨0, []⟩ [] s.dev = (ps, none, d) →
          ended (tagged (d.engClean c ps)) 0 c.total 0) ∧
        ∀ src_ dst : Nat → Place, c.conv = 0 →
          (∀ q < c.total, (c.kind ≠ 2 → EngAccess c s.dev c.source true (c.source.at_ (c.offset 12 0 q)) c.sz (src_ q)) ∧
            EngAccess c s.dev c.dest false (c.dest.at_ (c.offset 18 0 q)) c.sz (dst q)) →
          ended (tagged (((List.range c.total).foldl (fun d q => copied c src_ dst q d) s.dev).engClean c
            ((List.range c.total).map dst).reverse)) 0 c.total 0))

/-- R145, R147: an ended command of a strand completes: its record, if it wants one, joins the strand's queue, or is held
while the queue is full; its event counter counts it; it leaves its engine. -/
def Sys2Proof.Claims.CommandsComplete : Prop :=
  ∀ (id : Nat) (s : State) (c : Cmd) (p : Strand) (st pr ad : Nat), s.dev.cmd id = some c → c.state = .ended st pr ad →
    c.node = 0 → c.flag 3 = false → s.find c.uid = some p → NodeStays s p → NoneLeaving s → p.away = false →
    let k := c.w 0 / 2 ^ 16 % 16
    let wanted := c.flag 0 && !c.drop
    let room := decide ((p.recs.filter fun e => e.1 == c.port).length < 64) &&
      !(s.dev.cmds.any fun x => x.uid == c.uid && x.port == c.port && x.completed)
    let left := s.dev.cmds.filter fun x => x.id != id
    ∃ t p', exec (.commandCompletion id) s = .next t ∧ t.find c.uid = some p' ∧ p'.regs = p.regs ∧ p'.sup = p.sup ∧
      p'.recs = (if wanted && room then p.recs ++ [(c.port, c.record st pr ad)] else p.recs) ∧
      t.dev = (windowsInUse (s.onDev fun d => { d with
        cmds := if wanted && !room then left ++ [{ c with state := .held st pr ad }] else left })).dev ∧
      p'.evCtr k = (if c.flag 2 then (p.evCtr k).complete id else p.evCtr k) ∧ (∀ j, j ≠ k → p'.evCtr j = p.evCtr j) ∧
      ∀ u, u ≠ c.uid → t.find u = s.find u

/-- R307, R311 to R316: a collective command starts by taking its number in the group and giving its message to the others,
and once what it needs has been heard and agrees it writes its elements and ends with OK. It ends with LINKDOWN where no
route reaches a member it needs, with MISMATCH where a message of its number does not agree, with PEERABORT where that
member's command has ended otherwise, with TIMEOUT where a member has not joined in time; each of these it tells the others (the model's log entries 97, 105 and
112). -/
def Obligations.Collectives : Prop :=
  ∀ (id : Nat) (s : State), NoneLeaving s → windowsInUse s = s →
    (∀ e ∈ collKinds, ∀ c : Cmd, s.dev.cmd id = some c → c.kind = e.2 → c.port = 2 →
      (s.dev.canStart c = true → ∀ g m d, collStart c s.dev = .ok (g, m) d →
        let needed := if isPair c.kind then [g.members.getD c.peer 0] else g.members
        let x := s.dev.collGroup g.gid
        let began := { c with state := .started, seq := m.seq, limit := g.limit, joinedAt := s.dev.gtime.toNat, gid := g.gid,
                              own := some m }
        ∃ t, exec (e.1 id) s = .next t ∧ t.cur = s.cur ∧ t.others = s.others ∧ t.agenda = s.agenda ∧
          (t.dev.collGroup g.gid).sent = x.sent ++ [m] ∧ (t.dev.collGroup g.gid).members = g.members ∧
          (isPair c.kind = false → m.seq = x.next ∧ (t.dev.collGroup g.gid).next = x.next + 1) ∧
          (isPair c.kind = true → (t.dev.collGroup g.gid).next = x.next ∧ (t.dev.collGroup g.gid).nextOf c = m.seq + 1) ∧
          ((∀ k ∈ needed, k ∉ s.dev.unreachable) → t.dev.cmd id = some began) ∧
          ((∃ k ∈ needed, k ∈ s.dev.unreachable) → ∃ st, t.dev.cmd id = some { began with state := .ended st 0 0 } ∧
            let y := { x with heard := x.heard, members := g.members, sent := x.sent ++ [m] }
            (Differs y began m → st = 0x90) ∧ (¬ Differs y began m → PeerEnded y m → st = 0x91) ∧
            (¬ Differs y began m → ¬ PeerEnded y m → st = 0x93))) ∧
      (s.dev.canStart c = true → ∀ x d, collStart c s.dev = .error x d → x.page = none →
        ∃ t c', exec (e.1 id) s = .next t ∧ t.cur = s.cur ∧ t.others = s.others ∧ t.agenda = s.agenda ∧
          t.dev.cmd id = some c' ∧ c'.state = .ended x.status 0 x.addr ∧
          ∀ g, (∃ d', readDesc c d = .ok g d') ∨ (∃ a d' e d'', readHead c d = .ok (g, a) d' ∧
              eng (vread c.ctx (addr64 a) (2 * g.size)) d' = .error e d'') →
            c'.gid = g.gid ∧ c'.seq = (s.dev.collGroup g.gid).nextOf c ∧
            (t.dev.collGroup g.gid).nextOf c = (s.dev.collGroup g.gid).nextOf c + 1 ∧
            ∃ a ∈ (t.dev.collGroup g.gid).sentAborts, a.rank = g.rank ∧ a.seq = c'.seq ∧ a.kind = c.kind) ∧
      (∀ own (dst : Nat → Place), CollReady s.dev c own →
        let n := collCount s.dev c
        let w := (dtypeTy c.dtype).bytes
        let at_ := fun (j : Nat) => BitVec.ofNat 64 (c.w64 3 + j * w)
        (∀ j < n, EngAccess c s.dev ⟨false, 0, 0⟩ false (at_ j) w (dst j)) →
        ∃ t, exec (e.1 id) s = .next t ∧ t.cur = s.cur ∧ t.others = s.others ∧ t.agenda = s.agenda ∧
          t.dev.cmds = (s.dev.setCmd { c with
            state := .ended 0 (if c.kind = kGather then n else c.elems) 0 }).cmds ∧
          t.dev.mem = ((List.range n).foldl (fun d j =>
            placePut c (dst j) w (destValue c own.rank (collMsgs s.dev c own) j) d) s.dev).mem ∧
          t.dev = { s.dev with mem := t.dev.mem, poison := t.dev.poison, cmds := t.dev.cmds,
                               scratch := t.dev.scratch }) ∧
      ∀ own, c.state = .started → s.dev.canStart c = false → c.own = some own →
        let g := s.dev.collGroup c.gid
        (Differs g c own → ∃ t, exec (e.1 id) s = .next t ∧ CollFails id c own.rank 0x90 s t) ∧
        (¬ Differs g c own → PeerEnded g own → ∃ t, exec (e.1 id) s = .next t ∧ CollFails id c own.rank 0x91 s t) ∧
        (¬ Differs g c own → ¬ PeerEnded g own → Overdue s.dev c own →
          ∃ t, exec (e.1 id) s = .next t ∧ CollFails id c own.rank 0x92 s t)) ∧
    (∀ m : MemberMessage, ∃ t, exec (.collectiveMemberMessage m) s = .next t ∧ t.cur = s.cur ∧ t.others = s.others ∧
      t.dev = { s.dev with groups := t.dev.groups, waits := t.dev.waits } ∧
      t.dev.waits = s.dev.waits ++ dataWaits s.dev (s.dev.collGroup m.gid) (t.dev.collGroup m.gid) ∧
      t.dev.collGroup m.gid = { s.dev.collGroup m.gid with heard := (s.dev.collGroup m.gid).heard ++ [m] } ∧
      ∀ g, g ≠ m.gid → t.dev.collGroup g = s.dev.collGroup g) ∧
    (∀ a : MemberAbort, ∃ t, exec (.collectiveAbort a.gid a.seq ⟨a.rank, a.kind, a.tag, a.peer⟩) s = .next t ∧ t.cur = s.cur ∧ t.others = s.others ∧
      t.dev = { s.dev with groups := t.dev.groups } ∧
      t.dev.collGroup a.gid = { s.dev.collGroup a.gid with aborts := (s.dev.collGroup a.gid).aborts ++ [a] } ∧
      ∀ g, g ≠ a.gid → t.dev.collGroup g = s.dev.collGroup g) ∧
    ∀ c own, s.dev.cmd id = some c → c.state = .started → c.own = some own → Overdue s.dev c own →
      let g := s.dev.collGroup c.gid
      ∃ t st, exec (.collectiveTimeout id) s = .next t ∧ CollFails id c own.rank st s t ∧ (Differs g c own → st = 0x90) ∧
        (¬ Differs g c own → PeerEnded g own → st = 0x91) ∧ (¬ Differs g c own → ¬ PeerEnded g own → st = 0x92)

/-- R345 to R352: MBSEND and GLAUNCH put a message and the sender's word into a mailbox the strand may send to, and answer
0, or 1 where its ring is full; MBRECV takes the message that comes to its ticket, or waits; MBPOLL counts. Without the
right each is PRIV. MBRECV to a register bound to a stream is ILL (R118), and so is MBSEND of one, which the model's log
entry 80 chooses. -/
def Sys2Proof.Claims.Mailboxes : Prop :=
  ∀ (o : Operands) (s : State), s.cur.status = .running → OwnNumber s →
    let n := o.im 0 6
    let cap := s.cap s.cur n
    let priv := fun (i : Instr) => exec i s = .next (s.trap .priv (BitVec.ofNat 64 n) s.cur.pc false)
    let sent := fun (u : State) (i : Instr) (x : Taint) (mb : Nat) (msg : BitVec 512) =>
      let q := quiet x u
      let full := decide (32 ≤ (q.dev.mbox mb).ring.length)
      ∃ t, exec i s = .next t ∧ Retired o u t ∧ t.agenda = u.agenda ∧ ScalarsBut [o.d.toNat] u.cur t.cur ∧
        (o.d.toNat ≠ 0 → t.cur.s o.d.toNat = if full then 1 else 0) ∧ t.cur.regs = { u.cur.regs with s := t.cur.regs.s } ∧
        t.others = (if full then u.others else u.others.map fun r => if u.receives r mb then r.wake else r) ∧
        (t.dev.mbox mb).ring = (if full then (q.dev.mbox mb).ring else
          (q.dev.mbox mb).ring ++ [(msg, BitVec.ofNat 32 (s.cur.vf % 64 * 256 + s.cur.agent % 256))]) ∧
        (∀ k, k ≠ mb → t.dev.mbox k = q.dev.mbox k) ∧ (t.dev.mbox mb).owner = (q.dev.mbox mb).owner ∧
        t.dev = { q.dev with mboxes := t.dev.mboxes }
    let freeA := s.cur.bindOf o.a.toNat = none
    let freeD := s.cur.bindOf o.d.toNat = none
    (¬ freeA → exec (.mbsend o) s = .next (s.trap .ill (parcel0 o) s.cur.pc false)) ∧
    (¬ freeD → exec (.mbrecv o) s = .next (s.trap .ill (parcel0 o) s.cur.pc false)) ∧
    (cap = none → (freeA → priv (.mbsend o)) ∧ priv (.glaunch o) ∧ (freeD → priv (.mbrecv o)) ∧ priv (.mbpoll o)) ∧
    ∀ k : Cap, cap = some k →
      (k.snd = false → (freeA → priv (.mbsend o)) ∧ priv (.glaunch o)) ∧ (k.l = false → priv (.glaunch o)) ∧
      (k.rcv = false → (freeD → priv (.mbrecv o)) ∧ priv (.mbpoll o)) ∧
      (∀ u, k.snd = true → freeA → InFile [o.a.toNat] s u → sent u (.mbsend o) (u.cur.taintOf (.v o.a.toNat)) k.mbox
        (BitVec.ofNat 512 (slotWords u.cur o.a.toNat 16))) ∧
      (k.snd = true → k.l = true → sent s (.glaunch o) (s.cur.unionOf [.s o.a.toNat, .s o.b.toNat]) k.mbox
        (BitVec.ofNat 512 (1 + 2 ^ 64 * (s.cur.s o.a.toNat).toNat + 2 ^ 128 * (s.cur.s o.b.toNat).toNat))) ∧
      (k.rcv = true → exec (.mbpoll o) s = .next (s.onCur fun c =>
        (c.putS o.d.toNat (BitVec.ofNat 64 (s.dev.mbox k.mbox).ring.length) []).retire o)) ∧
      ∀ u, k.rcv = true → freeD → o.d.toNat < 64 → InFile [o.d.toNat] s u →
        let me := (s.dev.nextTicket, 4 * s.cur.core + s.cur.slot)
        let ring := (s.dev.mbox k.mbox).ring
        let mine := (s.dev.mbox k.mbox).owner = .agent s.cur.agent ∧
          ∀ x ∈ s.tickets k.mbox, me.1 < x.1 ∨ (me.1 = x.1 ∧ me.2 ≤ x.2)
        (∀ m rest, mine → ring = m :: rest → ∃ t, exec (.mbrecv o) s = .next t ∧ Retired o u t ∧ t.others = u.others ∧
          TookWords o.d.toNat 17 (m.1.toNat + 2 ^ 512 * m.2.toNat) u.cur t.cur ∧
          (t.dev.mbox k.mbox).ring = rest ∧ (∀ j, j ≠ k.mbox → t.dev.mbox j = s.dev.mbox j) ∧
          t.dev = { u.dev with mboxes := t.dev.mboxes, nextTicket := s.dev.nextTicket + 1 }) ∧
        (¬ mine ∨ ring = [] → ∃ t, exec (.mbrecv o) s = .next t ∧ t.others = u.others ∧
          t.cur = { u.cur with status := .waiting (.mbrecv k.mbox o.d.toNat s.dev.nextTicket) (after o s.cur) } ∧
          t.dev = { u.dev with nextTicket := s.dev.nextTicket + 1 })

/-- R353, R361: GSIG answers 2 where the address is no node of an active graph of its agent that accepts signals, 1 where
the node does not wait, and 0 after one DONE decrement; an address that is no multiple of 64 is ALIGN. -/
def Sys2Proof.Claims.SignalsFromPrograms : Prop :=
  ∀ (o : Operands) (s : State) (pa : Nat),
    let a := s.cur.s o.a.toNat
    let q := quiet (s.cur.taintOf (.s o.a.toNat)) s
    let answers := fun (d : Device) (x : Word) => exec (.gsig o) s = .next { (q.onCur fun c =>
      (c.putS o.d.toNat x [.s o.a.toNat]).retire o) with dev := d }
    (a.toNat % 64 ≠ 0 → exec (.gsig o) s = .next (s.trap .align a s.cur.pc false)) ∧
    (a.toNat % 64 = 0 → Translates q .store a pa → q.dev.poisoned pa = false →
      (q.dev.queueOfNode s.cur.vf s.cur.agent a.toNat = none → answers q.dev 2) ∧
      ∀ n, q.dev.queueOfNode s.cur.vf s.cur.agent a.toNat = some n →
        ((q.dev.readByte (pa + 3)).toNat % 2 = 0 → answers q.dev 2) ∧
        ((q.dev.readByte (pa + 3)).toNat % 2 = 1 → (q.dev.readByte (pa + 1)).toNat ≠ 1 → answers q.dev 1) ∧
        ((q.dev.readByte (pa + 3)).toNat % 2 = 1 → (q.dev.readByte (pa + 1)).toNat = 1 →
          ∀ d, propagate n manyDecrs [(a.toNat, .done)] q.dev = .ok () d → answers d 0))

/-- R319, R392: a strand that waits goes on, with its instruction retired, once what it waits for has happened: the counter
has come to its count, the time has come, the barrier has another generation, a record or a message is there and its
register has been named (R158; poison in its backing area kills, R384), or the engine has room. The device may end a wait of WFE at any time. -/
def Sys2Proof.Claims.WaitsEnd : Prop :=
  ∀ (u : Nat) (s : State) (p : Strand) (next : Word), s.find u = some p →
    let goes := fun (q : State) (f : Strand → Strand) => exec (.strandWaitEnd u) s = .next (q.upd u fun c => (f c).endWait next)
    (∀ ev n, p.status = .waiting (.waitev ev n) next → n ≤ (p.evCtr ev).val.toNat → goes s id) ∧
    (∀ x : Word, p.status = .waiting (.wfe x) next →
      ((x ≠ 0 ∧ x.toNat ≤ s.dev.gtime.toNat) ∨ p.preempt = some 0 → goes s id) ∧
      ∃ t, exec (.wfeWaitEndByDevice u) s = .next t ∧ t.find u = some (p.endWait next) ∧ t.dev = s.dev ∧
        ∀ v, v ≠ u → t.find v = s.find v) ∧
    (∀ gen g, p.status = .waiting (.fbar gen) next → s.barGen p = some g → g ≠ gen → goes s id) ∧
    (∀ vd n words q, (∃ port r, p.status = .waiting (.epop port vd) next ∧ s.popRecord p port = some (r, q) ∧ n = 8 ∧
        words = r.toNat) ∨
        (∃ mb k, p.status = .waiting (.mbrecv mb vd k) next ∧ s.takeMail u mb k = some (words, q) ∧ n = 17) →
      (∀ v, q.nameFor u [vd] = some v → goes v fun c => c.putWords vd n words) ∧
      (q.nameFor u [vd] = none → ∃ p', q.find u = some p' ∧
        exec (.strandWaitEnd u) s = .next (q.kill u 7 p'.plainEv))) ∧
    ∀ port cmd, p.status = .waiting (.push port cmd) next → s.dev.engineFull port p.core = false →
      goes (s.push u port cmd) id

namespace Sys2Proof.Claims

/-! ### Element-thread blocks, launch, pre-emption (R318, R332 to R336, R358 to R388) -/

/-- What VTB leaves when its threads have ended (R335): bit i of pd says whether thread i stopped, trim names the first
that did, the streams that they read move on by vl (the model's log entry 31), a convoy opens. -/
def blockOver (o : Operands) (c0 : Strand) (rs : List (Nat × Option Stop)) (c : Strand) : Strand :=
  let c := rs.foldl (fun c r => c.setP o.d.toNat r.1 r.2.isSome) c
  let c := match rs.find? fun e => e.2.isSome with
    | some (i, some e) => c.setTrim e.trimCause i
    | _ => c
  (c.addTaint (.p o.d.toNat) (c0.unionOf [.vl, .p c0.csr.mif.toNat])).consumed.closeConvoy

/-- The threads of a block: elements below vl whose bit of p[mif] is 1 (R333). -/
def threadElems (c : Strand) : List Nat := (List.range c.vl).filter fun i => c.p c.csr.mif.toNat i

/-- The address of VTB's block. -/
def blockAddr (o : Operands) (c : Strand) : Word := c.pc + 4 * o.simm

/-- The strand that R318 starts: pc at the kernel's entry, s1 on from the launch record, level, grant, farm record and
trap registers as the launch gives them, everything else as reset leaves it. -/
def StartsAs (p : Plan) (t : Strand) : Prop :=
  t.status = .running ∧ t.pc = p.entry ∧ t.farm = p.farm ∧ t.kern = p.kern ∧
  (∀ k < 8, t.s (k + 1) = p.args.getD k 0) ∧ (∀ k, 9 ≤ k → t.s k = 0) ∧
  t.csr = { Csrs.reset with gvl := t.csr.gvl, level := BitVec.ofNat 2 p.level } ∧ t.sup.tlevel = 0 ∧
  t.regs = { Regs.reset with s := t.regs.s } ∧ t.taint = [] ∧ t.buf = [] ∧ t.nest = .none ∧ t.convoy = .closed ∧
  t.recs = [] ∧ t.binds = [] ∧ t.wins = [] ∧ t.ev = [] ∧ t.preempt = none ∧ t.leaving = none ∧ t.dying = none ∧
  t.step1 = false

/-- A burst has nothing more to launch: the state it ends with once every ready node and every candidate is offered, where no
candidate can be placed. Receivers that begin to wait in a burst share a ticket (R347). -/
def BurstOver (s t : State) : Prop :=
  let o := (s.onDev fun d => { d with due := false }).offerAll
  o.decide1 = none ∧ o.dev.due = false ∧ t = o.onDev fun d => { d with nextTicket := d.nextTicket + 1 }

/-- A read of the walker that its kept translations answer. -/
def WalkReads (d : Device) (q va n x : Nat) : Prop := wget q va n d = .ok x d

end Sys2Proof.Claims

/-- R333 to R335: VTB runs a thread for every element below vl that mif allows, from the block's address, and retires with
pd and trim telling which stopped; a refused instruction traps with ILL_BLOCK after that, and a decode or dispatch cause of a
block's instruction is taken at that instruction (R52). A thread ends at VTEND, and VTNEXT branches where its element's bit of
pa is 1. VTEND and VTNEXT outside a block are ILL. -/
def Obligations.ElementThreads : Prop :=
  ∀ (o : Operands) (s : State),
    (∀ i ∈ [Instr.vtend o, .vtendL64 o, .vtnext o], exec i s = .next (s.trap .ill (parcel0 o) s.cur.pc false)) ∧
    (s.cur.nestHere = false →
      let block := threads (blockAddr o s.cur) (threadElems s.cur) (s.onCur fun c => c.unread (c.binds.map (·.reg)))
      (∀ c v s', block = .error (.cause c v) s' → exec (.vtb o) s = .next (s'.trap c v s'.cur.pc false)) ∧
      ∀ rs s', block = .ok rs s' →
      (firstRefused rs = none → exec (.vtb o) s = .next (s'.onCur fun c => (blockOver o s.cur rs c).retire o)) ∧
      ∀ v, firstRefused rs = some v → exec (.vtb o) s =
        .next ((s'.onCur (blockOver o s.cur rs)).trap .illBlock v s'.cur.pc true)) ∧
    ∀ (a : Word) (f : Form) (p0 p1 p2 : Nat) (r : Row),
      fetchParcels a s = .ok (f, p0, p1, p2) s → classifyRow s.cur.csr.level.toNat (unpack f p0 p1 p2) = .ok r →
      let u := unpack f p0 p1 p2
      u.cv = false →
      (r.mn = Mnem.vtend ∨ r.mn = Mnem.vtendL64 → (∀ i, threadStep i a s = .ok .done s) ∧
        ∀ l, threads a l s = .ok (l.map fun i => (i, none)) s) ∧
      (r.mn = Mnem.vtnext → ∀ i, threadStep i a s = .ok (.go (if s.cur.p u.a.toNat i then a + 4 * u.simm else
        a + BitVec.ofNat 64 (lenOf u))) s)

/-- R358, R359, R365: a COMPUTE node that is ready is offered once its launch can be read and could be placed on empty
cores, and fails at once otherwise. R318, R365, R367: a strand it places starts as R318 says, on a core of the mask that
can take it, with the largest grant its core allows. -/
def Sys2Proof.Claims.NodesLaunch : Prop :=
  ∀ (q n : Nat) (s : State),
    (∀ d, s.dev.isReady q n = true → WalkReads s.dev q n 1 1 → ∀ p, readPlan q n s.dev = .ok (some p) d →
      let s' : State := { s with dev := d }
      (s'.placeable q (addr64 n) p = true → ∃ t, exec (.computeNode q n) s = .next t ∧
        t = s'.onDev fun d => d.updRun q n fun r => { r with offered := true }) ∧
      (s'.placeable q (addr64 n) p = false → ∀ d', failNode q n false d = .ok () d' →
        exec (.computeNode q n) s = .next { s with dev := d' })) ∧
    ∀ (p : Plan) (cores : List Nat) (s' : State), p.args.length ≤ 8 →
      s.placeNew q (addr64 n) p cores = some s' →
      ∃ t, s'.others = s.others ++ [t] ∧ s'.cur = s.cur ∧ StartsAs p t ∧ t.core ∈ cores ∧ t.slot < 4 ∧
        t.queue = q ∧ t.node = addr64 n ∧ t.agent = (s.dev.queue q).agent ∧ t.vf = (s.dev.queue q).vf ∧
        (∀ r ∈ s.strands, r.resident = true → r.core = t.core → r.slot ≠ t.slot) ∧
        t.uid = s.dev.nextUid ∧ ((s'.dev.queue q).run (addr64 n).toNat).strands =
          ((s.dev.queue q).run (addr64 n).toNat).strands ++ [t.uid]

/-- R363, R364: a burst of decisions launches candidates until none can be placed; in each decision a candidate that can
be placed goes before those of lower effective priority. A queue offers its candidate from when it became that; one that has
waited 10 ms reserves its cores. R388: RESUME clears HALTED in the saved context and offers the strand again. -/
def Sys2Proof.Claims.SchedulingDecisions : Prop :=
  ∀ s : State,
    let burst := fun (i : Instr) (s : State) =>
      (∀ t, BurstOver s t → exec i s = .next t) ∧
      ∀ s' t, ((s.onDev fun d => { d with due := false }).offerAll).decide1 = some s' → BurstOver s' t → exec i s = .next t
    burst .schedulingDecision s ∧
    (∀ q c s', s.candidate q = some c → q < 64 → s.effPrio q c < 10 →
      (∀ q' c', q' < 64 → q' ≠ q → s.candidate q' = some c' → s.effPrio q' c' < s.effPrio q c) →
      s.launch q c (s.openCores s.candidates q (s.effPrio q c)) = some s' →
      s.decide1 = some (s'.onDev fun d => { d.updQueue q fun qu => { qu with reserved := false, offer := none } with
        rr := (s.effPrio q c, q) :: d.rr.filter fun e => e.1 != s.effPrio q c })) ∧
    (∀ q c, s.candidate q = some c →
      (∀ since, (s.dev.queue q).offer = some (c.key.1, c.key.2, since) → exec (.candidateReservation q) s = .next (s.onDev fun d =>
        d.updQueue q fun qu => { qu with reserved := decide (since + 10000000 ≤ s.dev.gtime.toNat) })) ∧
      ((∀ since, (s.dev.queue q).offer ≠ some (c.key.1, c.key.2, since)) → exec (.candidateReservation q) s = .next (s.onDev fun d =>
        d.updQueue q fun qu => { qu with offer := some (c.key.1, c.key.2, s.dev.gtime.toNat), reserved := false }))) ∧
    ∀ (u : Nat) (p : Strand) (w : Option (Wait × Word)) (area x : Nat) (bs : List Byte) (d d' : Device),
      s.find u = some p → p.status = .halted w → p.leaving = none → p.ctxArea = some area →
      (∀ r ∈ s.strands, r.uid = u → r = p) → gpread p.vf (area + 0x10) 8 s.dev = .ok bs d → natLE bs = 2 ^ 4 + x →
      x.testBit 4 = false → gpwrite p.vf (area + 0x10) (bytesLE 8 x) d = .ok () d' →
      ∀ t, BurstOver (({ s with dev := d' } : State).upd u fun c =>
          { c with status := .preempted w, offered := s.dev.gtime.toNat, step1 := false }) t →
        exec (.resumeStrand u) s = .next t

/-- R150, R378, R379, R380, R383, R387: a request becomes pending at a boundary, the nearer where one is pending already, and at once
in a strand that waits; taken, it saves
the strand in its context area, with no register changed and its stores performed. The last strand of a group is saved only
once no command writes into the window any more. A kill by the device ends the strand; its record, and the slot that it frees, wait for its running
commands. -/
def Obligations.PreemptionAndKill : Prop :=
  ∀ (u : Nat) (s : State) (p : Strand), s.find u = some p → (∀ r ∈ s.strands, r.uid = u → r = p) →
    (∀ b, p.live = true → (∀ w next, p.status ≠ .waiting w next) →
      (p.preempt = none → exec (.preemptionRequest u b) s = .next (s.upd u fun c => { c with preempt := some b })) ∧
      ∀ k, p.preempt = some k →
        exec (.preemptionRequest u b) s = .next (s.upd u fun c => { c with preempt := some (min b k) })) ∧
    (∀ b w next, p.status = .waiting w next → (∀ x, w ≠ .wfe x) →
      exec (.preemptionRequest u b) s = .next (s.upd u fun c => { c with preempt := some 0 })) ∧
    (∀ b x next, p.status = .waiting (.wfe x) next →
      exec (.preemptionRequest u b) s = .next (s.upd u fun c => { c with preempt := some 0 }.endWait next)) ∧
    (p.status = .running → p.preempt = some 0 → (p.sup.tlevel = 0 ∨ p.sup.pre = true) →
      let halts := p.step1
      let st : Status := if halts then .halted none else .preempted none
      let kept := fun (p' : Strand) => p'.status = st ∧ p'.preempt = none ∧ p'.buf = [] ∧ p'.regs = p.regs ∧ p'.csr = p.csr ∧
        p'.sup = p.sup ∧ p'.pc = p.pc ∧ p'.nest = p.nest
      (s.dev.window p.group = none → s.dev.scratchBusy p.group = false → ∀ area d, p.ctxArea = some area →
        saveBytes { p with status := st, preempt := none, step1 := false, stepDone := false, buf := [], leaving := none,
                           offered := s.dev.gtime.toNat } area false halts none (s.dev.performAll p.buf) = .ok () d →
        ∃ t p', exec (.preemptionTake u) s = .next t ∧ t.find u = some p' ∧ kept p' ∧ p'.taint = [] ∧ p'.leaving = none ∧
          t.dev = { d.dropResident u with due := true } ∧ ∀ v, v ≠ u → t.find v = s.find v) ∧
      ((∀ r ∈ s.strands, r.uid ≠ u → r.group = p.group → r.resident = false) → s.dev.scratchBusy p.group = true →
        ∃ t p', exec (.preemptionTake u) s = .next t ∧ t.find u = some p' ∧ kept p' ∧ p'.leaving = some (false, halts) ∧
          t.dev = s.dev.performAll p.buf ∧ ∀ v, v ≠ u → t.find v = s.find v)) ∧
    ∀ reason, 6 ≤ reason → reason ≤ 8 → p.live = true →
      ∃ t, exec (.contextKill u reason) s = .next t ∧ (NoneRuns s u → (p.vf, 2) ∈ t.dev.msix) ∧
        ∀ r ∈ t.strands, r.uid = u → r.status = .killed ∧ r.buf = [] ∧
          (¬ NoneRuns s u → r.dying.isSome = true ∧ r.resident = true)

namespace Sys2Proof.Claims

/-! ### The graph walker (R356 to R362, R369, R370) -/

/-- A node starts: it was ready, its kind is the one named, and the walker marks it running. -/
def NodeStarts (s : State) (q n kind : Nat) (d : Device) : Prop :=
  s.dev.isReady q n = true ∧ WalkReads s.dev q n 1 kind ∧ startNode q n s.dev = .ok () d

/-- OP of COND and LOOP (R358). -/
def opHolds (op : Nat) (w v : Word) : Prop :=
  (op = 0 ∧ w = v) ∨ (op = 1 ∧ w ≠ v) ∨ (op = 2 ∧ w.toInt < v.toInt) ∨ (op = 3 ∧ v.toInt ≤ w.toInt) ∨
  (op = 4 ∧ w.toNat < v.toNat) ∨ (5 ≤ op ∧ v.toNat ≤ w.toNat)

/-- No node of the queue is offered any more, and nothing is reserved for one (R364). -/
def noNodes (qu : Queue) : Queue :=
  if qu.offer.any fun e => e.1 == 1 then { qu with offer := none, reserved := false } else qu

/-- The first k of a list take one decrement, the rest another. -/
def twoWays (l : List Nat) (k : Nat) (a b : Decr) : List (Nat × Decr) :=
  l.zipIdx.map fun e => (e.1, if e.2 < k then a else b)

end Sys2Proof.Claims

/-- R361: what one decrement does to a waiting node: PRED falls by 1 and the decrement is remembered. At 0 the node fails
if one of them was FAIL, becomes ready if one was DONE, and is otherwise skipped, with SKIP for its successors. A node
that does not wait, or that is none of the graph's, takes nothing. -/
def Sys2Proof.Claims.NodeDecrements : Prop :=
  ∀ (q n pred : Nat) (k : Decr) (d d' : Device), (d.queue q).isNode n = true → WalkReads d q (n + 1) 1 1 →
    WalkReads d q (n + 4) 2 (pred + 1) → wput q (n + 4) 2 pred d = .ok () d' →
    let d2 := d'.updRun q n fun r => { r with got := r.got ++ [k] }
    let got := ((d2.queue q).run n).got
    (pred ≠ 0 → applyDecr q n k d = .ok [] d2) ∧
    (pred = 0 → Decr.fail ∈ got → ∀ d3 l d4, markFailed q n d2 = .ok () d3 → failPolicy q n false d3 = .ok l d4 →
      applyDecr q n k d = .ok l d4) ∧
    (pred = 0 → Decr.fail ∉ got → Decr.done ∈ got → applyDecr q n k d = becomeReady q n d2) ∧
    (pred = 0 → Decr.fail ∉ got → Decr.done ∉ got → ∀ d3 l, putState q n 6 d2 = .ok () d3 → successors q n d3 = .ok l d3 →
      applyDecr q n k d = .ok (l.map fun a => (a, .skip)) d3) ∧
    ∀ m st, ((d.queue q).isNode m = false → applyDecr q m k d = .ok [] d) ∧
      ((d.queue q).isNode m = true → WalkReads d q (m + 1) 1 st → st ≠ 1 → WalkReads d q (m + 4) 2 pred →
        applyDecr q m k d = .ok [] d)

/-- R356: the walker takes the oldest message of its control mailbox while no node is ready or running and no ABORT is under
way. A malformed LAUNCH, and
one whose records cannot be re-armed, sets GSTATE 4 and leaves the graph as it was; a sound one re-arms every record, makes the
graph active with zero counts and GSTATE 1, and makes ready every node whose PINIT is 0. -/
def Sys2Proof.Claims.GraphsLaunch : Prop :=
  ∀ (q : Nat) (s : State) (msg : BitVec 512) (from_ : BitVec 32) (rest : List (BitVec 512 × BitVec 32)),
    let qu := s.dev.queue q
    let b := s.dev.mbox qu.cmbox
    b.owner = .control q → b.ring = (msg, from_) :: rest →
    (qu.busy = true ∨ qu.aborting = true → exec (.launchGraph q) s = .next s) ∧
    (qu.busy = false → qu.aborting = false →
      let d0 := s.dev.setMbox qu.cmbox { b with ring := rest }
      let bad := msg.toNat % 2 ^ 64 ≠ 1 ∨ msg.toNat / 2 ^ 192 ≠ 0 ∨ msg.toNat / 2 ^ 64 % 64 ≠ 0 ∨
        msg.toNat / 2 ^ 128 % 2 ^ 64 = 0 ∨ 65536 < msg.toNat / 2 ^ 128 % 2 ^ 64
      (bad → ∀ d, putStatus q (d0.updQueue q fun qu => { qu with gstate := 4 }) = .ok () d →
        exec (.launchGraph q) s = .next { s with dev := d }) ∧
      (¬ bad →
        let nodes := msg.toNat / 2 ^ 64 % 2 ^ 64
        let n := msg.toNat / 2 ^ 128 % 2 ^ 64
        (∀ e d1 d2, rearmAll q nodes n 0 d0 = .error e d1 →
          putStatus q (d1.updQueue q fun qu => { qu with gstate := 4 }) = .ok () d2 →
          exec (.launchGraph q) s = .next { s with dev := d2 }) ∧
        ∀ d1 d2 d3, rearmAll q nodes n 0 d0 = .ok () d1 →
          putStatus q { d1.updQueue q fun qu => { noNodes qu with
            active := true, nodes := nodes, ncount := n, ndone := 0, nfail := 0, gstate := 1, runs := [] } with
            due := true } = .ok () d2 →
          readyAll q nodes n 0 d2 = .ok () d3 → exec (.launchGraph q) s = .next { s with dev := d3 }))

/-- R358 to R360: COND, SWITCH and LOOP choose the decrements of their successors by a word of memory; TIMED is done when
gtime has come to T. -/
def Sys2Proof.Claims.ControlNodes : Prop :=
  ∀ (q n : Nat) (s : State) (d d' : Device),
    (∀ addr w v mask op nt succ, NodeStarts s q n 3 d → WalkReads d q (n + 0x18) 8 addr → addr % 8 = 0 →
      WalkReads d q addr 8 w → WalkReads d q (n + 0x20) 8 v → WalkReads d q (n + 0x28) 8 mask →
      WalkReads d q (n + 0x30) 1 op → WalkReads d q (n + 0x12) 2 nt → successors q n d = .ok succ d →
      ∀ l, (opHolds op (BitVec.ofNat 64 w &&& BitVec.ofNat 64 mask) (BitVec.ofNat 64 v) → l = twoWays succ nt .done .skip) →
      (¬ opHolds op (BitVec.ofNat 64 w &&& BitVec.ofNat 64 mask) (BitVec.ofNat 64 v) → l = twoWays succ nt .skip .done) →
      doneNode q n l d = .ok () d' → exec (.condNode q n) s = .next { s with dev := d' }) ∧
    (∀ addr w mask succ, NodeStarts s q n 5 d → WalkReads d q (n + 0x18) 8 addr → addr % 8 = 0 → WalkReads d q addr 8 w →
      WalkReads d q (n + 0x20) 8 mask → successors q n d = .ok succ d →
      doneNode q n (succ.zipIdx.map fun e => (e.1, if e.2 = min (BitVec.ofNat 64 w &&& BitVec.ofNat 64 mask).toNat
        (succ.length - 1) then .done else .skip)) d = .ok () d' → exec (.switchNode q n) s = .next { s with dev := d' }) ∧
    (∀ addr w v op nt itmax runs succ, NodeStarts s q n 4 d → WalkReads d q (n + 0x18) 8 addr → addr % 8 = 0 →
      WalkReads d q addr 8 w → WalkReads d q (n + 0x20) 8 v → WalkReads d q (n + 0x30) 1 op →
      WalkReads d q (n + 0x12) 2 nt → WalkReads d q (n + 0x36) 2 itmax → WalkReads d q (n + 0x14) 4 runs →
      successors q n d = .ok succ d →
      let again := opHolds op (BitVec.ofNat 64 w) (BitVec.ofNat 64 v) ∧ (itmax = 0 ∨ runs < itmax)
      (¬ again → doneNode q n ((succ.drop nt).map fun a => (a, .done)) d = .ok () d' →
        exec (.loopNode q n) s = .next { s with dev := d' }) ∧
      (again → ∀ back k at_ l d1 d2 d3 d4, WalkReads d q (n + 0x32) 2 back → WalkReads d q (n + 0x34) 2 k →
        WalkReads d q (n + 0x28) 8 at_ → wgetWords q at_ k d = .ok l d → rearmList q l d = .ok () d1 →
        wput q (n + 0x14) 4 (runs + 1) d1 = .ok () d2 → wput q (n + 4) 2 back d2 = .ok () d3 →
        wput q (n + 1) 1 1 d3 = .ok () d4 →
        propagate q manyDecrs ((succ.take nt).map fun a => (a, .done))
          (d4.updQueue q fun qu => { qu with runs := qu.runs.filter fun r => r.node != n }) = .ok () d' →
        exec (.loopNode q n) s = .next { s with dev := d' })) ∧
    ∀ t, NodeStarts s q n 8 d → WalkReads d q n 1 8 → WalkReads d q (n + 0x18) 8 t →
      (t ≤ d.gtime.toNat → doneAll q n d = .ok () d' → exec (.timedNode q n) s = .next { s with dev := d' }) ∧
      (d.gtime.toNat < t → exec (.timedNode q n) s = .next { s with dev := d })

/-- R359, R362: COPY pushes its command with flags 0 and 2 clear, flag 3 set and words 26 and 27 naming the node; it stays
ready while its engine is full. When the command has ended the node is done, or has failed, also where its graph has ended. -/
def Sys2Proof.Claims.CopyNodes : Prop :=
  ∀ (q n : Nat) (s : State),
    (∀ core port : Nat, WalkReads s.dev q (n + 0x20) 1 core → WalkReads s.dev q (n + 0x21) 1 port →
    (s.dev.engineFull port core = true → exec (.copyNode q n) s = .next s) ∧
    ∀ d a x, s.dev.engineFull port core = false → NodeStarts s q n 2 d → WalkReads d q (n + 0x18) 8 a →
      WalkReads d q a 128 x → 1 ≤ x % 256 → x % 256 ≤ 3 → x < 2 ^ 1024 →
      ∃ (t : State) (c : Cmd), exec (.copyNode q n) s = .next t ∧ t.cur = s.cur ∧ t.others = s.others ∧
        t.dev = { d with nextCmd := d.nextCmd + 1, cmds := d.cmds ++ [c] } ∧ c.id = d.nextCmd ∧ c.core = core ∧
        c.port = port ∧ c.node = n ∧ c.queue = q ∧ c.vf = (d.queue q).vf ∧ c.agent = (d.queue q).agent ∧
        c.state = .pushed ∧ c.flag 0 = false ∧ c.flag 2 = false ∧ c.flag 3 = true ∧ c.w64 26 = n % 2 ^ 64 ∧
        c.kind = x % 256 ∧ ∀ k, 1 ≤ k → k ≤ 31 → k ≠ 26 → k ≠ 27 → c.w k = x / 2 ^ (32 * k) % 2 ^ 32) ∧
    ∀ (id st pr ad : Nat) (c : Cmd) (d' : Device), s.dev.cmd id = some c → c.state = .ended st pr ad → c.node = n → n ≠ 0 →
      c.queue = q → c.drop = false → ((s.dev.queue q).run n).launched = true → NoneLeaving s →
      let left := { s.dev with cmds := s.dev.cmds.filter fun x => x.id != c.id }
      (st = 0 → doneAll q n left = .ok () d' → exec (.commandCompletion id) s = .next (windowsInUse { s with dev := d' })) ∧
      (st ≠ 0 → failNode q n true left = .ok () d' → exec (.commandCompletion id) s = .next (windowsInUse { s with dev := d' }))

/-- R347, R350, R359, R362: MAIL and END send to the mailbox of a capability, and are done when the message is accepted; a
refused send is tried again 1 µs later. END's message is its cookie and the counts, and the graph is no longer active.
WAITMAIL takes the oldest message of its agent's mailbox into its buffer once no other receiver began to wait before it; of
those that began in one clock it comes after every strand. -/
def Sys2Proof.Claims.MailNodes : Prop :=
  ∀ (q n : Nat) (s : State) (d d' : Device),
    let qu := d.queue q
    let sender := BitVec.ofNat 32 (0x8000 + qu.vf % 64 * 256 + qu.agent % 256)
    let later := fun (i : Instr) => exec i s = .next { s with dev := d.updRun q n fun r => { r with
      readyAt := d.gtime.toNat } }
    let mail := fun (i : Instr) => ∀ c a msg k, WalkReads d q (n + 0x20) 1 c → WalkReads d q (n + 0x18) 8 a →
      WalkReads d q a 64 msg → queueCap q (c % 64) d = .ok (some k) d → k.snd = true →
      (d.mboxFull k.mbox = true → later i) ∧
      (d.mboxFull k.mbox = false → doneAll q n (d.accept k.mbox (BitVec.ofNat 512 msg) sender) = .ok () d' →
        exec i s = .next ({ s with dev := d' }.wakeMail k.mbox))
    let over_ := fun (e : Device) => { e.updQueue q fun qu => { noNodes qu with
      active := false, runs := qu.runs.filter fun r => r.launched && r.node != n } with due := true }
    let silent := fun (i : Instr) => ∀ b d2, WalkReads d q (n + 0x18) 1 b → b / 64 % 2 = 0 → putState q n 4 d = .ok () d2 →
      exec i s = .next { s with dev := over_ d2 }
    let reply := fun (i : Instr) => silent i ∧ ∀ b cookie k d2, WalkReads d q (n + 0x18) 1 b → WalkReads d q (n + 0x20) 8 cookie →
      b / 64 % 2 = 1 → queueCap q (b % 64) d = .ok (some k) d → k.snd = true →
      (d.mboxFull k.mbox = true → later i) ∧
      (d.mboxFull k.mbox = false → putState q n 4 (d.accept k.mbox
          (BitVec.ofNat 512 (cookie + 2 ^ 64 * (qu.ndone % 2 ^ 64) + 2 ^ 128 * (qu.nfail % 2 ^ 64))) sender) = .ok () d2 →
        exec i s = .next ({ s with dev := over_ d2 }.wakeMail k.mbox))
    (NodeStarts s q n 6 d → WalkReads d q n 1 6 → mail (.mailNode q n)) ∧
    (d = s.dev → ((qu.run n).readyAt + 1000 ≤ d.gtime.toNat) → (∃ r ∈ qu.runs, r.node = n ∧ r.launched = true) →
      (WalkReads d q n 1 6 → mail (.mailRetry q n)) ∧ (WalkReads d q n 1 9 → reply (.mailRetry q n))) ∧
    (∀ d1, NodeStarts s q n 9 d1 → putStatus q (d1.updQueue q fun qu => { qu with gstate := 2 }) = .ok () d →
      WalkReads d q n 1 9 → reply (.endNode q n)) ∧
    ∀ d1 c k, NodeStarts s q n 7 d1 → WalkReads d1 q (n + 0x20) 1 c → queueCap q (c % 64) d1 = .ok (some k) d1 →
      k.rcv = true → d = { d1.updRun q n fun r => { r with ticket := d1.nextTicket, mbox := k.mbox + 1 } with
        nextTicket := d1.nextTicket + 1 } → WalkReads d q n 1 7 →
      let s' : State := { s with dev := d }
      let ring := (d.mbox k.mbox).ring
      let mine := (d.mbox k.mbox).owner = .agent (d.queue q).agent ∧
        ∀ x ∈ s'.tickets k.mbox, d1.nextTicket < x.1 ∨ (x.1 = d1.nextTicket ∧ 1024 + q ≤ x.2)
      (¬ mine ∨ ring = [] → exec (.waitmailNode q n) s = .next s') ∧
      ∀ msg rest a d2, mine → ring = msg :: rest → WalkReads d q (n + 0x18) 8 a →
        wputBytes q a (bytesLE 64 msg.1.toNat) d = .ok () d2 → doneAll q n (d2.takeMsg k.mbox 0) = .ok () d' →
        exec (.waitmailNode q n) s = .next { s with dev := d' }

/-- R295, R362, R369, R370: a COMPUTE node is complete when its strands have ended and their commands are done; a launch past
its budget has its strands pre-empted once, or is killed with REASON 4; an ABORT that is to come wins; ABORT ends the graph
with GSTATE 3, once no killed strand has commands that run still (R383, the model's log entry 111). -/
def Sys2Proof.Claims.GraphEnds : Prop :=
  ∀ (q n : Nat) (s : State) (d' : Device),
    let qu := s.dev.queue q
    let run := qu.run n
    let mine := fun (u : Nat) => run.strands.contains u
    (run.strands ≠ [] → (∀ r ∈ s.strands, mine r.uid = true → r.live = false ∧ r.dying = none) →
      (∀ c ∈ s.dev.cmds, mine c.uid = true → c.completed = true) → run.failedStrand = false →
      doneAll q n { s.dev with cmds := s.dev.cmds.filter fun c => !(mine c.uid) } = .ok () d' →
      exec (.nodeComplete q n) s = .next { s with others := s.others.filter (fun r => !(mine r.uid)), dev := d' }) ∧
    (qu.abort = true ∨ run.overran = true → exec (.budgetOverrun q n) s = .next s) ∧
    (qu.abort = false → run.overran = false → run.launched = true → run.strands ≠ [] → s.dev.budgetOf q n ≠ 0 →
      s.dev.budgetOf q n < run.ran →
      (qu.requeueKill = false → run.requeues < qu.ovrmax → exec (.budgetOverrun q n) s = .next
        ((s.onDev fun d => d.updRun q n fun r => { r with overran := true, requeues := r.requeues + 1 }).mapStrands fun c =>
          if mine c.uid then c.requestPreempt 0 else c)) ∧
      ((qu.requeueKill = true ∨ qu.ovrmax ≤ run.requeues) → exec (.budgetOverrun q n) s = .next (s.killNode q n 4))) ∧
    (qu.abort = true → qu.runs = [] → qu.active = true ∨ qu.aborting = true → (∀ c ∈ s.dev.cmds, c.queue = q → c.node = 0) →
      putStatus q { s.dev.updQueue q fun qu => { noNodes qu with
        active := false, aborting := false, runs := [], abort := false, gstate := 3 } with due := true } = .ok () d' →
      exec (.queueAbort q) s = .next { s with
        others := s.others.filter (fun r => r.live || r.dying.isSome || r.queue != q), dev := d' }) ∧
    (qu.abort = true → ((s.abortKill q).dev.queue q).runs ≠ [] → exec (.queueAbort q) s = .next (s.abortKill q))

namespace Sys2Proof.Claims

/-! ### The host port, code objects (R395 to R411) -/

/-- A function of the host port reaches the device. -/
def HostReaches (s : State) (vf : Nat) : Prop := s.dev.hostUp = true ∧ vf < 64

/-- A function's admin command of an OP is under way. -/
def AdminRuns (s : State) (vf op : Nat) : Prop :=
  HostReaches s vf ∧ (s.dev.fpage vf).admbusy = true ∧ ((s.dev.fpage vf).adm 0).toNat = op

/-- Word k of the command. -/
def word_ (s : State) (vf k : Nat) : Nat := ((s.dev.fpage vf).adm k).toNat

/-- The command ends: it runs no more, its status stands, and vector 0 signals (R397, R401). -/
def adminEnds (vf st : Nat) (d : Device) : Device :=
  { d.setFpage vf { d.fpage vf with admbusy := false, admstat := st } with msix := d.msix ++ [(vf, 0)] }

/-- The commands with status OK whose arguments name one object: what they need, and what they do to the device. -/
abbrev AdminRow := (Nat → Instr) × Nat × (State → Nat → Prop) × (State → Nat → Device → Device)

noncomputable def adminRows1 : List AdminRow :=
  [(.agentDestroy, 2, fun s vf => word_ s vf 1 < 256 ∧ ownerOf s.dev.aOwner (word_ s vf 1) = vf ∧
      (s.dev.agentOf (word_ s vf 1) vf).isSome = true ∧ s.agentInUse (word_ s vf 1) = false,
     fun s vf d => { d with agents := d.agents.filter fun e => e.1 != word_ s vf 1 }),
   (.mboxSet, 4, fun s vf => word_ s vf 1 < 4096 ∧ word_ s vf 2 / 2 % 128 = 0 ∧ word_ s vf 2 / 65536 = 0 ∧
      (word_ s vf 2 % 2 = 1 → word_ s vf 2 / 256 < 64) ∧ ownerOf s.dev.mOwner (word_ s vf 1) = vf ∧
      ownerOf (if word_ s vf 2 % 2 = 1 then s.dev.qOwner else s.dev.aOwner) (word_ s vf 2 / 256) = vf,
     fun s vf d => d.setMbox (word_ s vf 1) ⟨if word_ s vf 2 % 2 = 1 then .control (word_ s vf 2 / 256)
      else .agent (word_ s vf 2 / 256), []⟩),
   (.ctxpool, 5, fun s vf => word_ s vf 1 < 64 ∧ word_ s vf 2 % 4096 = 0 ∧ word_ s vf 3 % 4096 = 0 ∧
      ownerOf s.dev.qOwner (word_ s vf 1) = vf ∧ s.queueInUse (word_ s vf 1) = false,
     fun s vf d => d.updQueue (word_ s vf 1) fun qu => { qu with poolBase := word_ s vf 2, poolSize := word_ s vf 3 }),
   (.debugOff, 7, fun s vf => word_ s vf 1 < 64 ∧ word_ s vf 2 = 0 ∧ ownerOf s.dev.qOwner (word_ s vf 1) = vf,
     fun s vf d => d.updQueue (word_ s vf 1) fun qu => { qu with debug := false }),
   (.debugOn, 7, fun s vf => word_ s vf 1 < 64 ∧ word_ s vf 2 = 1 ∧ ownerOf s.dev.qOwner (word_ s vf 1) = vf,
     fun s vf d => d.updQueue (word_ s vf 1) fun qu => { qu with debug := true })]

/-- The owners of the objects of a kind of ASSIGN. -/
def objectOwners (d : Device) (kind : Nat) : List (Nat × Nat) :=
  if kind = 0 then d.qOwner else if kind = 1 then d.aOwner else if kind = 2 then d.mOwner else d.fOwner

noncomputable def adminRows2 : List AdminRow :=
  [(.assignObj, 0x10, fun s vf => vf = 0 ∧ word_ s 0 1 < 64 ∧ word_ s 0 2 < 4 ∧
      (∀ k < word_ s 0 4, let o := ownerOf (objectOwners s.dev (word_ s 0 2)) (word_ s 0 3 + k)
        o = 0 ∨ (s.dev.fpage o).admbusy = false) ∧
      word_ s 0 3 + word_ s 0 4 ≤ (if word_ s 0 2 = 0 then 64 else if word_ s 0 2 = 1 then 256
        else if word_ s 0 2 = 2 then 4096 else 16) ∧
      (word_ s 0 2 = 0 → ∀ k < word_ s 0 4, s.queueInUse (word_ s 0 3 + k) = false) ∧
      (word_ s 0 2 = 1 → ∀ k < word_ s 0 4, s.agentInUse (word_ s 0 3 + k) = false),
     fun s _ d => (List.range (word_ s 0 4)).foldl (fun d k => d.assign (word_ s 0 2) (word_ s 0 1) (word_ s 0 3 + k)) d),
   (.s2root, 0x11, fun s vf => vf = 0 ∧ word_ s 0 1 ≠ 0 ∧ word_ s 0 1 < 64 ∧ word_ s 0 2 < 2 ^ 40,
     fun s _ d => { d with s2roots := (word_ s 0 1, word_ s 0 2) :: d.s2roots.filter fun e => e.1 != word_ s 0 1 }),
   (.farwin, 0x13, fun s vf => vf = 0 ∧ word_ s 0 1 < 16 ∧ word_ s 0 2 % 2 ^ 30 = 0 ∧ word_ s 0 3 % 2 ^ 30 = 0 ∧
      (word_ s 0 3 ≠ 0 → 2 ^ 40 ≤ word_ s 0 2 ∧ word_ s 0 2 + word_ s 0 3 ≤ 2 ^ 41) ∧
      ownerOf s.dev.fOwner (word_ s 0 1) = 0,
     fun s _ d => { d with farwins := d.farwins.filter (fun e => e.1 != word_ s 0 1) ++
       (if word_ s 0 3 = 0 then [] else [(word_ s 0 1, word_ s 0 2, word_ s 0 3)]) })]

/-- SPDM: the code of each answer and what it tells beside the request: version 1.2; the capabilities to send certificates,
to answer challenges and to sign measurements, with no key exchange; the algorithms ECDSA P-256 and SHA-256. -/
def signed (d : Device) (request : List Byte) : List Byte :=
  d.measurements ++ bytesLE 64 (Config.deviceSign (request ++ d.measurements)).toNat

noncomputable def spdmTable : List ((List Byte → Instr) × Nat × (Device → List Byte → List Byte)) :=
  [(.getVersion, 0x84, fun _ _ => [0x12]), (.getCapabilities, 0xE1, fun _ _ => [1, 1, 1, 0]),
   (.negotiateAlgorithms, 0xE3, fun _ _ => [0x10, 0x01]),
   (.getDigests, 0x81, fun _ _ => sha256 Config.certChain),
   (.getCertificate, 0x82, fun _ _ => Config.certChain), (.challenge, 0x83, signed), (.getMeasurements, 0xE0, signed)]

/-- A request enters its function's ring: entry n is written to host memory at PRQBASE + 16 (n mod 256), PRQTAIL counts it
and vector 1 signals (R88, R402). -/
def entersRing (vf : Nat) (r : PageReq) (d : Device) : Device :=
  let p := d.fpage vf
  let d := { d with
    prqs := d.prqs.map fun (x : PageReq) => if x.vf == vf && x.tag == r.tag then { x with written := true } else x
    msix := d.msix ++ [(vf, 1)]
    hostMem := Store.setLE d.hostMem (p.prqbase.toNat / 4096 * 4096 + 16 * (p.prqtail.toNat % 256)) 16 r.entry.toNat }
  d.setFpage vf { p with prqtail := p.prqtail + 1 }

/-- A strand whose request is answered waits for it no more; parked with no other, it is offered from now on (R87, R363). -/
def hears (c : Strand) (tag now : Nat) : Strand :=
  if tag ∈ c.pageTags then
    let tags := c.pageTags.filter fun k => k != tag
    { c with pageTags := tags, offered := if tags = [] ∧ c.status = .parked then now else c.offered }
  else c

/-- The queue of a record of R354. ABORT, once set, stays until the device clears it. -/
def recordQueue (qu : Queue) (bs : List Byte) : Queue :=
  let f := fieldAt bs
  { qu with
    vf := f 0 2, agent := f 2 1, prio := f 3 1, cmbox := f 4 2, requeueKill := f 6 1 % 2 == 1, ovrmax := f 6 1 / 16
    pause := f 7 1 % 2 == 1, abort := qu.abort || f 7 1 / 2 % 2 == 1, budget := f 8 4
    mask := BitVec.ofNat 192 (f 0x10 24), status := f 0x28 8 }

end Sys2Proof.Claims

namespace Sys2Proof.Claims

/-- A page request's entry (R88). -/
def entryBits (tag core slot agent gpage kind : Nat) (perm : Bool) : BitVec 128 :=
  BitVec.ofNat 16 tag ++ BitVec.ofNat 8 core ++ 0#2 ++ BitVec.ofNat 2 slot ++ 0#4 ++ BitVec.ofNat 32 agent ++
    BitVec.ofNat 52 gpage ++ 0#8 ++ BitVec.ofBool perm ++ 0#1 ++ BitVec.ofNat 2 kind

/-- The state in which a scalar load translates: the loads that its address depends on have performed, and so have the
strand's stores, which a guest's walk sees. -/
def readyToWalk (o : Operands) (s : State) : State :=
  (s.onCur fun c => c.drainTags (c.tagsOf (c.unionOf [.s o.a.toNat]))).drain

end Sys2Proof.Claims

/-- R87, R88, R377, R402: a scalar load of a guest whose translation misses in stage 2 parks its strand, with no register and
no bank written. A page that the strand has asked for already is not asked for again. Another gets a request: its tag is
one that no unanswered request of the function has, its entry is laid out as the manual says, and it enters the ring in
host memory if that has room, else waits. -/
def Sys2Proof.Claims.PageRequests : Prop :=
  ∀ (o : Operands) (s : State) (x : Cause) (kind gpage : Nat) (perm : Bool) (d : Device),
    let c := s.cur
    let va := atOffset o c
    let w := readyToWalk o s
    c.vf ≠ 0 → va.toNat % o.ty.bytes = 0 → kind < 4 →
    translate w.cur.ctx .load false va w.dev = .error (.s2 x kind gpage perm va) d →
    let parks := fun (tag : Nat) (d : Device) => exec (.ld o) s = .next ((({ w with dev := d }).onCur fun c => { c with
      pageTags := if tag ∈ c.pageTags then c.pageTags else c.pageTags ++ [tag] }).leave c.uid .parked true false)
    (∀ r, d.prqs.find? (fun r => r.uid == c.uid && r.gpage == gpage && r.vf == c.vf) = some r → parks r.tag d) ∧
    ((∀ r ∈ d.prqs, ¬ (r.uid = c.uid ∧ r.gpage = gpage ∧ r.vf = c.vf)) → d.prqs.length < 65536 →
      (∀ k ∈ c.pageTags, ∃ r ∈ d.prqs, r.vf = c.vf ∧ r.tag = k) →
      ∃ tag, tag < 65536 ∧ (∀ r ∈ d.prqs, r.vf = c.vf → r.tag ≠ tag) ∧
        let r : PageReq := ⟨c.vf, tag, entryBits tag c.core c.slot c.agent gpage kind perm, c.uid, gpage, kind, va,
          some (c.pc, c.csr.vstart.toNat), false⟩
        let asked := { d with nextPrTag := tag + 1, prqs := d.prqs ++ [r] }
        let ring := d.fpage c.vf
        (256 ≤ ring.prqtail.toNat - ring.prqhead.toNat → parks tag asked) ∧
        ((∀ r ∈ d.prqs, r.vf = c.vf → r.written = true) → ring.prqtail.toNat - ring.prqhead.toNat < 256 →
          parks tag (entersRing c.vf r asked)))

/-- R396 to R398, R402: writes of the control page, sends by the host, page requests taken and answered, the aperture, and
SPDM requests: what an answer tells stands in it, in a frame that is a free value (R410, R411, log entry 12), and the four
measurements are digests of the boot ROM, the firmware image that runs, the fused configuration and the key slots. -/
def Sys2Proof.Claims.HostPort : Prop :=
  ∀ (vf : Nat) (s : State), HostReaches s vf →
    let p := s.dev.fpage vf
    let wrote := fun (off : Nat) (x : Word) (q : FuncPage) => exec (.registerWrite vf off x) s = .next (s.onDev fun d =>
      d.setFpage vf q)
    (∀ k x, k < 8 → wrote (8 * k) x { p with msgbuf := Tab.set 0 p.msgbuf k x }) ∧
    (∀ k x, k < 8 → wrote (0x80 + 8 * k) x { p with admbuf := Tab.set 0 p.admbuf k x }) ∧
    (∀ x, wrote 0x100 x { p with prqbase := x &&& 0xFFFFFFFFFFFFF000 }) ∧
    (∀ x, wrote 0x120 x { p with apbase := x &&& 0xFFFFFFF000000000 }) ∧
    (∀ x, (p.adm 0).toNat ∈ admOps → p.admbusy = false → wrote 0xC0 x { p with admbusy := true }) ∧
    (∀ x, (p.adm 0).toNat ∉ admOps → p.admbusy = false →
      exec (.registerWrite vf 0xC0 x) s = .next (s.onDev (adminEnds vf 0x42))) ∧
    (∀ x : Word, let mb := x.toNat % 4096
      let status := fun (r : Word) (d : Device) => d.setFpage vf { d.fpage vf with msgstat := r }
      (s.dev.hostMaySend vf mb = false → exec (.msgsend vf x) s = .next (s.onDev (status 2))) ∧
      (s.dev.hostMaySend vf mb = true → 32 ≤ (s.dev.mbox mb).ring.length →
        exec (.msgsend vf x) s = .next (s.onDev (status 1))) ∧
      (s.dev.hostMaySend vf mb = true → (s.dev.mbox mb).ring.length < 32 → exec (.msgsend vf x) s =
        .next (((s.onDev fun d => d.accept mb p.message (BitVec.ofNat 32 (0x4000 + vf % 64 * 256))).wakeMail mb).onDev
          (status 0)))) ∧
    (∀ x : Word, let took := fun (d : Device) => d.setFpage vf { d.fpage vf with prqhead := x }
      ((∀ r ∈ s.dev.prqs, r.vf = vf → r.written = true) ∨ 256 ≤ p.prqtail.toNat - x.toNat →
        exec (.prqhead vf x) s = .next (s.onDev took)) ∧
      ∀ r, (s.dev.prqs.filter fun r => r.vf == vf && !r.written) = [r] → p.prqtail.toNat - x.toNat < 256 →
        exec (.prqhead vf x) s = .next (s.onDev fun d => entersRing vf r (took d))) ∧
    (∀ (x : Word) (r : PageReq), s.dev.prqs.find? (fun r => r.vf == vf && r.tag == x.toNat % 65536 && r.written) = some r →
      let s' := s.onDev fun d => { d with prqs := d.prqs.filter fun y => !(y.vf == vf && y.tag == x.toNat % 65536) }
      (x.getLsbD 16 = false → exec (.prqreply vf x) s = .next ((s'.onDev fun d => { d with due := true }).mapStrands fun c =>
        if c.uid == r.uid && c.vf == vf then hears c (x.toNat % 65536) s.dev.gtime.toNat else c)) ∧
      ∀ c pc vst, x.getLsbD 16 = true → s'.find r.uid = some c →
        ((pc, vst) = match r.at_ with | some e => e | none => (c.pc, c.csr.vstart.toNat)) → exec (.prqreply vf x) s =
        .next (s'.kill r.uid 2 ⟨(if r.kind = 1 then 0x09 else if r.kind = 2 then 0x0A else 0x08), pc, r.va, vst, 0⟩)) ∧
    (∀ x : Word, (∀ r ∈ s.dev.prqs, r.vf = vf → r.tag = x.toNat % 65536 → r.written = false) →
      exec (.prqreply vf x) s = .next s) ∧
    (∀ off n bs d, off + n ≤ 2 ^ 36 → gpread vf (p.apbase.toNat + off) n s.dev = .ok bs d →
      exec (.bar2Access vf off none n) s = .next { s with dev := { d with bar2 := d.bar2 ++ [(vf, bs)] } }) ∧
    (∀ off n bs d, off + bs.length ≤ 2 ^ 36 → gpwrite vf (p.apbase.toNat + off) bs s.dev = .ok () d →
      exec (.bar2Access vf off (some bs) n) s = .next { s with dev := d }) ∧
    (∀ e ∈ spdmTable, ∀ rq, exec (e.1 rq) s = .next (s.onDev fun d => { d with
      spdm := (Config.spdmFrame e.2.1 rq).1 ++ e.2.2 d rq ++ (Config.spdmFrame e.2.1 rq).2 })) ∧
    s.dev.measurements = sha256 Config.bootRom ++ sha256 (Config.firmware s.dev.resets) ++
      sha256 (bytesLE 8 Config.rollback ++ Config.enabledCores ++ Config.laneMap) ++
      sha256 ((List.range 8).flatMap fun k => match s.dev.keys.find? fun e => e.1 == k with
        | some (_, h, m) => bytesLE 32 h.toNat ++ bytesLE 8 m.toNat
        | none => bytesLE 40 0)

/-- R399 to R401: the admin commands with status OK, a command of the physical function that another gives (0x40), and the
debugger's halts and steps (R388). -/
def Obligations.AdminCommands : Prop :=
  ∀ (vf : Nat) (s : State),
    let w := word_ s vf
    (∀ e ∈ adminRows1 ++ adminRows2, AdminRuns s vf e.2.1 → e.2.2.1 s vf →
      exec (e.1 vf) s = .next (s.onDev fun d => adminEnds vf 0 (e.2.2.2 s vf d))) ∧
    (vf ≠ 0 → ∀ e ∈ [(Instr.assignObj vf, 0x10), (.s2root vf, 0x11), (.s2inv vf, 0x12), (.farwin vf, 0x13),
        (.keyset vf, 0x14)], AdminRuns s vf e.2 → exec e.1 s = .next (s.onDev (adminEnds vf 0x40))) ∧
    (∀ pa, AdminRuns s vf 1 → w 1 < 256 → w 2 % 64 = 0 → ownerOf s.dev.aOwner (w 1) = vf → s.agentInUse (w 1) = false →
      physOf vf (w 2) s.dev = some pa → exec (.agentCreate vf) s = .next (s.onDev fun d => adminEnds vf 0
        { d with agents := d.agents.filter (fun e => e.1 != w 1) ++ [(w 1, ⟨vf, pa⟩)] })) ∧
    (∀ bs d, AdminRuns s vf 3 → w 1 < 64 → ownerOf s.dev.qOwner (w 1) = vf → gpread vf (w 2) 64 s.dev = .ok bs d →
      queueRecordOk vf bs = true → ownerOf d.aOwner (bs.getD 2 0).toNat = vf →
      ({ s with dev := d }.queueInUse (w 1) = true → (bs.getD 2 0).toNat = (d.queue (w 1)).agent) →
      exec (.queueSet vf) s = .next { s with dev := adminEnds vf 0 { d.updQueue (w 1) fun qu => recordQueue qu bs with
        due := true } }) ∧
    (vf = 0 → AdminRuns s 0 0x10 → w 2 < 4 → (∃ k < w 4, let o := ownerOf (objectOwners s.dev (w 2)) (w 3 + k)
        o ≠ 0 ∧ (s.dev.fpage o).admbusy = true) → w 3 + w 4 ≤ kindCount (w 2) →
      exec (.assignObj 0) s = .next s) ∧
    (vf = 0 → AdminRuns s 0 0x12 → w 1 < 64 →
      let mine := fun (c : Strand) => c.vf == w 1
      let s' := ((s.onDev fun d => (s.strands.filter mine).foldl (fun d c => d.performAll c.buf) d).mapStrands fun c =>
        if mine c then { c with buf := [] } else c).onDev fun d => { d with tlb := d.tlb.filter fun e => e.vf != w 1 }
      ((∀ c ∈ s.dev.cmds, c.vf = w 1 → c.state ≠ .started) →
        exec (.s2inv 0) s = .next (s'.onDev (adminEnds 0 0))) ∧
      ((∃ c ∈ s.dev.cmds, c.vf = w 1 ∧ c.state = .started) → exec (.s2inv 0) s = .next s')) ∧
    (AdminRuns s vf 6 → w 1 < 64 → ownerOf s.dev.qOwner (w 1) = vf → exec (.preemptQueue vf) s =
      .next ((s.mapStrands fun c => if c.live && c.queue == w 1 then c.requestPreempt 0 else c).onDev (adminEnds vf 0))) ∧
    (∀ c, AdminRuns s vf 7 → w 1 < 64 → ownerOf s.dev.qOwner (w 1) = vf → w 3 < 1024 →
      s.strandAt (w 1) (w 3 % 256) (w 3 / 256) = some c →
      (w 2 = 2 → exec (.debugHalt vf) s = .next ((s.halt c).onDev (adminEnds vf 0))) ∧
      (w 2 = 3 → (∃ x, c.status = .halted x) → exec (.debugStep vf) s =
        .next ((s.unhalt c.uid true).burst.onDev (adminEnds vf 0))) ∧
      (w 2 = 3 → (∀ x, c.status ≠ .halted x) → exec (.debugStep vf) s =
        .next ((s.upd c.uid fun c => { c with step1 := true }).onDev (adminEnds vf 0)))) ∧
    (vf = 0 → AdminRuns s 0 0x14 → w 1 < 8 →
      (w 2 = 0 → exec (.keyset 0) s = .next (s.onDev fun d => adminEnds 0 0
        { d with keys := d.keys.filter fun e => e.1 != w 1 })) ∧
      ∀ bs d, w 2 ≠ 0 → gpread 0 (w 2) 32 s.dev = .ok bs d → exec (.keyset 0) s = .next { s with dev := (adminEnds 0 0
        { d with keys := d.keys.filter (fun e => e.1 != w 1) ++
          [(w 1, BitVec.ofNat 256 (natLE bs), BitVec.ofNat 64 (w 3))] }) })

/-- R403 to R408: LOAD ends with the number of the first check of R407 that fails, and otherwise writes the sections and the
kernel table, gives the object the next generation number and answers it in word 1. UNLOAD marks the generation, and is
done, with DONEADDR written and vector 3, when no strand of it lives. -/
def Sys2Proof.Claims.CodeObjects : Prop :=
  ∀ (vf : Nat) (s : State),
    let w := word_ s vf
    (∀ (a : Agent) bs d, AdminRuns s vf 8 → w 3 < 256 → w 2 % 4096 = 0 → w 2 < 2 ^ 48 → ownerOf s.dev.aOwner (w 3) = vf →
      s.dev.agentOf (w 3) vf = some a → readImage vf (w 1) s.dev = .ok bs d →
      (∀ st, loadChecks d vf bs = some st → exec (.loadObject vf) s = .next { s with dev := adminEnds vf st d }) ∧
      ∀ ws d', loadChecks d vf bs = none →
        loadAll ⟨loaderCore, vf, d.readLE (a.addr + 2) 2, d.readLE (a.addr + 8) 8 / 4096 % 2 ^ 40, true⟩
          (loadWrites bs (w 2) d.nextGen) d = .ok ws d' →
        let e := d'.scatter (ws.map (·.1)) (ws.map (·.2))
        let q := e.fpage vf
        exec (.loadObject vf) s = .next { s with dev := (adminEnds vf 0
          { e.setFpage vf { q with admbuf := Tab.set 0 q.admbuf 1 (BitVec.ofNat 64 d.nextGen) } with
            nextGen := d.nextGen + 1, loaded := e.loaded ++ [⟨d.nextGen, fieldAt bs 6 1, vf, false⟩] }) }) ∧
    (∀ d bs d', (gpread vf (w 1) 128 d = .ok bs d' ∧ (fieldAt bs 0 4 ≠ 0x48434F31 ∨ fieldAt bs 4 2 ≠ 1 ∨
        headOk bs = false) → readImage vf (w 1) d = .ok bs d') ∧
      (gpread vf (w 1) 128 d = .ok bs d' → fieldAt bs 0 4 = 0x48434F31 → fieldAt bs 4 2 = 1 → headOk bs = true →
        readImage vf (w 1) d = gpread vf (w 1) (fieldAt bs 8 8) d')) ∧
    (∀ d bs, (fieldAt bs 0 4 ≠ 0x48434F31 → loadChecks d vf bs = some 1) ∧
      (fieldAt bs 0 4 = 0x48434F31 → fieldAt bs 4 2 ≠ 1 → loadChecks d vf bs = some 2) ∧
      (fieldAt bs 0 4 = 0x48434F31 → fieldAt bs 4 2 = 1 → headerOk bs = false → loadChecks d vf bs = some 3) ∧
      (loadChecks d vf bs = none → headerOk bs = true ∧ signatureOk bs = true ∧ d.trusts vf bs = true ∧
        fieldAt bs 6 1 ∈ [1, 2] ∧ tablesOk bs = true)) ∧
    (∀ l, AdminRuns s vf 9 → w 3 < 2 → w 2 % 8 = 0 →
      s.dev.loaded.find? (fun l => l.gen == w 1 && l.vf == vf && !l.unloading) = some l →
      let s' := s.onDev fun d => { d with
        nextGen := d.nextGen + 1
        unloads := d.unloads ++ [⟨w 1, d.nextGen, vf, w 2⟩]
        loaded := d.loaded.map fun l => if l.gen == w 1 then { l with unloading := true } else l }
      (w 3 = 0 → exec (.unload vf) s = .next (s'.onDev (adminEnds vf 0))) ∧
      (w 3 = 1 → exec (.unload vf) s = .next (((s'.strands.filter fun c => c.live && c.kern.gen == w 1).foldl
        (fun s c => s.kill c.uid 8 c.plainEv) s').onDev (adminEnds vf 0)))) ∧
    ∀ (gen : Nat) (u : Unload) (d : Device), s.dev.unloads.find? (fun u => u.gen == gen) = some u →
      ((∃ c ∈ s.strands, c.live = true ∧ c.kern.gen = gen) → exec (.unloadDone gen) s = .next s) ∧
      ((∀ c ∈ s.strands, c.live = true → c.kern.gen ≠ gen) → gpwrite u.vf u.doneAddr (bytesLE 8 u.u) s.dev = .ok () d →
        exec (.unloadDone gen) s = .next { s with dev := { d with
          unloads := d.unloads.filter fun x => x.gen != gen
          loaded := d.loaded.filter fun l => l.gen != gen
          msix := d.msix ++ [(u.vf, 3)] } })

/-- R61 to R68, R111, R151, R160, R278: what the memory system does on its own: a register unnamed for 4096 clocks is
drowsy with nothing lost, the elastic queue fills, the oldest store performs (under .u any of its instruction's), or is dropped
and counted where its device is lost (R307, the model's log entry 110), a held activate issues within the limit, refresh with its wait hint (R74) and retry,
and what the scrubber finds, once the stacks are trained (R421). -/
def Sys2Proof.Claims.MemorySystem : Prop :=
  ∀ s : State,
    let now := s.dev.gtime.toNat
    (∀ u r, exec (.registerDrowsy u r) s = .next (s.onDev fun d => { d with resid := d.resid.map fun x =>
      if x.uid = u ∧ x.reg = r ∧ x.last + 4096 ≤ d.cyc.toNat then { x with drowsy := true } else x })) ∧
    (∀ core, let k := Tab.get 0 s.dev.elastic core
      let bound := ∃ c ∈ s.strands, c.resident = true ∧ c.core = core ∧ c.binds ≠ []
      (k < 64 → bound → exec (.elasticQueueFill core) s = .next (s.onDev fun d => { d with
        elastic := Tab.set 0 d.elastic core (k + 1) })) ∧
      (64 ≤ k ∨ ¬ bound → exec (.elasticQueueFill core) s = .next s)) ∧
    (∀ u p x, s.find u = some p → p.buf.head? = some x →
      let done := fun (f : Device → Device) => exec (.storePerform u 0) s = .next ((s.onDev f).upd u fun _ =>
        { p with buf := p.buf.drop 1 })
      (s.dev.remoteLost x.pa = false → done fun d => (d.writeBytes x.pa x.bytes).cleanLines x.cleans) ∧
      (s.dev.remoteLost x.pa = true → done fun d =>
        ({ d with linkLost := d.linkLost + 1 } : Device).cleanLines x.cleans)) ∧
    (∀ u p k x g, s.find u = some p → s.dev.remoteLost x.pa = false → 0 < k → p.buf[k]? = some x → (∀ y ∈ p.buf.take (k + 1), y.u = some g) →
      ∃ t p', exec (.storePerform u k) s = .next t ∧ t.find u = some p' ∧
        p'.buf.map (fun y => (y.pa, y.bytes)) = (p.buf.eraseIdx k).map (fun y => (y.pa, y.bytes)) ∧
        t.dev = { s.dev.writeBytes x.pa x.bytes with poison := t.dev.poison } ∧ p'.regs = p.regs) ∧
    (∀ u p k, s.find u = some p → 0 < k → (∀ y, p.buf.head? = some y → y.u = none) →
      exec (.storePerform u k) s = .next s) ∧
    (∀ k, k < 16 →
      let x := s.dev.stack k
      let recent := x.acts.filter fun t => decide (now < t + 1000)
      (0 < x.held → recent.length < x.actlim → exec (.heldActivateRelease k) s = .next (s.onDev fun d =>
        d.setStack k { x with acts := recent ++ [now], held := x.held - 1 })) ∧
      (x.actlim ≤ recent.length → exec (.heldActivateRelease k) s = .next s) ∧
      (∀ bank hint, s.dev.broughtUp < 3 → exec (.stackRefresh k bank hint) s = .next s) ∧
      (∀ bank hint, 3 ≤ s.dev.broughtUp → 1 ≤ hint → hint ≤ 1023 → exec (.stackRefresh k bank hint) s = .next (s.onDev fun d =>
        { d.setStack k { x with refreshing := (bank, now + hint) :: x.refreshing.filter (fun e => e.1 != bank),
                                retries := x.retries ++ [now + hint] } with waits := d.waits ++ [(0x05, k, hint)] })) ∧
      ∀ t, x.retries.find? (fun t => decide (t ≤ now)) = some t → ∃ y : Stack, exec (.retryReissue k) s =
        .next (s.onDev fun d => d.setStack k y) ∧ y.retries = x.retries.erase t ∧ y.actlim = x.actlim ∧
        y.refreshing = x.refreshing.filter (fun e => decide (now < e.2)) ∧
        (recent.length < x.actlim → y.acts = recent ++ [now] ∧ y.held = x.held) ∧
        (x.actlim ≤ recent.length → y.acts = recent ∧ y.held = x.held + 1)) ∧
    ∀ line, 64 * line < 0xC000000000 →
      (s.dev.broughtUp < 3 → ∀ found, exec (.patrolScrub line found) s = .next s) ∧
      (3 ≤ s.dev.broughtUp →
      let read := s.onDev fun d => { d with scrubbed := Tab.set 0 d.scrubbed line now }
      exec (.patrolScrub line .clean) s = .next read ∧
      (exec (.patrolScrub line .corrected) s = .next (read.onDev fun d => { d with
        hbmCorr := countUp d.hbmCorr (stackOf (64 * line)) })) ∧
      ∃ t, exec (.patrolScrub line .uncorrectable) s = .next t ∧ line ∈ t.dev.poison ∧ t.dev.mem = s.dev.mem ∧
        t.cur = s.cur ∧ ∀ l, l ≠ line → (l ∈ t.dev.poison ↔ l ∈ s.dev.poison))

/-- R71 to R73, R421: a move starts for two backed frames that are in no move, while 64 others at most are, once the stacks are
trained; each copied line's
bytes and poison are those of the old line, and every byte reads as before through either frame; the unit reports a
finished move, and its release ends the redirect. That a
move is of 4 KiB is the model's choice (log entry 99). -/
def Sys2Proof.Claims.PageMoves : Prop :=
  ∀ (s : State) (old new : Nat),
    let free := fun (f : Nat) => ∀ m ∈ s.dev.migs, m.old ≠ f ∧ m.new ≠ f
    (3 ≤ s.dev.broughtUp → s.dev.migs.length < 64 → old ≠ new → free old → free new → s.dev.backed (old * 4096) = true →
      s.dev.backed (new * 4096) = true → exec (.migrationStart old new) s = .next (s.onDev fun d => { d with
        migs := d.migs ++ [⟨old, new, 0, false⟩], migErr := false })) ∧
    (s.dev.broughtUp < 3 ∨ 64 ≤ s.dev.migs.length ∨ old = new ∨ ¬ free old ∨ ¬ free new ∨ s.dev.backed (old * 4096) = false ∨
      s.dev.backed (new * 4096) = false →
      exec (.migrationStart old new) s = .next (s.onDev fun d => { d with migErr := true })) ∧
    (∀ k, s.dev.migs = [⟨old, new, k, false⟩] → old ≠ new → k < 64 →
      ∃ t, exec (.migrationLineCopy old) s = .next t ∧ t.cur = s.cur ∧ t.others = s.others ∧
        t.dev.migs = [⟨old, new, k + 1, false⟩] ∧ (∀ a, t.dev.readByte a = s.dev.readByte a) ∧
        (∀ a, t.dev.poisoned a = s.dev.poisoned a) ∧
        t.dev = { s.dev with mem := t.dev.mem, poison := t.dev.poison, migs := t.dev.migs }) ∧
    exec (.migrationComplete old) s = .next (s.onDev fun d => { d with migs := d.migs.map fun x =>
      if x.old = old ∧ x.copied = 64 then { x with reported := true } else x }) ∧
    exec (.migrationRelease old) s = .next (s.onDev fun d => { d with migs := d.migs.filter fun x =>
      !(x.old == old && x.reported) })

/-- R61, R66 to R68, R129, R384: what accesses and errors do beside the rows of the opcode table (log entry 88). An activate
issues within the limit of its stack, or is held. A corrected error is counted, and the data stands; an uncorrectable one
poisons its line and is counted once; a pool's poison, and a dirty line's, marks its line. One of a scratchpad or slice
group marks its 64 bytes and no other. -/
def Sys2Proof.Claims.ErrorsAndActivates : Prop :=
  ∀ s : State,
    let now := s.dev.gtime.toNat
    (∀ k, k < 16 → 3 ≤ s.dev.broughtUp →
      let x := s.dev.stack k
      let recent := x.acts.filter fun t => decide (now < t + 1000)
      (recent.length < x.actlim → s.happen (.activate k) = s.onDev fun d =>
        d.setStack k { x with acts := recent ++ [now] }) ∧
      (x.actlim ≤ recent.length → s.happen (.activate k) = s.onDev fun d =>
        d.setStack k { x with acts := recent, held := x.held + 1 })) ∧
    (∀ line, 64 * line < 0xC000000000 →
      s.happen (.lineError line .clean) = s ∧
      (s.happen (.lineError line .corrected) = s.onDev fun d => { d with
        hbmCorr := countUp d.hbmCorr (stackOf (64 * line)) }) ∧
      ∀ h ∈ [Happening.lineError line .uncorrectable, .dirtyLineError line], let t := s.happen h
        line ∈ t.dev.poison ∧ (∀ l, l ≠ line → (l ∈ t.dev.poison ↔ l ∈ s.dev.poison)) ∧ t.cur = s.cur ∧
        t.others = s.others ∧
        let n := if line ∈ s.dev.poison then s.dev.hbmPoison else countUp s.dev.hbmPoison (stackOf (64 * line))
        t.dev = { s.dev with poison := t.dev.poison, hbmPoison := n }) ∧
    (∀ line, 0xC000000000 ≤ 64 * line → s.dev.backed (64 * line) = true → ∀ h ∈ [Happening.poolPoison line, .dirtyLineError line],
      let t := s.happen h
      line ∈ t.dev.poison ∧ (∀ l, l ≠ line → (l ∈ t.dev.poison ↔ l ∈ s.dev.poison)) ∧ t.cur = s.cur ∧
      t.others = s.others ∧ t.dev = { s.dev with poison := t.dev.poison }) ∧
    (∀ (g k : Nat) (w : Scratch), s.dev.window g = some w → w.live = true → k < 4096 * w.slots →
      ∃ l, s.happen (.scratchError g k) = s.onDev (·.setWindow { w with bad := l }) ∧
        ∀ j, j ∈ l ↔ j ∈ w.bad ∨ j / 64 = k / 64) ∧
    ∀ (u lane k : Nat) (c : Strand), s.find u = some c → lane < 64 → k < 1024 * c.kern.slice →
      ∃ l, s.happen (.sliceError u lane k) = s.upd u (fun c => { c with regs := { c.regs with sliceBad := l } }) ∧
        ∀ j, j ∈ l ↔ j ∈ c.regs.sliceBad ∨ (j / 64 = (16384 * lane + k) / 64)

namespace Sys2Proof.Claims

/-- The kinds of flits and the events in which they arrive (R302). -/
noncomputable def flitKinds : List ((Nat → List Byte → Instr) × Nat) :=
  [(.dataFlit, 1), (.acknowledgeFlit, 2), (.timeSyncFlit, 3), (.replayRequest, 4), (.laneRepairFlit, 5),
   (.endToEndConfirm, 6)]

/-- A sound flit of a kind arrives on a port that is up. -/
def FlitArrives (s : State) (p kind : Nat) (f : List Byte) : Prop :=
  p < 16 ∧ (s.dev.port p).up = true ∧ flitOk f = true ∧ (headerOf f).kind = kind

/-- A port retrains on seven lanes and names the dropped one to the other end (R306). -/
def onSeven (p lane : Nat) (d : Device) : Device :=
  (d.updPort p fun x => { x with draining := false, lanes := 7, dropped := some lane }).sendPlain p 5 false
    [BitVec.ofNat 8 lane]

/-- Every unacknowledged flit goes again, and is counted (R305, R317). -/
def resends (p : Nat) (d : Device) : Device :=
  let x := d.port p
  let again := x.out ++ x.replay.map (fun e => stamp e.2 e.1 x.lastIn)
  { d.setPort p { x with out := again, lastAck := d.gtime.toNat } with
    replays := Tab.set 0 d.replays p (Tab.get 0 d.replays p + x.replay.length) }

/-- Normal sending resumes after a repair (R306). -/
def resumes (p : Nat) (d : Device) : Device :=
  (resends p d).updPort p fun x =>
    Port.pump d.gtime.toNat x.queue.length { x with repairing := none, draining := false, named := false }

/-- A port begins a repair: it stops new data flits and drains; with nothing to drain it retrains at once, and resumes if the
other end has asked. -/
def begins (p lane : Nat) (asked : Bool) (d : Device) : Device :=
  let e := d.updPort p fun x =>
    { x with repairing := some lane, draining := true, repairAt := d.gtime.toNat, named := asked }
  if (d.port p).replay ≠ [] then e else if asked then resumes p (onSeven p lane e) else onSeven p lane e

/-- A port that is up goes down, and management gets its record. -/
def goesDown (p : Nat) (d : Device) : Device := (d.updPort p fun x => { x with up := false, lanes := 0 }).raise 2 p 0 0

/-- What a port does when the other end names a lane it has dropped (R306). -/
def heardRepair (p lane : Nat) (d : Device) : Device :=
  let x := d.port p
  match x.repairing with
  | some l =>
    if l ≠ lane then goesDown p d
    else if x.draining = true then d.updPort p fun x => { x with named := true } else resumes p d
  | none => if x.dropped = some lane then d else if x.lanes = 8 then begins p lane true d else goesDown p d

/-- The sample of a quantity that the state holds: as it stands, counted since the last sample, or the next wait that has
ended, if there is one (R74, R317, R418). Others are what the event says; an offset is signed, and of msc_hit it is the
misses. -/
def sampleNow (d : Device) (m : Monitor) (x : Nat) : Option Int :=
  let k := m.cfg.toNat / 2 ^ 32 % 65536
  let q := m.cfg.toNat % 256
  let since := fun (n : Nat) => (((n - m.last : Nat)) : Int)
  if q = 0x05 ∨ q = 0x27 then ((d.waits.filter fun w => w.1 == q && w.2.1 == k)[m.last]?).map fun w => (w.2.2 : Int)
  else some (match q with
  | 0x03 => (((d.stack k).acts.filter fun t => decide (d.gtime.toNat < t + 1000)).length : Int)
  | 0x06 => since (Tab.get 0 d.hbmCorr k)
  | 0x07 => since (Tab.get 0 d.hbmPoison k)
  | 0x12 => ((((d.queue k).runs.filter fun r => !r.launched && r.got == []).length : Nat) : Int)
  | 0x15 => ((Tab.get 5000 d.coreGrant k / 1000 : Nat) : Int)
  | 0x20 => since (Tab.get 0 d.crcErrs k)
  | 0x21 => since (Tab.get 0 d.replays k)
  | 0x22 => ((d.port k).lanes : Int)
  | 0x23 => since (Tab.get 0 d.linkProto k)
  | 0x24 => since d.linkLost
  | 0x25 => d.sync.twice / 2
  | 0x26 => if d.sync.lost = true then 1 else 0
  | 0x08 => ((x / 2 ^ 32 : Nat) : Int)
  | _ => (x : Int))

/-- The events of a sample: one, but for the hits of msc_hit (R74). -/
def eventsOf (m : Monitor) (x : Nat) : Nat := if m.cfg.toNat % 256 = 0x08 then x % 2 ^ 32 else 1

/-- The bytes of the scratch windows on a core, for its dump (R420, the model's log entry 93). -/
def windowBytes (s : State) (core : Nat) : List Byte :=
  (s.dev.scratch.filter fun w => w.core == core && w.live).flatMap (·.regionBytes)

/-- Bin b takes sample y (R417): by its power of two, or by widths W from LO on. -/
def InBin (m : Monitor) (y : Int) (b : Nat) : Prop :=
  if m.cfg.getLsbD 62 then
    let e : Nat := m.param.toNat % 64
    if y < ((2 ^ e : Nat) : Int) then b = 0 else b = min 15 (Nat.log2 y.toNat - e + 1)
  else
    let lo : Int := ((m.param.toNat % 2 ^ 32 : Nat) : Int)
    let w : Int := ((m.param.toNat / 2 ^ 32 : Nat) : Int)
    if w = 0 then b < 16 else (b : Int) = min 15 (max 0 ((y - lo) / w))

/-- The share of a consumer (R412): its floor, and the rest in proportion to its demand above the floor, up to its
ceiling. -/
def granted (floor ceil demand total : Nat) : Nat :=
  if total = 0 then floor else min ceil (floor + 1676000 * (1000 * demand - floor) / total)

/-- The demand above the floors. -/
def aboveFloors (q : PowerDemand) : Nat :=
  ((List.range 152).map fun k => 1000 * q.coreDemand.getD k 0 - 5000).sum +
  ((List.range 16).map fun k => 1000 * q.stackDemand.getD k 0 - 15000).sum +
  ((List.range 16).map fun k => 1000 * q.portDemand.getD k 0 - 4000).sum

end Sys2Proof.Claims

/-- R302 to R306: on a port that is down, and for a flit that fails its CRC, no message is taken: the first changes nothing,
the second asks for a replay. A data flit is taken where SEQ is the number expected, asks once for a replay where it lies
ahead, and is only acknowledged where it lies behind. The other kinds take the acknowledgement and do their work, an idle flit
none; a reserved kind is counted. -/
def Sys2Proof.Claims.FlitsArrive : Prop :=
  ∀ (p : Nat) (f : List Byte) (s : State),
    let h := headerOf f
    let x := s.dev.port p
    let acked := s.onDev fun d => d.takeAck p h
    (∀ e ∈ flitKinds,
      (16 ≤ p ∨ x.up = false → exec (e.1 p f) s = .next s) ∧
      (p < 16 → x.up = true → flitOk f = false → ∃ errs, exec (e.1 p f) s = .next (s.onDev fun d =>
        ({ d with free := d.free + 1, crcErrs := countUp d.crcErrs p } : Device).updPort p fun x => { x with
          laneErrs := errs, asked := true, out := x.out ++ [d.plainFlit p 4 true []] })) ∧
      (p < 16 → x.up = true → flitOk f = true → 6 < h.kind ∨ (h.kind ≠ 1 ∧ 244 < h.len) → exec (e.1 p f) s =
        .next (acked.onDev fun d => { d with linkProto := countUp d.linkProto p })) ∧
      (p < 16 → x.up = true → flitOk f = true → h.kind = 0 → h.len ≤ 244 → exec (e.1 p f) s = .next acked)) ∧
    (FlitArrives s p 1 f →
      let y := acked.dev.port p
      let ahead := (h.seq + 4096 - y.expected) % 4096
      (ahead = 0 → exec (.dataFlit p f) s = .next (((acked.onDev fun d => d.updPort p fun x => { x with
        expected := (x.expected + 1) % 4096, asked := false }).accept p f).onDev fun d => d.sendPlain p 2 true [])) ∧
      (1 ≤ ahead → ahead ≤ 2047 → exec (.dataFlit p f) s = .next (if y.asked then acked else acked.onDev (·.askReplay p))) ∧
      (2048 ≤ ahead → exec (.dataFlit p f) s = .next (acked.onDev fun d => d.sendPlain p 2 true []))) ∧
    (h.len ≤ 244 → FlitArrives s p 2 f → exec (.acknowledgeFlit p f) s = .next acked) ∧
    (h.len ≤ 244 → FlitArrives s p 3 f → exec (.timeSyncFlit p f) s = .next (acked.onDev fun d => d.syncIn p f)) ∧
    (h.len ≤ 244 → FlitArrives s p 4 f → exec (.replayRequest p f) s = .next (acked.onDev fun d =>
      if (d.port p).repairing = none then resends p d else d)) ∧
    (h.len ≤ 244 → FlitArrives s p 5 f → (acked.dev.port p).up = true → exec (.laneRepairFlit p f) s =
      .next (acked.onDev (heardRepair p (natLE ((f.drop 8).take 1) % 8)))) ∧
    (h.len ≤ 244 → FlitArrives s p 6 f → exec (.endToEndConfirm p f) s = .next (acked.onDev (·.confirmed f)))

/-- R305 to R310, R316: the timers of a port: a replay after 2 µs without progress, a lane repair and its drain limit, a
port that goes down with what becomes of its traffic, confirms, and the sync flits sent and missed; gtime is stepped only
before a strand has run. -/
def Sys2Proof.Claims.PortTimers : Prop :=
  ∀ (p : Nat) (s : State),
    let x := s.dev.port p
    let now := s.dev.gtime.toNat
    let live := p < 16 ∧ x.up = true
    (live → x.repairing = none → x.replay ≠ [] → x.lastAck + 2000 ≤ now →
      exec (.replayTimeout p) s = .next (s.onDev (resends p))) ∧
    (x.replay = [] → exec (.replayTimeout p) s = .next s) ∧
    (∀ lane, live → lane < 8 → x.dropped ≠ some lane → x.repairing ≠ some lane →
      s.dev.ltHr ≤ (x.laneErrs.filter fun e => e.1 == lane && decide (now < e.2 + 1000000)).length →
      (x.lanes = 8 → x.repairing = none → exec (.laneRepair p lane) s = .next (s.onDev (begins p lane false))) ∧
      (x.lanes ≠ 8 ∨ x.repairing ≠ none → exec (.laneRepair p lane) s = .next (s.onDev (goesDown p)))) ∧
    (∀ lane, live → x.repairing = some lane → x.draining = true → x.repairAt + 10000 ≤ now →
      exec (.repairDrainTimeout p) s = .next (s.onDev fun d =>
        if x.named = true then resumes p (onSeven p lane d) else onSeven p lane d)) ∧
    (∀ routes, p < 16 → NoneLeaving s → ∃ t, exec (.portDown p routes) s = .next t ∧ t.cur = s.cur ∧ t.others = s.others ∧
      (t.dev.port p).up = false ∧ (t.dev.port p).replay = [] ∧ (t.dev.port p).queue = [] ∧ t.dev.mem = s.dev.mem ∧
      (let goes := fun (v : Nat) => routes.find? fun r => r.1 == v && r.2 != p && decide (r.2 < 16) && (s.dev.port r.2).up
       t.dev.routes = s.dev.routes.filterMap (fun e => if e.2 = p then (goes e.1).map (fun r => (e.1, r.2)) else some e) ∧
       t.dev.unreachable = s.dev.unreachable ++
         (s.dev.routes.filter fun e => e.2 == p && (goes e.1).isNone).map (·.1) ∧
       t.dev.linkLost = s.dev.linkLost + (((x.replay.map (·.2) ++ x.queue).filter fun f =>
          (headerOf f).cls == 0 && (s.dev.routes.any fun e => e.1 == (headerOf f).dst && e.2 == p && (goes e.1).isNone)).map
          fun f => Config.flitStores (messagesOf f)).sum)) ∧
    (∀ origin t, (s.dev.ese origin).lastDelivery = some t →
      (now ≤ t + 1000000 → ∀ q, s.dev.routeTo origin = some q → exec (.confirmTimer origin) s = .next (s.onDev fun d =>
        d.updPort q fun y => { y with out := y.out ++ [makeFlit ⟨6, 0, 0, false, 0, origin, d.devId, 4⟩
          (bytesLE 4 (((d.ese origin).enext + 2 ^ 32 - 1) % 2 ^ 32))] })) ∧
      (t + 1000000 < now → exec (.confirmTimer origin) s = .next s)) ∧
    (live → exec (.timeSyncSend p) s = .next (s.onDev fun d => d.sendPlain p 3 false (bytesLE 8 now ++ bytesLE 8 x.ltx ++
      bytesLE 8 (now - x.lrx) ++ bytesLE 2 d.sync.depth ++ bytesLE 2 d.sync.root))) ∧
    (s.dev.sync.depth ≠ 0 → s.dev.sync.lastUsable + 10000000 ≤ now → exec .tsyncLost s = .next (s.onDev fun d => { d with
      sync := { d.sync with depth := 0xFFFF, slew := 0, lost := true } })) ∧
    (∀ n, s.happen (.laneThreshold n) = if 1 ≤ n ∧ n ≤ 255 then s.onDev fun d => { d with ltHr := n } else s) ∧
    (4 ≤ s.dev.broughtUp → s.dev.nextUid = 1 → (∀ c ∈ s.strands, c.live = false) → ∀ root time,
      ∃ t, s.happen (.bringTime root time) = t ∧ t.cur = s.cur ∧ t.dev.gtime.toNat = max now time.toNat ∧
      t.dev.sync.root = root ∧ (root = s.dev.devId → t.dev.sync.depth = 0 ∧ t.dev.sync.lost = false) ∧ t.dev.mem = s.dev.mem) ∧
    (s.dev.broughtUp < 4 ∨ s.dev.nextUid ≠ 1 ∨ (∃ c ∈ s.strands, c.live = true) → ∀ root time,
      s.happen (.bringTime root time) = s)

/-- R412 to R420: a division of power gives every consumer its floor and its share of the rest, and each stack its activate
limit; a governor clamps its core and lets it go; a monitor unit takes the samples of its quantity (those that
the state does not hold by the model's choice of log entry 23); SNAP freezes a unit;
a core that fails takes no further placement and leaves a dump. -/
def Obligations.PowerAndMonitors : Prop :=
  ∀ s : State,
    (∀ q : PowerDemand, s.dev.broughtUp < 5 → exec (.arbiterRedivision q) s = .next s) ∧
    (∀ q : PowerDemand, 5 ≤ s.dev.broughtUp → ∃ t, exec (.arbiterRedivision q) s = .next t ∧ t.cur = s.cur ∧ t.others = s.others ∧
      t.dev.mem = s.dev.mem ∧
      let total := if s.dev.redivided then aboveFloors q else 0
      t.dev.coreGrant = (List.range 152).map (fun k => (k, granted 5000 16000 (q.coreDemand.getD k 0) total)) ∧
      t.dev.stackGrant = (List.range 16).map (fun k => (k, granted 15000 45000 (q.stackDemand.getD k 0) total)) ∧
      t.dev.portGrant = (List.range 16).map (fun k => (k, granted 4000 8000 (q.portDemand.getD k 0) total)) ∧
      ∀ k < 16, (t.dev.stack k).actlim =
        1024 + 256 * (2 * (granted 15000 45000 (q.stackDemand.getD k 0) total - 15000) / 1000)) ∧
    (∀ c, c < 152 → ∃ t, exec (.governorClamp c) s = .next t ∧ t.cur = s.cur ∧
      t.dev = { s.dev with clamped := t.dev.clamped } ∧ c ∈ t.dev.clamped ∧
      ∀ k, k ≠ c → (k ∈ t.dev.clamped ↔ k ∈ s.dev.clamped)) ∧
    (∀ c, ∃ t, exec (.governorClampEnd c) s = .next t ∧ t.cur = s.cur ∧ t.dev = { s.dev with clamped := t.dev.clamped } ∧
      ∀ k, k ∈ t.dev.clamped ↔ k ∈ s.dev.clamped ∧ k ≠ c) ∧
    (∀ u x, u < 64 → ∀ e ∈ [(Instr.monitorSample u x, eventQuantities), (.monitorCountSample u x, countQuantities)],
      let m := s.dev.monitor u
      m.cfg.getLsbD 63 = true → m.cfg.toNat % 256 ∈ e.2 →
      (sampleNow s.dev m x = none → exec e.1 s = .next s) ∧
      ∀ y, sampleNow s.dev m x = some y → ∃ t, exec e.1 s = .next t ∧ t.cur = s.cur ∧
        t.dev.mem = s.dev.mem ∧ (t.dev.monitor u).now.count = min (2 ^ 64 - 1) (m.now.count + eventsOf m x) ∧
        (t.dev.monitor u).now.sum = min (2 ^ 64 - 1) (m.now.sum + y) ∧
        (m.now.bins ≠ [] → (t.dev.monitor u).now.low = min m.now.low y ∧ (t.dev.monitor u).now.high = max m.now.high y) ∧
        (m.now.bins = [] → (t.dev.monitor u).now.low = y ∧ (t.dev.monitor u).now.high = y) ∧
        (∃ b, InBin m y b ∧ (t.dev.monitor u).now.bins = Tab.set 0 m.now.bins b
          (min (2 ^ 32 - 1) (Tab.get 0 m.now.bins b + 1))) ∧
        (t.dev.monitor u).cfg = m.cfg ∧ (t.dev.monitor u).frozen = m.frozen ∧ ∀ v, v ≠ u → t.dev.monitor v = s.dev.monitor v) ∧
    (∀ u (x : Word), u < 64 →
      (∃ n, s.happen (.monitorWrite (0xC00 + 16 * u) x) = s.onDev fun d => d.setMonitor u { d.monitor u with
        cfg := x &&& 0xC000FFFF000000FF, last := n }) ∧
      (s.happen (.monitorWrite (0xC01 + 16 * u) x) = s.onDev fun d => d.setMonitor u { d.monitor u with param := x }) ∧
      exec (.snapMonitor u) s = .next (s.happen (.monitorWrite (0xC0E + 16 * u) 1))) ∧
    (∀ (m : Monitor) k, k < 8 → m.read 0 = m.cfg ∧ m.read 1 = m.param ∧ m.read 4 = BitVec.ofNat 64 m.frozen.count ∧
      (m.read (6 + k)).setWidth 32 = BitVec.ofNat 32 (Tab.get 0 m.frozen.bins (2 * k)) ∧
      (m.read (6 + k) >>> 32).setWidth 32 = BitVec.ofNat 32 (Tab.get 0 m.frozen.bins (2 * k + 1))) ∧
    (∀ u, u < 64 → ∃ t, exec (.snapMonitor u) s = .next t ∧ t.cur = s.cur ∧
      t.dev.monitor u = { s.dev.monitor u with frozen := (s.dev.monitor u).now, now := ⟨0, 0, 0, 0, []⟩ } ∧
      (∀ v, v ≠ u → t.dev.monitor v = s.dev.monitor v) ∧ t.dev = { s.dev with monitors := t.dev.monitors }) ∧
    ∀ core l, core < 152 → ∃ failed, core ∈ failed ∧ (∀ k, k ≠ core → (k ∈ failed ↔ k ∈ s.dev.failed)) ∧
      let s' := s.onDev fun d => { d.raise 0 core 2 0 with failed := failed }
      let dumped := fun (bs : List Byte) (t : State) => t.onDev fun d => { d with
        dumps := d.dumps ++ [(core, d.gtime.toNat, bs)] }
      (s.onCore core = [] → exec (.coreFailure core l) s = .next (dumped (windowBytes s core) s')) ∧
      ∀ c, s.onCore core = [c] → s.find c.uid = some c → c.live = true → c.leaving = none →
        let bs := c.dumpBytes s.dev.cyc s.dev.gtime ++ windowBytes s core
        (c.uid ∉ l → exec (.coreFailure core l) s = .next (dumped bs (s'.takePreempt c.uid))) ∧
        (c.uid ∈ l → exec (.coreFailure core l) s = .next (dumped bs (s'.kill c.uid 8
          ⟨0x3F, c.pc, 0, c.csr.vstart.toNat, 0⟩)))

namespace Sys2Proof.Claims

/-! ### The machine: fetching, a step, decoding, reset -/

/-- The bytes at the pc of the current strand, read parcel by parcel through translations that it may execute (R28, R29). -/
def BytesAtPc (s : State) (bs : List Byte) : Prop :=
  ∀ k, 4 * k < bs.length → ∃ pa, Translates s .fetch (s.cur.pc + BitVec.ofNat 64 (4 * k)) pa ∧
    s.dev.poisoned pa = false ∧ ∀ j < 4, bs[4 * k + j]? = some (s.dev.readByte (pa + j))

/-- They decode to i at the strand's feature level (R51). -/
def Fetches (s : State) (i : Instr) : Prop :=
  ∃ bs : List Byte, decodeBytes s.cur.csr.level.toNat bs = some (i, []) ∧ BytesAtPc s bs

/-- Parcels of an instruction by its LEN field; 0b11 names none, and no more than parcel 0 is read (R31, R51). -/
def parcelsOf (p0 : Nat) : Nat := match p0 % 4 with | 1 => 2 | 2 => 3 | _ => 1

/-- The opcodes that R49 assigns, and 0x00. -/
def assignedOps : List Nat :=
  [(0x00, 5), (0x10, 6), (0x18, 3), (0x20, 3), (0x28, 7), (0x30, 4), (0x40, 6), (0x50, 2), (0x58, 8), (0x68, 4), (0x70, 5),
    (0x78, 3), (0x7C, 2)].flatMap fun e => List.range' e.1 e.2

/-- The whole of an instruction's parcels at the pc, which no instruction is at the strand's level; p0: parcel 0. -/
def NoInstruction (s : State) (bs : List Byte) (p0 : Nat) : Prop :=
  BytesAtPc s bs ∧ p0 = natLE (bs.take 4) ∧ bs.length = 4 * parcelsOf p0 ∧
  decodeBytes s.cur.csr.level.toNat bs = none

/-- Parcel k of the instruction is the first that cannot be read: its translation stops, or it is poisoned (R29). -/
def ParcelStops (s : State) (k : Nat) (why : Cause) : Prop :=
  let va := s.cur.pc + BitVec.ofNat 64 (4 * k)
  (∃ bs : List Byte, bs.length = 4 * k ∧ BytesAtPc s bs ∧ (k = 0 ∨ k < parcelsOf (natLE (bs.take 4)))) ∧
  (NotTranslated s.drain.dev s.drain.dev.readByte s.cur.ctx .fetch va why ∨
    ∃ pa, Translates s .fetch va pa ∧ s.dev.poisoned pa = true ∧ why = .poison)

/-- The state at the turn of a strand: time has passed, and the agenda's first entry is consumed. -/
def TurnAt (s u : State) : Prop :=
  (s.agenda = [] ∧ u = s.tick.freeTurn) ∨
  ∃ uid rest, s.agenda = .strand uid :: rest ∧ u = ({ s.tick with agenda := rest }).turnTo uid

/-- What follows a move: the scheduling decisions that have become due. -/
def thenDecides : Host.Outcome State Fault Refusal → Host.Outcome State Fault Refusal
  | .next t => .next (if t.dev.due = true then t.burst else t)
  | r => r

/-- Words of the encoding tables, bit by bit, with the instruction and its fields. -/
def decodeWordTable : List (Nat × (Operands → Instr) × Operands) :=
  let zero : Operands := { form := .l64, op := 0, fn := 0, cv := false, g := 0, d := 0, a := 0, b := 0, xa := false,
                           xd := false, u := false, ty := .i8, rm := 0, imm := 0, aux := 0 }
  [-- SHLI s6, s5, #2
   (0x0020000500518011, .shli, { zero with op := 2, fn := 5, d := 6, a := 5, imm := 2 }),
   -- STRIP s5, in the short form
   (0x100014A8, .strip, { zero with form := .s32, op := 21, fn := 1, d := 5 }),
   -- CSRR s9, vl
   (0x000240C1, .csrr, { zero with op := 24, d := 9 }),
   -- AMO.ADD.N64 s5, [s4], s6
   (0x0000070018414111, .amo, { zero with op := 34, d := 5, a := 4, b := 6, ty := .n64 }),
   -- (!p1) VFMA.F32.rne v2, v1, v3
   (0x000009000C10A609, .vfma, { zero with op := 0x41, g := 9, d := 2, a := 1, b := 3, ty := .f32 }),
   -- LI s4, #0x3FC00000
   (0x3FC00000000000000001001A, .li, { zero with form := .x96, op := 3, d := 4, imm := 0x3FC00000 })]

/-- Every strand of a state. -/
def EachStrand (s : State) (p : Strand → Prop) : Prop := p s.cur ∧ ∀ t ∈ s.others, p t

end Sys2Proof.Claims

/-- A step runs the decoded instruction. On the turn of a strand that issues, has no pre-emption to take and whose bytes
at the pc decode to i, the step is exec of i, and ends a single step (R400). Around exec: a free number of clocks of 1.8 GHz pass (log entry 4), in cyc
and in gtime (R414), gtime with a slew of at most a thousandth (R309, R310); a pending pre-emption is taken first (R52), and a single step that a wait completed ends;
where a parcel cannot be fetched the step takes its cause with the parcel's address, and where the parcels hold no instruction
ILL_RSV for an opcode that R49 does not assign, ILL_LEVEL for an instruction of a higher level, or ILL, with parcel 0 (R29, R51);
a strand that does not issue leaves the machine as it is; what the agenda names happens; and scheduling decisions that have
become due are taken after it (R363). -/
def Obligations.StepRunsDecoded : Prop :=
  (∀ (s u : State) (i : Instr), TurnAt s u → u.dev.issues u.cur = true → u.cur.preemptNow = false →
    u.cur.stepDone = false →
    let v := u.onCur (·.nearer)
    Fetches v i →
      (u.cur.step1 = false → step s = thenDecides (exec i v)) ∧
      (u.cur.step1 = true → ∀ t, exec i v = .next t → step s = thenDecides (.next (t.afterStep u.cur.uid)))) ∧
  (∀ (s u : State), TurnAt s u → u.dev.issues u.cur = true → u.cur.preemptNow = false → u.cur.stepDone = false →
    let v := u.onCur (·.nearer)
    (∀ k why, ParcelStops v k why → ∃ t : State, Unmoved v t ∧
      step s = thenDecides (.next (t.trap why (v.cur.pc + BitVec.ofNat 64 (4 * k)) v.cur.pc false))) ∧
    ∀ bs p0, NoInstruction v bs p0 → ∃ why ∈ [Cause.illRsv, .illLevel, .ill],
      step s = thenDecides (.next (v.trap why (BitVec.ofNat 64 p0) v.cur.pc false)) ∧
      let named := decide (p0 % 4 ≠ 3) && assignedOps.contains (p0 / 8 % 128)
      (p0 % 4 ≠ 3 → named = false → why = .illRsv) ∧ ((decodeBytes 2 bs).isSome = true → why = .illLevel) ∧
      (p0 % 4 = 3 ∨ (named = true ∧ 2 ≤ v.cur.csr.level.toNat) → why = .ill)) ∧
  (∀ s u : State, TurnAt s u → u.dev.issues u.cur = true → u.cur.preemptNow = true ∨ u.cur.stepDone = true →
    step s = thenDecides (.next (u.takePreempt u.cur.uid))) ∧
  (∀ s u : State, TurnAt s u → u.dev.issues u.cur = false → step s = thenDecides (.next u)) ∧
  (∀ (s : State) (e : Instr) (rest : List Turn), s.agenda = .event e :: rest →
    step s = thenDecides (exec e { s.tick with agenda := rest })) ∧
  (∀ (s : State) (h : Happening) (rest : List Turn), s.agenda = .happens h :: rest →
    step s = thenDecides (.next (({ s.tick with agenda := rest }).happen h))) ∧
  ∀ s : State, s.tick.cur = s.cur ∧ s.tick.others = s.others ∧ s.tick.agenda = s.agenda ∧
    s.tick.dev.mem = s.dev.mem ∧ ∃ c n k : Nat, 1 ≤ c ∧ s.tick.dev.cyc = s.dev.cyc + BitVec.ofNat 64 c ∧
      9 * n + s.tick.dev.phase = 5 * c + s.dev.phase ∧ s.tick.dev.phase < 9 ∧ 999 * n ≤ 1000 * k ∧ 1000 * k ≤ 1001 * n ∧
      s.tick.dev.gtime = s.dev.gtime + BitVec.ofNat 64 k ∧ (s.dev.sync.slew = 0 → k = n)

/-- R31 to R36: words written out from the encoding tables decode to the instructions they stand for, and VFMA under the guard
field 0b1000 to none. A sanity check. -/
def Obligations.DecodeWords : Prop :=
  (∀ e ∈ decodeWordTable, decodeTableWord (32 * e.2.2.form.parcels) e.1 = some (e.2.1 e.2.2)) ∧
  decodeTableWord 64 0x000009000C10A209 = none

/-- R31 to R36, R51: decoding what the encoder writes of a well-formed instruction gives it back, with every field, and
takes all its bytes: no two instructions share a word and no field is dropped. -/
def Obligations.RoundTrip : Prop :=
  ∀ (i : Instr) (o : Operands), i.wellFormed → i.ops = some o →
    decodeBytes 2 (parcelBytes (encode i)) = some (i, []) ∧ (encode i).length = o.form.parcels

/-- From every state that meets it, every step keeps the invariant: memory stays in its one canonical form, and every
strand stands at a trap level that exists (R372). Every step answers a next state (log entry 14). -/
def Obligations.InvariantStep : Prop :=
  ∀ s : State, s.Inv → ∃ t, step s = .next t ∧ t.Inv

/-- R409, R421 and the model's log entries 3, 5 and 12: the reset state, which DEVICE_RESET brings back where every step of the
bring-up succeeds, meets the invariant. The first step that fails, and the check of the firmware's signature and version is
the first, stops the bring-up: the sideband reports it, the host port stays down, and so do ports not trained yet. In the reset
state no strand exists, no line is poisoned, every port is up, every actlim is 4096 (R62), and every queue, agent and mailbox is the physical function's
(R399). R39: in every state s0 and p0 read as the manual hard-wires them, whatever was written to them. -/
def Obligations.ResetMeetsInvariant : Prop :=
  State.reset.Inv ∧ EachStrand .reset (fun t => t.resident = false) ∧ State.reset.dev.mem = [] ∧
  (∀ pa, State.reset.dev.poisoned pa = false) ∧
  (∀ q, Tab.get 0 State.reset.dev.qOwner q = 0) ∧ (∀ a, Tab.get 0 State.reset.dev.aOwner a = 0) ∧
  (∀ m, Tab.get 0 State.reset.dev.mOwner m = 0) ∧ (∀ k, (State.reset.dev.stack k).actlim = 4096) ∧
  (∀ p, (State.reset.dev.port p).up = true) ∧
  (∀ k, firmwareOk k = true ↔ (Config.firmwareSig k).1 ∈ Config.rootHashes ∧
    ecdsaVerify (Config.firmwareSig k).1 (Config.firmware k) (Config.firmwareSig k).2.1.toNat (Config.firmwareSig k).2.2.toNat
      = true ∧ Config.rollback ≤ Config.firmwareVersion k) ∧
  (∀ s : State, let f := Config.failingStep (s.dev.resets + 1)
    let steps := if firmwareOk (s.dev.resets + 1) = false then 0 else if 1 ≤ f ∧ f ≤ 6 then f - 1 else 6
    exec .deviceReset s = .next { State.reset with agenda := s.agenda, dev := { Device.reset with
      free := s.dev.free, resets := s.dev.resets + 1, broughtUp := steps, hostUp := decide (steps = 6)
      sideband := s.dev.sideband ++ (if steps = 6 then [] else [steps + 1])
      ports := if steps < 4 then (List.range 16).map fun p => (p, { Port.reset with up := false, lanes := 0 }) else [] } }) ∧
  (∀ (c : Strand) (x : Word), c.s 0 = 0 ∧ (c.setS 0 x).s 0 = 0 ∧ ∀ n, (c.setS 0 x).s n = c.s n) ∧
  ∀ (c : Strand) (i j : Nat) (b : Bool), c.p 0 i = true ∧ (c.setP 0 j b).p 0 i = true ∧ c.setP 0 j b = c

/-! ### Statements over the parts above -/

/-- Scalar arithmetic: the register forms, the forms with a literal, and division (R203 to R205). -/
def Obligations.ScalarArithmetic : Prop := ScalarRegisterForms ∧ ScalarImmediateForms ∧ ScalarDivision

/-- Jumps, calls and the return through the frame that a call pushed (R326, R327). -/
def Obligations.CallsAndReturns : Prop := JumpsAndCalls ∧ ReturnPopsTheFrame

/-- Loop nests: how a nest starts, how its indices count at the end of a body, how it is left, and what its body may not hold (R329 to R331). -/
def Obligations.LoopNests : Prop := NestStarts ∧ LoopBackCounts ∧ NestExits ∧ NestForbids

/-- The control registers: SETVL, and the reads and writes of CSRR and CSRW with the writes the manual refuses (R167 to R169, R323). -/
def Obligations.ControlRegisters : Prop := SetvlGrants ∧ CsrReads ∧ CsrWrites ∧ CsrRefusals

/-- What a strand does about itself: farms and strips, barriers, and its end (R338 to R342). -/
def Obligations.StrandInstructions : Prop := FarmAndStrip ∧ Barriers ∧ ExitEndsTheStrand

/-- Taking an exception: which instructions trap, what the entry saves and where it goes, and a trap in level 2 (R374, R375, R390). -/
def Obligations.TakingATrap : Prop := TrapAndBreak ∧ TrapEntry ∧ TrapInLevel2Kills

/-- The quota view, WAIT, KILL and TLBINV, FENCE and the TCLR family (R89, R107, R392 to R394). -/
def Obligations.SystemInstructions : Prop := QuotaView ∧ WaitKillInvalidate ∧ FenceAndTclr

/-- Scalar loads, and where scalar accesses stop: ALIGN, no page, no right, poison (R68, R79, R96 to R98, R101, R104). -/
def Obligations.LoadsAndAlignment : Prop := ScalarLoads ∧ MisalignedAccesses ∧ RefusedAccesses

/-- A strand sees its own stores; they perform in order; words in memory are little-endian; what a walk of the page tables gives (R57, R75 to R84, R91, R92, R97, R278, R281). -/
def Obligations.StoresAndMemory : Prop := OwnStoresAreSeen ∧ StoresPerformInOrder ∧ MemoryWords ∧ PageWalks

/-- The values of the vector integer instructions: the plain element forms, saturation and comparison (R175, R208 to R215, R220). -/
def Obligations.VectorIntegerValues : Prop := VectorIntegerElements ∧ VectorSaturation ∧ VectorCompare

/-- Vector division, and where a division by zero stops or shortens it (R171 to R173, R210). -/
def Obligations.VectorIntegerDivision : Prop := VectorDivision ∧ DivisionShortens

/-- Vector float comparison, minimum and maximum, class, and conversion (R227 to R233). -/
def Obligations.FloatComparesAndConversion : Prop := VectorFloatCompares ∧ VectorConversion

/-- Predicate instructions, compression and element extraction (R218, R220, R221). -/
def Obligations.PredicatesAndElements : Prop := CompressPacks ∧ ElementExtract ∧ PredicateInstructions

/-- Scales of a group, quantising and dequantising (R235 to R238). -/
def Obligations.Quantisation : Prop := QuantScales ∧ QuantiseAndDequantise

/-- The integer and the floating-point reductions (R198, R199, R240 to R242). -/
def Obligations.Reductions : Prop := IntegerReductions ∧ FloatReductions

/-- Tile loads and stores, and the compressed load (R112 to R114, R195). -/
def Obligations.TileAndCompressedMoves : Prop := TileMoves ∧ CompressedLoad

/-- Stream binding, what a bound source delivers, and the gather windows (R115 to R119). -/
def Obligations.StreamsAndWindows : Prop := StreamBinding ∧ StreamDelivery ∧ GatherWindows

/-- Scratchpad and slice accesses, and tiles between them and registers (R128, R132 to R137). -/
def Obligations.Scratchpad : Prop := ScratchpadAndSlices ∧ ScratchpadTiles

/-- The small-matrix unit: its moves and its arithmetic (R264 to R276). -/
def Obligations.SmallMatrix : Prop := SmallMatrixMoves ∧ SmallMatrixArithmetic

/-- Butterflies, butterfly chains and transposes (R257 to R262). -/
def Obligations.ButterfliesAndTransposes : Prop := Butterflies ∧ Transposes

/-- Copy commands: what they move, and how a command completes (R139 to R142, R145, R147, R148). -/
def Obligations.Copies : Prop := CopyCommands ∧ CommandsComplete

/-- Mailboxes, signals, and the ends of waits (R319, R345 to R353, R392). -/
def Obligations.MailAndWaits : Prop := Mailboxes ∧ SignalsFromPrograms ∧ WaitsEnd

/-- Launching the strands of a node, and the decisions of the scheduler (R318, R358, R359, R363 to R367). -/
def Obligations.LaunchAndScheduling : Prop := NodesLaunch ∧ SchedulingDecisions

/-- Launching a graph, and what the end of a node decrements (R356, R361). -/
def Obligations.GraphProgress : Prop := GraphsLaunch ∧ NodeDecrements

/-- Control nodes of a graph, and the end of a graph (R295, R358 to R362, R369, R370). -/
def Obligations.ControlNodesAndEnds : Prop := ControlNodes ∧ GraphEnds

/-- Copy nodes and mail nodes of a graph (R347, R350, R359, R362). -/
def Obligations.CopyAndMailNodes : Prop := CopyNodes ∧ MailNodes

/-- The host port, page requests, and the loading of code objects (R87, R88, R377, R396 to R398, R402 to R408, R410, R411). -/
def Obligations.HostAndLoading : Prop := HostPort ∧ PageRequests ∧ CodeObjects

/-- The memory system, errors and activates, and moves of pages (R61 to R68, R71 to R73, R111, R129, R151, R160, R384). -/
def Obligations.MemoryController : Prop := MemorySystem ∧ ErrorsAndActivates ∧ PageMoves

/-- Flits that arrive at a port, and its timers (R302 to R310, R316, R317). -/
def Obligations.LinkPorts : Prop := FlitsArrive ∧ PortTimers
end

