-- ==== Sys2Proof/Laws/Keeps.lean ====
section
/-! SUPPORT. Steps that keep a property of their state, whatever they answer and wherever they stop; how such steps
compose. -/

namespace Sys2Proof.Laws

/-- The state a step leaves. -/
def leaves {ε σ α : Type} (r : EStateM.Result ε σ α) : σ :=
  match r with
  | .ok _ s => s
  | .error _ s => s

@[simp] theorem leaves_ok {ε σ α : Type} (x : α) (s : σ) : leaves (.ok x s : EStateM.Result ε σ α) = s := rfl
@[simp] theorem leaves_error {ε σ α : Type} (e : ε) (s : σ) : leaves (.error e s : EStateM.Result ε σ α) = s := rfl

/-- The step keeps P. -/
def Keeps {ε σ α : Type} (P : σ → Prop) (m : EStateM ε σ α) : Prop := ∀ s, P s → P (leaves (m s))

variable {ε σ α β : Type} {P : σ → Prop}

theorem keeps_pure (x : α) : Keeps P (pure x : EStateM ε σ α) := fun _ h => h

theorem keeps_bind {m : EStateM ε σ α} {f : α → EStateM ε σ β} (hm : Keeps P m) (hf : ∀ x, Keeps P (f x)) :
    Keeps P (m >>= f) := by
  intro s h
  have h1 := hm s h
  show P (leaves (EStateM.bind m f s))
  unfold EStateM.bind
  cases hr : m s with
  | ok x s' => rw [hr] at h1; exact hf x s' h1
  | error e s' => rw [hr] at h1; exact h1

theorem keeps_map {m : EStateM ε σ α} {f : α → β} (hm : Keeps P m) : Keeps P (f <$> m) := by
  intro s h
  have h1 := hm s h
  show P (leaves (EStateM.map f m s))
  unfold EStateM.map
  cases hr : m s with
  | ok x s' => rw [hr] at h1; exact h1
  | error e s' => rw [hr] at h1; exact h1

theorem keeps_get : Keeps P (get : EStateM ε σ σ) := fun _ h => h

/-- A bind on the state read: the rest may use that P holds of it. -/
theorem keeps_get_bind {f : σ → EStateM ε σ β} (hf : ∀ s, P s → Keeps P (f s)) :
    Keeps P ((get : EStateM ε σ σ) >>= f) := fun s h => hf s h s h

theorem keeps_set {s : σ} (h : P s) : Keeps P (set s : EStateM ε σ PUnit) := fun _ _ => h

theorem keeps_modify {f : σ → σ} (hf : ∀ s, P s → P (f s)) : Keeps P (modify f : EStateM ε σ PUnit) := hf

theorem keeps_throw (e : ε) : Keeps P (throw e : EStateM ε σ α) := fun _ h => h

theorem keeps_ite {c : Prop} [Decidable c] {m n : EStateM ε σ α} (hm : Keeps P m) (hn : Keeps P n) :
    Keeps P (if c then m else n) := by
  split
  · exact hm
  · exact hn

theorem keeps_cond {c : Bool} {m n : EStateM ε σ α} (hm : Keeps P m) (hn : Keeps P n) :
    Keeps P (if c = true then m else n) := keeps_ite hm hn

/-- A step that answers ok keeps P. -/
theorem Keeps.ok {m : EStateM ε σ α} (hm : Keeps P m) {s s' : σ} {x : α} (h : P s) (he : m s = .ok x s') : P s' := by
  have := hm s h
  rwa [he] at this

/-- A step that stops keeps P. -/
theorem Keeps.error {m : EStateM ε σ α} (hm : Keeps P m) {s s' : σ} {e : ε} (h : P s) (he : m s = .error e s') : P s' := by
  have := hm s h
  rwa [he] at this

end Sys2Proof.Laws
end

