-- ==== Sys2Proof/Laws/Loop.lean ====
section
/-! SUPPORT. What the shared operations of vector instructions do: dispatch, the element loop, and the loop as a fold
where no element stops. -/

namespace Sys2Proof.Laws

open Sys2Proof.Machine

/-! ### Steps of an instruction -/

theorem run_bind {ε σ α β : Type} (m : EStateM ε σ α) (f : α → EStateM ε σ β) (s : σ) :
    (m >>= f) s = match m s with
      | .ok a s' => f a s'
      | .error e s' => .error e s' := by
  show EStateM.bind m f s = _
  unfold EStateM.bind
  cases m s <;> rfl

theorem run_pure {ε σ α : Type} (a : α) (s : σ) : (pure a : EStateM ε σ α) s = .ok a s := rfl

theorem run_cur (s : State) : Run.cur s = .ok s.cur s := rfl
theorem run_onCur (f : Strand → Strand) (s : State) : Run.onCur f s = .ok () (s.onCur f) := rfl
theorem run_onDev (f : Device → Device) (s : State) : Run.onDev f s = .ok () (s.onDev f) := rfl

theorem run_trial {α : Type} (m : Run α) (s : State) :
    trial m s = match m s with
      | .ok x s' => .ok (.ok x) s'
      | .error e s' => .ok (.error e) s' := by
  unfold trial
  cases m s <;> rfl

theorem run_check_true (c : Cause) (v : Word) (s : State) : Run.check true c v s = .ok () s := rfl

theorem run_check_false (c : Cause) (v : Word) (s : State) : Run.check false c v s = .error (.cause c v) s := rfl

/-! ### Dispatch -/

/-- The state once an instruction has its place in the convoy. -/
def joined (o : Operands) (sh : Shape) (s : State) : State :=
  let n := s.cur.names o
  let conv := if o.cv then Convoy.closed else s.cur.convoy
  let conv := conv.join sh.cls (sh.cross && isCross o) (sh.dst n) (sh.named o n)
  s.onCur fun c => ({ c with convoy := conv } : Strand).unread (sh.bound c n)

/-- Room for the destinations is room where they are not yet counted. -/
theorem fits_right (c : Convoy) (cls : Cls) (x : Bool) (k l : List RegId) (h : c.fits cls x (k ++ l) = true) :
    c.fits cls x l = true := by
  unfold Convoy.fits at *
  simp only [Bool.and_eq_true, List.all_append] at h ⊢
  exact ⟨h.1, h.2.2⟩

theorem fits_nil (c : Convoy) (cls : Cls) (x : Bool) (l : List RegId) (h : c.fits cls x l = true) :
    c.fits cls x [] = true := by
  unfold Convoy.fits at *
  simp only [Bool.and_eq_true, List.all_nil, and_true] at h ⊢
  exact h.1

/-- Naming a matrix state always answers. -/
theorem ownStates_ok (mat sm : Bool) (s : State) : ∃ t, ownStates mat sm s = .ok () t := ⟨_, rfl⟩

theorem ownStates_none (s : State) : ownStates false false s = .ok () s := rfl

/-- DISPATCH that finds nothing in the way: the names, and the state in which the registers named are resident (u) and the
matrix states named are the strand's own (v). -/
theorem prep_ok (o : Operands) (sh : Shape) (more : Strand → Names → Bool) (s u v : State)
    (hd : dispatchOk o sh more s.cur (s.cur.names o) = true)
    (hf : (if o.cv then Convoy.closed else s.cur.convoy).fits sh.cls (sh.cross && isCross o)
      (sh.dst (s.cur.names o)) = true)
    (hu : touch (sh.named o (s.cur.names o)) (joined o sh s) = .ok () u) (hv : ownStates sh.mat sh.sm u = .ok () v) :
    prep o sh more s = .ok (s.cur.names o) v := by
  have h0 : (if o.cv then Convoy.closed else s.cur.convoy).fits sh.cls (sh.cross && isCross o)
      (if o.xd then (if sh.apart then [] else sh.wrote) else sh.dst (s.cur.names o)) = true := by
    cases o.xd
    · exact hf
    · cases sh.apart
      · exact fits_right _ _ _ _ _ hf
      · exact fits_nil _ _ _ _ hf
  simp only [joined] at hu
  simp only [prep, run_bind, run_cur, h0, hd, hf, run_check_true, run_onCur, hu, hv, run_pure]

/-- DISPATCH that finds its checks met and the registers in the file, but poisoned in the backing area: the context is
lost. -/
theorem prep_lost (o : Operands) (sh : Shape) (more : Strand → Names → Bool) (s u : State) (e : Stop)
    (hd : dispatchOk o sh more s.cur (s.cur.names o) = true)
    (hf : (if o.cv then Convoy.closed else s.cur.convoy).fits sh.cls (sh.cross && isCross o)
      (sh.dst (s.cur.names o)) = true)
    (hu : touch (sh.named o (s.cur.names o)) (joined o sh s) = .error e u) : prep o sh more s = .error e u := by
  have h0 : (if o.cv then Convoy.closed else s.cur.convoy).fits sh.cls (sh.cross && isCross o)
      (if o.xd then (if sh.apart then [] else sh.wrote) else sh.dst (s.cur.names o)) = true := by
    cases o.xd
    · exact hf
    · cases sh.apart
      · exact fits_right _ _ _ _ _ hf
      · exact fits_nil _ _ _ _ hf
  simp only [joined] at hu
  simp only [prep, run_bind, run_cur, h0, hd, hf, run_check_true, run_onCur, hu]

/-! ### Residency -/

/-- Two strands that differ in nothing but what of their vector file is in the core (R157). -/
def SameButFile (c d : Strand) : Prop :=
  d = { c with regs := { c.regs with v := d.regs.v }, fileDirty := d.fileDirty }

theorem SameButFile.refl (c : Strand) : SameButFile c c := rfl

theorem SameButFile.trans {c d e : Strand} (h : SameButFile c d) (k : SameButFile d e) : SameButFile c e := by
  unfold SameButFile at *
  rw [k, h]

/-- Two devices that differ in memory, poison and residency alone. -/
def SameButBacking (d e : Device) : Prop := e = { d with mem := e.mem, poison := e.poison, resid := e.resid }

theorem SameButBacking.refl (d : Device) : SameButBacking d d := rfl

theorem SameButBacking.trans {c d e : Device} (h : SameButBacking c d) (k : SameButBacking d e) :
    SameButBacking c e := by
  unfold SameButBacking at *
  rw [k, h]

theorem sameButBacking_writeBytes (bs : List Byte) : ∀ (d : Device) (pa : Nat), SameButBacking d (d.writeBytes pa bs) := by
  induction bs with
  | nil => exact fun d pa => .refl d
  | cons b bs ih => exact fun d pa => .trans (d := d.writeByte pa b) rfl (ih _ _)

theorem sameButBacking_backOne (d : Device) (t : Strand) (r : Nat) : SameButBacking d (d.backOne t r) := by
  unfold Device.backOne
  exact (sameButBacking_writeBytes _ d _).trans rfl

/-- What residency may change of a state. -/
structure Moved (s t : State) : Prop where
  cur : SameButFile s.cur t.cur
  others : List.Forall₂ SameButFile s.others t.others
  agenda : t.agenda = s.agenda
  dev : SameButBacking s.dev t.dev

theorem forall₂_refl (l : List Strand) : List.Forall₂ SameButFile l l := by
  induction l with
  | nil => exact .nil
  | cons c l ih => exact .cons rfl ih

theorem forall₂_trans : ∀ {l m n : List Strand}, List.Forall₂ SameButFile l m → List.Forall₂ SameButFile m n →
    List.Forall₂ SameButFile l n
  | _, _, _, .nil, .nil => .nil
  | _, _, _, .cons h t, .cons k u => .cons (h.trans k) (forall₂_trans t u)

theorem forall₂_map (f : Strand → Strand) (hf : ∀ c, SameButFile c (f c)) (l : List Strand) :
    List.Forall₂ SameButFile l (l.map f) := by
  induction l with
  | nil => exact .nil
  | cons c l ih => exact .cons (hf c) ih

theorem Moved.refl (s : State) : Moved s s := ⟨rfl, forall₂_refl _, rfl, rfl⟩

theorem Moved.trans {s t u : State} (h : Moved s t) (k : Moved t u) : Moved s u :=
  ⟨h.cur.trans k.cur, forall₂_trans h.others k.others, k.agenda.trans h.agenda, h.dev.trans k.dev⟩

theorem moved_swapOut (s : State) (v : Resid) : Moved s (s.swapOut v) := by
  have h1 : ∀ (u : State) (d : Device), SameButBacking s.dev d → u = { s with dev := d } →
      Moved s ((u.onDev fun d => { d with resid := d.resid.filter fun r => !(r.uid == v.uid && r.reg == v.reg) }).upd v.uid
        fun t => { t with fileDirty := putBit t.fileDirty v.reg false }) := by
    rintro u d hd rfl
    have hf : ∀ c : Strand, SameButFile c
        (if (c.uid == v.uid) = true then { c with fileDirty := putBit c.fileDirty v.reg false } else c) := by
      intro c
      split
      · rfl
      · rfl
    exact ⟨hf _, forall₂_map _ hf _, rfl, hd.trans rfl⟩
  unfold State.swapOut
  cases s.find v.uid with
  | none => exact h1 s s.dev (.refl _) rfl
  | some t =>
    simp only
    split
    · exact h1 _ _ (sameButBacking_backOne s.dev t v.reg) rfl
    · exact h1 s s.dev (.refl _) rfl

theorem moved_evict (keep : List Nat) (n : Nat) : ∀ s, Moved s (evict keep n s) := by
  induction n with
  | zero => exact Moved.refl
  | succ n ih =>
    intro s
    simp only [evict]
    split
    · exact .refl s
    · split
      · exact .refl s
      · exact (moved_swapOut s _).trans (ih _)

theorem sameButFile_swapIns (d : Device) (l : List Nat) : ∀ c, SameButFile c (l.foldl (d.swapIn · ·) c) := by
  induction l with
  | nil => exact .refl
  | cons r l ih => exact fun c => .trans (d := d.swapIn c r) rfl (ih _)

/-- NAMING REGISTERS changes nothing but residency, the file's copies and the backing areas in memory (R157, R158). -/
theorem touch_moved (regs : List Nat) (s t : State) (h : touch regs s = .ok () t) : Moved s t := by
  unfold touch at h
  simp only at h
  split at h
  · cases h
  · cases h
    refine .trans (t := _) ?_ (moved_evict _ _ _)
    refine .trans (t := if s.cur.ctxArea.isSome = true then s.onCur fun t =>
      (regs.filter fun r => !(s.dev.resid.any fun x => x.uid == s.cur.uid && x.reg == r)).foldl (s.dev.swapIn · ·) t
      else s) ?_ ⟨rfl, forall₂_refl _, rfl, rfl⟩
    split
    · exact ⟨sameButFile_swapIns _ _ _, forall₂_refl _, rfl, rfl⟩
    · exact .refl s

/-! ### The element loop -/

/-- A pending request is met nowhere where none has been made. -/
theorem atBoundary_none (first : Bool) (s : State) (h : s.cur.preempt = none) : atBoundary first s = .ok false s := by
  have h1 : s.cur.preemptNow = false := by simp [Strand.preemptNow, h]
  have h2 : (s.onCur fun t => { t with preempt := t.preempt.map fun k => if t.takeable then k - 1 else k }) = s := by
    obtain ⟨c, os, d, a⟩ := s
    obtain ⟨⟩ := c
    simp only at h
    subst h
    rfl
  unfold atBoundary
  rw [h2]
  cases first <;> simp [h1]

/-- The loop without stops: k elements from i on, the accumulator beside the strand. -/
def loopFold {α : Type} (ok : Strand → Nat → Bool) (run : Nat → α → Strand → α × Strand) :
    Nat → Nat → α → Strand → α × Strand
  | 0, _, acc, c => (acc, c)
  | k + 1, i, acc, c =>
    if ok c i then loopFold ok run k (i + 1) (run i acc c).1 (run i acc c).2 else loopFold ok run k (i + 1) acc c

/-- THE ELEMENT LOOP where no body stops and no request comes is a fold of what the body does to the strand. P holds of
every strand the loop meets. -/
theorem loopFrom_fold {α : Type} (P : Strand → Prop) (hpre : ∀ c, P c → c.preempt = none)
    (ok : Strand → Nat → Bool) (vs bsz : Nat) (body : Nat → α → Run α) (run : Nat → α → Strand → α × Strand)
    (hrun : ∀ i acc c, P c → P (run i acc c).2)
    (hbody : ∀ i acc (s : State), P s.cur →
      body i acc s = .ok (run i acc s.cur).1 (s.onCur fun _ => (run i acc s.cur).2)) :
    ∀ (k i : Nat) (acc : α) (s : State), P s.cur →
      loopFrom ok vs bsz body k i acc s = .ok ((loopFold ok run k i acc s.cur).1, none)
          (s.onCur fun _ => (loopFold ok run k i acc s.cur).2) ∧ P (loopFold ok run k i acc s.cur).2
  | 0, _, _, _, h => ⟨rfl, h⟩
  | k + 1, i, acc, s, h => by
    have ih := loopFrom_fold P hpre ok vs bsz body run hrun hbody k (i + 1)
    have hb : loopFrom ok vs bsz body (k + 1) i acc s = (if !(ok s.cur i) then loopFrom ok vs bsz body k (i + 1) acc s
        else match body i acc s with
          | .ok acc' s' => loopFrom ok vs bsz body k (i + 1) acc' s'
          | .error e s' => .ok (acc, some (i, e)) s') := by
      simp only [loopFrom]
      split
      all_goals
        rw [run_bind]
        first
        | rw [atBoundary_none _ s (hpre _ h)]
        | rw [run_pure]
        simp only [Bool.false_eq_true, if_false, run_bind, run_cur]
        split
        · rfl
        · rw [run_bind, run_trial]
          cases body i acc s <;> rfl
    rw [hb]
    simp only [loopFold]
    by_cases hok : ok s.cur i = true
    · have h2 := ih (run i acc s.cur).1 (s.onCur fun _ => (run i acc s.cur).2) (hrun _ _ _ h)
      refine ⟨?_, by simpa [hok, State.onCur] using h2.2⟩
      simp only [hok, Bool.not_true, Bool.false_eq_true, if_false, hbody _ _ _ h, if_true]
      rw [h2.1]
      rfl
    · have h2 := ih acc s h
      refine ⟨?_, by simpa [hok] using h2.2⟩
      have hok' : ok s.cur i = false := by simpa using hok
      simp only [hok', Bool.not_false, if_true, Bool.false_eq_true, if_false]
      exact h2.1

/-- The fold over the elements of a range is the loop's. -/
theorem loopFold_foldl (ok : Strand → Nat → Bool) (step : Nat → Strand → Strand) (k i : Nat) (c : Strand) :
    (loopFold ok (fun j _ d => ((), step j d)) k i () c).2 =
      (List.range' i k).foldl (fun d j => if ok d j then step j d else d) c := by
  induction k generalizing i c with
  | zero => rfl
  | succ k ih =>
    simp only [loopFold, List.range'_succ, List.foldl_cons]
    split
    · exact ih _ _
    · exact ih _ _

/-- The elements from vs on and below a bound, as a filter of all those below it. -/
theorem range_from (bound vs : Nat) :
    (List.range bound).filter (fun i => decide (vs ≤ i)) = List.range' vs (bound - vs) := by
  rw [List.range_eq_range']
  induction bound with
  | zero => simp
  | succ n ih =>
    rw [List.range'_1_concat, List.filter_append, ih]
    by_cases h : vs ≤ n
    · rw [Nat.sub_add_comm h, List.range'_1_concat]
      simp [h]
    · have h1 : n + 1 - vs = 0 := by omega
      have h2 : n - vs = 0 := by omega
      simp [h, h1, h2]

/-- elementLoop where nothing stops. X: the set that fin forms of what was folded. -/
theorem elementLoop_fold {α : Type} (P : Strand → Prop) (hpre : ∀ c, P c → c.preempt = none) (o : Operands)
    (fin : α → Run Taint) (rest : Nat → List (Run Unit)) (body : Nat → α → Run α) (run : Nat → α → Strand → α × Strand)
    (X : α → Taint) (init : α) (hrun : ∀ i acc c, P c → P (run i acc c).2)
    (hbody : ∀ i acc (s : State), P s.cur →
      body i acc s = .ok (run i acc s.cur).1 (s.onCur fun _ => (run i acc s.cur).2))
    (hfin : ∀ acc s, fin acc s = .ok (X acc) s) (s : State) (h : P s.cur) :
    let c := s.cur
    let r := loopFold (fun t i => t.allows o i) run (c.vl - c.csr.vstart.toNat) c.csr.vstart.toNat init c
    elementLoop o fin rest body init s =
      .ok (r.1, c.vl, X r.1) (s.onCur fun _ => (r.2.setAl c.vl).setVstart 0) ∧ P r.2 := by
  intro c r
  have hl := loopFrom_fold P hpre (fun t i => t.allows o i) c.csr.vstart.toNat (64 * epslot c.ew) body run hrun hbody
    (c.vl - c.csr.vstart.toNat) c.csr.vstart.toNat init s h
  refine ⟨?_, hl.2⟩
  simp only [elementLoop, run_bind, run_cur]
  rw [hl.1]
  simp only [hfin, run_bind, run_onCur]
  rfl

/-- A strand with no pending request and no stream binding. -/
def Unbound (c : Strand) : Prop := c.preempt = none ∧ c.binds = []

theorem unbound_of_same {c d : Strand} (h : SameButFile c d) (hc : Unbound c) : Unbound d := by
  unfold SameButFile at h
  rw [h]
  exact hc

theorem bindOf_unbound (c : Strand) (h : Unbound c) (r : Nat) : c.bindOf r = none := by
  simp [Strand.bindOf, h.2]

theorem bound_unbound (c : Strand) (h : Unbound c) (sh : Shape) (n : Names) : sh.bound c n = [] := by
  simp [Shape.bound, bindOf_unbound c h]

theorem consume_unbound (c : Strand) (h : Unbound c) (l : List Nat) (n : Nat) : c.consume l n = c := by
  obtain ⟨_, hb⟩ := h
  unfold Strand.consume
  rw [hb]
  cases c
  simp only at hb
  subst hb
  rfl

theorem src_unbound (ty : Ty) (r i : Nat) (s : State) (h : Unbound s.cur) :
    src ty r i s = .ok (s.cur.elem ty.width r i) s := by
  simp only [src, run_bind, run_cur, srcOf, bindOf_unbound _ h, run_pure]

/-- THE ELEMENT-LOOP INSTRUCTION where dispatch finds nothing in the way, nothing is bound and nothing stops: every element
from vstart on and below vl that guard and mif allow has its effect, in ascending order. v: the state once the registers
are in the file and the matrix states are the strand's own. -/
theorem vecLoop_fold (o : Operands) (sh : Shape) (more : Strand → Names → Bool)
    (body : Names → Strand → Nat → Run Unit) (step : Nat → Strand → Strand) (s u v : State)
    (hs : Unbound v.cur) (hd : dispatchOk o sh more s.cur (s.cur.names o) = true)
    (hf : (if o.cv then Convoy.closed else s.cur.convoy).fits sh.cls (sh.cross && isCross o)
      (sh.dst (s.cur.names o)) = true)
    (hu : touch (sh.named o (s.cur.names o)) (joined o sh s) = .ok () u) (hv : ownStates sh.mat sh.sm u = .ok () v)
    (hkeep : ∀ i c, Unbound c → Unbound (step i c))
    (hbody : ∀ i (r : State), Unbound r.cur → body (s.cur.names o) v.cur i r = .ok () (r.onCur (step i))) :
    let c := v.cur
    vecLoop o sh more body s = .ok () (v.onCur fun _ =>
      ((((List.range c.vl).filter fun i => decide (c.csr.vstart.toNat ≤ i)).foldl
        (fun d i => if d.allows o i then step i d else d) c).setAl c.vl |>.setVstart 0).taintDst sh (s.cur.names o)
          (c.sourceSet o sh (s.cur.names o))) := by
  intro c
  have hl := elementLoop_fold (α := Unit) Unbound (fun c h => h.1) o
    (fun _ => streamTags (sh.bound c (s.cur.names o)) (c.sourceSet o sh (s.cur.names o)))
    (sh.reads o c (s.cur.names o))
    (fun i _ => body (s.cur.names o) c i) (fun i _ d => ((), step i d)) (fun _ => c.sourceSet o sh (s.cur.names o)) ()
    (fun i _ d h => hkeep i d h) (fun i _ r h => hbody i r h)
    (fun _ r => by rw [bound_unbound c hs]; rfl) v hs
  simp only at hl
  simp only [vecLoop, vecLoopX, run_bind, prep_ok o sh more s u v hd hf hu hv, run_cur]
  rw [show v.cur = c from rfl] at *
  simp only [hl.1, run_onCur, run_pure, State.onCur]
  rw [loopFold_foldl, ← range_from, consume_unbound]
  have h2 := hl.2
  rw [loopFold_foldl, ← range_from] at h2
  exact h2

end Sys2Proof.Laws
end

