-- ==== Sys2Proof/Laws/Store.lean ====
section
/-! SUPPORT. Laws of sparse tables: reading after writing, and that every write keeps the canonical form. -/

namespace Sys2Proof.Machine

section Tab

variable {α : Type}

theorem Tab.get_erase_same (d : α) (l : List (Nat × α)) (q : Nat) : Tab.get d (Tab.erase l q) q = d := by
  induction l with
  | nil => rfl
  | cons e t ih =>
    simp only [Tab.erase]
    split
    · exact ih
    · next h => simp only [Tab.get, h, if_false, ih]

theorem Tab.get_erase_other (d : α) (l : List (Nat × α)) {q r : Nat} (h : r ≠ q) :
    Tab.get d (Tab.erase l q) r = Tab.get d l r := by
  induction l with
  | nil => rfl
  | cons e t ih =>
    simp only [Tab.erase, Tab.get]
    split
    · next h1 => rw [ih, if_neg (by omega)]
    · simp only [Tab.get, ih]

theorem Tab.get_insert_same (d : α) (l : List (Nat × α)) (q : Nat) (x : α) (h : Tab.get d l q = d) (hr : ∀ e ∈ l, e.1 ≠ q) :
    Tab.get d (Tab.insert l q x) q = x := by
  induction l with
  | nil => simp [Tab.insert, Tab.get]
  | cons e t ih =>
    simp only [Tab.insert]
    split
    · simp [Tab.get]
    · have he : e.1 ≠ q := hr e (by simp)
      simp only [Tab.get, he, if_false] at h ⊢
      exact ih h fun e he => hr e (by simp [he])

theorem Tab.get_insert_other (d : α) (l : List (Nat × α)) {q r : Nat} (x : α) (h : r ≠ q) :
    Tab.get d (Tab.insert l q x) r = Tab.get d l r := by
  induction l with
  | nil => simp [Tab.insert, Tab.get, Ne.symm h]
  | cons e t ih =>
    simp only [Tab.insert]
    split
    · simp only [Tab.get, Ne.symm h, if_false]
    · simp only [Tab.get, ih]

theorem Tab.keys_erase (l : List (Nat × α)) (q : Nat) : ∀ e ∈ Tab.erase l q, e.1 ≠ q ∧ e ∈ l := by
  induction l with
  | nil => simp [Tab.erase]
  | cons e t ih =>
    simp only [Tab.erase]
    split
    · intro a ha
      exact ⟨(ih a ha).1, List.mem_cons_of_mem _ (ih a ha).2⟩
    · next h =>
      intro a ha
      rcases List.mem_cons.1 ha with rfl | ha
      · exact ⟨h, List.mem_cons_self⟩
      · exact ⟨(ih a ha).1, List.mem_cons_of_mem _ (ih a ha).2⟩

theorem Tab.keys_insert (l : List (Nat × α)) (q : Nat) (x : α) : ∀ e ∈ Tab.insert l q x, e = (q, x) ∨ e ∈ l := by
  induction l with
  | nil => simp [Tab.insert]
  | cons e t ih =>
    simp only [Tab.insert]
    split
    · intro a ha
      rcases List.mem_cons.1 ha with rfl | ha
      · exact .inl rfl
      · exact .inr ha
    · intro a ha
      rcases List.mem_cons.1 ha with rfl | ha
      · exact .inr List.mem_cons_self
      · rcases ih a ha with h | h
        · exact .inl h
        · exact .inr (List.mem_cons_of_mem _ h)

theorem Tab.rising_erase (l : List (Nat × α)) (q : Nat) (h : Tab.rising l = true) : Tab.rising (Tab.erase l q) = true := by
  induction l with
  | nil => rfl
  | cons e t ih =>
    simp only [Tab.rising, Bool.and_eq_true, List.all_eq_true, decide_eq_true_eq] at h
    simp only [Tab.erase]
    split
    · exact ih h.2
    · simp only [Tab.rising, Bool.and_eq_true, List.all_eq_true, decide_eq_true_eq]
      exact ⟨fun a ha => h.1 a (Tab.keys_erase t q a ha).2, ih h.2⟩

theorem Tab.rising_insert (l : List (Nat × α)) (q : Nat) (x : α) (h : Tab.rising l = true) (hq : ∀ e ∈ l, e.1 ≠ q) :
    Tab.rising (Tab.insert l q x) = true := by
  induction l with
  | nil => rfl
  | cons e t ih =>
    have h' := h
    simp only [Tab.rising, Bool.and_eq_true, List.all_eq_true, decide_eq_true_eq] at h
    simp only [Tab.insert]
    have he : e.1 ≠ q := hq e List.mem_cons_self
    split
    · next hlt =>
      simp only [Tab.rising, Bool.and_eq_true, List.all_eq_true, decide_eq_true_eq]
      refine ⟨fun a ha => ?_, h⟩
      rcases List.mem_cons.1 ha with rfl | ha
      · exact hlt
      · exact lt_trans hlt (h.1 a ha)
    · next hlt =>
      simp only [Tab.rising, Bool.and_eq_true, List.all_eq_true, decide_eq_true_eq]
      refine ⟨fun a ha => ?_, ih h.2 fun a ha => hq a (List.mem_cons_of_mem _ ha)⟩
      rcases Tab.keys_insert t q x a ha with rfl | ha
      · show e.1 < q
        omega
      · exact h.1 a ha

theorem Tab.rising_filter (l : List (Nat × α)) (p : Nat × α → Bool) (h : Tab.rising l = true) :
    Tab.rising (l.filter p) = true := by
  induction l with
  | nil => rfl
  | cons e t ih =>
    simp only [Tab.rising, Bool.and_eq_true, List.all_eq_true, decide_eq_true_eq] at h
    rw [List.filter_cons]
    split
    · simp only [Tab.rising, Bool.and_eq_true, List.all_eq_true, decide_eq_true_eq]
      exact ⟨fun a ha => h.1 a (List.mem_of_mem_filter ha), ih h.2⟩
    · exact ih h.2

variable [DecidableEq α]

/-- A write is read back. -/
@[simp] theorem Tab.get_set_same (d : α) (l : List (Nat × α)) (q : Nat) (x : α) : Tab.get d (Tab.set d l q x) q = x := by
  unfold Tab.set
  split
  · next h => rw [Tab.get_erase_same, h]
  · exact Tab.get_insert_same d _ q x (Tab.get_erase_same d l q) fun e he => (Tab.keys_erase l q e he).1

/-- A write leaves every other key alone. -/
theorem Tab.get_set_other (d : α) (l : List (Nat × α)) {q r : Nat} (x : α) (h : r ≠ q) :
    Tab.get d (Tab.set d l q x) r = Tab.get d l r := by
  unfold Tab.set
  split
  · exact Tab.get_erase_other d l h
  · rw [Tab.get_insert_other d _ x h, Tab.get_erase_other d l h]

theorem Tab.get_set (d : α) (l : List (Nat × α)) (q r : Nat) (x : α) :
    Tab.get d (Tab.set d l q x) r = if r = q then x else Tab.get d l r := by
  split
  · next h => rw [h, Tab.get_set_same]
  · next h => exact Tab.get_set_other d l x h

/-- A write keeps the canonical form. -/
theorem Tab.wf_set (d : α) (l : List (Nat × α)) (q : Nat) (x : α) (h : Tab.wf d l = true) :
    Tab.wf d (Tab.set d l q x) = true := by
  simp only [Tab.wf, Bool.and_eq_true, List.all_eq_true, decide_eq_true_eq] at h ⊢
  unfold Tab.set
  split
  · exact ⟨Tab.rising_erase l q h.1, fun e he => h.2 e (Tab.keys_erase l q e he).2⟩
  · next hx =>
    refine ⟨Tab.rising_insert _ q x (Tab.rising_erase l q h.1) fun e he => (Tab.keys_erase l q e he).1, fun e he => ?_⟩
    rcases Tab.keys_insert _ q x e he with rfl | he
    · exact hx
    · exact h.2 e (Tab.keys_erase l q e he).2

/-- Dropping entries keeps the canonical form. -/
theorem Tab.wf_filter (d : α) (l : List (Nat × α)) (p : Nat × α → Bool) (h : Tab.wf d l = true) :
    Tab.wf d (l.filter p) = true := by
  simp only [Tab.wf, Bool.and_eq_true, List.all_eq_true] at h ⊢
  exact ⟨Tab.rising_filter l p h.1, fun e he => h.2 e (List.mem_of_mem_filter he)⟩

end Tab

/-- Bytes read back as they were written, and others alone: k bytes at key a, read at key b. -/
theorem Store.get_setLE (n : Nat) : ∀ (l : Store 8) (a x b : Nat),
    Store.get (Store.setLE l a n x) b =
      if a ≤ b ∧ b < a + n then BitVec.ofNat 8 (x / 256 ^ (b - a)) else Store.get l b := by
  induction n with
  | zero => intro l a x b; simp only [Store.setLE]; rw [if_neg (by omega)]
  | succ n ih =>
    intro l a x b
    simp only [Store.setLE, ih]
    by_cases h0 : b = a
    · subst h0
      rw [if_neg (by omega), if_pos (by omega), Store.get, Tab.get_set_same]
      simp
    · by_cases h1 : a ≤ b ∧ b < a + (n + 1)
      · rw [if_pos (by omega), if_pos h1, Nat.div_div_eq_div_mul]
        congr 2
        rw [← Nat.pow_succ', show b - a = (b - (a + 1)) + 1 by omega]
      · rw [if_neg (by omega), if_neg h1, Store.get, Store.get, Tab.get_set_other _ _ _ h0]

theorem Store.getLE_congr (n : Nat) : ∀ (l l' : Store 8) (a : Nat),
    (∀ b, a ≤ b → b < a + n → Store.get l b = Store.get l' b) → Store.getLE l a n = Store.getLE l' a n := by
  induction n with
  | zero => intros; rfl
  | succ n ih =>
    intro l l' a h
    simp only [Store.getLE]
    rw [h a (by omega) (by omega), ih l l' (a + 1) fun b h1 h2 => h b (by omega) (by omega)]

/-- n bytes written are the low n bytes of the value. -/
theorem Store.getLE_setLE_same (n : Nat) : ∀ (l : Store 8) (a x : Nat),
    Store.getLE (Store.setLE l a n x) a n = x % 256 ^ n := by
  induction n with
  | zero => intro l a x; simp [Store.getLE, Nat.mod_one]
  | succ n ih =>
    intro l a x
    simp only [Store.getLE]
    have h0 := Store.get_setLE (n + 1) l a x a
    rw [if_pos (by omega)] at h0
    simp only [Nat.sub_self, Nat.pow_zero, Nat.div_one] at h0
    rw [h0]
    have h1 : Store.getLE (Store.setLE l a (n + 1) x) (a + 1) n =
        Store.getLE (Store.setLE (l.set a (BitVec.ofNat 8 x)) (a + 1) n (x / 256)) (a + 1) n := rfl
    rw [h1, ih, BitVec.toNat_ofNat, show 256 ^ (n + 1) = 256 * 256 ^ n from Nat.pow_succ', Nat.mod_mul]

/-- A write elsewhere is not seen. -/
theorem Store.getLE_setLE_other (l : Store 8) (a n x b k : Nat) (h : b + k ≤ a ∨ a + n ≤ b) :
    Store.getLE (Store.setLE l a n x) b k = Store.getLE l b k :=
  Store.getLE_congr k _ _ b fun c h1 h2 => by rw [Store.get_setLE, if_neg (by omega)]

end Sys2Proof.Machine
end

