-- ==== Sys2Proof/Laws/Mem.lean ====
section
/-! SUPPORT. Laws of main memory: a byte written is read back and leaves other bytes alone; every operation over memory
keeps the canonical form. -/

namespace Sys2Proof.Machine

open Sys2Proof.Laws

@[simp] theorem Device.resolve_writeByte (d : Device) (a b : Nat) (x : Byte) : (d.writeByte a x).resolve b = d.resolve b := rfl

/-- A byte reads as written where the two addresses have one current copy, and as before elsewhere (R72). -/
theorem Device.readByte_writeByte (d : Device) (a b : Nat) (x : Byte) :
    (d.writeByte a x).readByte b = if d.resolve b = d.resolve a then x else d.readByte b := by
  show Store.get (Store.set d.mem (d.resolve a) x) ((d.writeByte a x).resolve b) = _
  rw [Device.resolve_writeByte]
  exact Tab.get_set 0 d.mem (d.resolve a) (d.resolve b) x

theorem Device.readByte_writeByte_same (d : Device) (a : Nat) (x : Byte) : (d.writeByte a x).readByte a = x := by
  rw [Device.readByte_writeByte, if_pos rfl]

/-- With no page under move every address is its own current copy. -/
theorem Device.resolve_of_no_move (d : Device) (h : d.migs = []) (a : Nat) : d.resolve a = a := by
  simp [Device.resolve, h]

/-! ### The canonical form -/

/-- The device's memory is in canonical form. -/
def Device.memOk (d : Device) : Prop := Memory.wf d.mem = true

theorem Device.memOk_of_mem {d e : Device} (h : e.mem = d.mem) (hd : d.memOk) : e.memOk := by
  unfold Device.memOk at *
  rw [h]
  exact hd

theorem Device.memOk_writeByte {d : Device} (h : d.memOk) (a : Nat) (x : Byte) : (d.writeByte a x).memOk :=
  Tab.wf_set 0 d.mem (d.resolve a) x h

theorem Device.memOk_writeBytes (bs : List Byte) : ∀ {d : Device} (_ : d.memOk) (a : Nat), (d.writeBytes a bs).memOk := by
  induction bs with
  | nil => intro d h a; exact h
  | cons b bs ih => intro d h a; exact ih (d.memOk_writeByte h a b) (a + 1)

theorem Device.memOk_writeLE {d : Device} (h : d.memOk) (a n x : Nat) : (d.writeLE a n x).memOk :=
  d.memOk_writeBytes _ h a

theorem Device.memOk_cleanLines {d : Device} (h : d.memOk) (l : List Nat) : (d.cleanLines l).memOk := h
theorem Device.memOk_setPoison {d : Device} (h : d.memOk) (l : Nat) (b : Bool) : (d.setPoison l b).memOk := h

theorem foldl_keeps {α σ : Type} {P : σ → Prop} {f : σ → α → σ} (hf : ∀ s x, P s → P (f s x)) (l : List α) :
    ∀ s, P s → P (l.foldl f s) := by
  induction l with
  | nil => intro s h; exact h
  | cons x l ih => intro s h; exact ih _ (hf s x h)

theorem Device.memOk_scatter {d : Device} (h : d.memOk) (ps : List Nat) (bs : List Byte) : (d.scatter ps bs).memOk := by
  refine foldl_keeps (P := Device.memOk) (fun d x h => ?_) _ _ ?_
  · dsimp only
    split
    · exact h
    · exact Device.memOk_writeByte h _ _
  · split
    · exact h
    · exact h

theorem Device.memOk_clearRange {d : Device} (h : d.memOk) (pa n : Nat) : (d.clearRange pa n).memOk := by
  unfold Device.clearRange
  split
  · exact Device.memOk_cleanLines (Device.memOk_writeBytes _ h _) _
  · exact Tab.wf_filter 0 d.mem _ h

theorem Device.memOk_tlbKeep {d : Device} (h : d.memOk) (t : TlbEntry) : (d.tlbKeep t).memOk := h
theorem Device.memOk_tlbDrop {d : Device} (h : d.memOk) (c : Option Nat) (p : TlbEntry → Bool) : (d.tlbDrop c p).memOk := h

theorem keeps_stop {α : Type} {P : Device → Prop} (e : Stop) : Keeps P (DevM.stop e : DevM α) := fun _ h => h

theorem keeps_attempt {α : Type} {P : Device → Prop} {m : DevM α} (hm : Keeps P m) : Keeps P (DevM.attempt m) := by
  intro d h
  have h1 := hm d h
  unfold DevM.attempt
  cases hr : m d with
  | ok x d' => rw [hr] at h1; exact h1
  | error e d' => rw [hr] at h1; exact h1

theorem on_keeps {α : Type} {P : Device → Prop} {m : DevM α} (hm : Keeps P m) {d : Device} (h : P d) : P (m.on d).2 := by
  have h1 := hm d h
  unfold DevM.on
  cases hr : m d with
  | ok x d' => rw [hr] at h1; exact h1
  | error e d' => rw [hr] at h1; exact h1

theorem ite_memOk {c : Prop} [Decidable c] {d e : Device} (hd : d.memOk) (he : e.memOk) : (if c then d else e).memOk := by
  split
  · exact hd
  · exact he

theorem s2step_keeps (why : S2Why) (gpa : Nat) (rd wr ex dirty : Bool) (lvl table : Nat) {next : Nat → DevM Nat}
    (hn : ∀ t, Keeps Device.memOk (next t)) : Keeps Device.memOk (s2step why gpa rd wr ex dirty lvl table next) := by
  unfold s2step
  refine keeps_get_bind fun d h => ?_
  refine keeps_ite (keeps_stop _) (keeps_ite (keeps_stop _) ?_)
  dsimp only
  split
  · exact hn _
  · refine keeps_ite (keeps_stop _) (keeps_bind (keeps_set ?_) fun _ => keeps_pure _)
    exact ite_memOk h (Device.memOk_writeLE h _ _ _)
  · exact keeps_stop _

/-- The stage-2 walk changes tables only through writes of memory. -/
theorem s2walk_keeps (why : S2Why) (gpa : Nat) (rd wr ex dirty : Bool) (lvl : Nat) : ∀ table,
    Keeps Device.memOk (s2walk why gpa rd wr ex dirty lvl table) := by
  induction lvl with
  | zero => exact fun table => s2step_keeps why gpa rd wr ex dirty 0 table fun _ => keeps_stop _
  | succ n ih => exact fun table => s2step_keeps why gpa rd wr ex dirty (n + 1) table ih

theorem guestPhys_keeps (vf : Nat) (why : S2Why) (gpa : Nat) (rd wr ex dirty : Bool) :
    Keeps Device.memOk (guestPhys vf why gpa rd wr ex dirty) := by
  unfold guestPhys
  refine keeps_ite (keeps_pure _) (keeps_get_bind fun d h => ?_)
  split
  · exact keeps_stop _
  · exact s2walk_keeps _ _ _ _ _ _ _ _

theorem demandZero_keeps (vf : Nat) (acc : Acc) (va : Word) (gea ea : Nat) (e : Pte) :
    Keeps Device.memOk (demandZero vf acc va gea ea e) := by
  unfold demandZero
  refine keeps_get_bind fun d h => ?_
  split
  · exact keeps_stop _
  · dsimp only
    refine keeps_ite (keeps_stop _) (keeps_bind (guestPhys_keeps _ _ _ _ _ _ _) fun pool => ?_)
    refine keeps_get_bind fun d h => ?_
    refine keeps_ite (keeps_stop _) (keeps_bind (guestPhys_keeps _ _ _ _ _ _ _) fun slot => ?_)
    refine keeps_bind (guestPhys_keeps _ _ _ _ _ _ _) fun _ => ?_
    refine keeps_get_bind fun d h => keeps_bind (keeps_set ?_) fun _ => keeps_pure _
    exact Device.memOk_writeLE (Device.memOk_writeLE (Device.memOk_writeLE h _ _ _) _ _ _) _ _ _

theorem walkLeaf_keeps (c : Ctx) (acc : Acc) (setD : Bool) (va : Word) (lvl gea ea : Nat) (e : Pte) :
    Keeps Device.memOk (walkLeaf c acc setD va lvl gea ea e) := by
  unfold walkLeaf
  refine keeps_ite (keeps_stop _) (keeps_ite (keeps_pure _) ?_)
  exact keeps_bind (guestPhys_keeps _ _ _ _ _ _ _) fun _ =>
    keeps_bind (keeps_modify fun d h => Device.memOk_writeLE h _ _ _) fun _ => keeps_pure _

theorem walkStep_keeps (c : Ctx) (acc : Acc) (setD : Bool) (va : Word) (lvl table : Nat) {next : Nat → DevM Walked}
    (hn : ∀ t, Keeps Device.memOk (next t)) : Keeps Device.memOk (walkStep c acc setD va lvl table next) := by
  unfold walkStep
  refine keeps_bind (guestPhys_keeps _ _ _ _ _ _ _) fun ea => keeps_get_bind fun d h => ?_
  refine keeps_ite (keeps_stop _) (keeps_ite (keeps_stop _) ?_)
  dsimp only
  split
  · exact keeps_bind (demandZero_keeps _ _ _ _ _ _) fun e => walkLeaf_keeps _ _ _ _ _ _ _ _
  · exact hn _
  · exact walkLeaf_keeps _ _ _ _ _ _ _ _
  · exact keeps_stop _

theorem walkFrom_keeps (c : Ctx) (acc : Acc) (setD : Bool) (va : Word) (lvl : Nat) : ∀ table,
    Keeps Device.memOk (walkFrom c acc setD va lvl table) := by
  induction lvl with
  | zero => exact fun table => walkStep_keeps c acc setD va 0 table fun _ => keeps_stop _
  | succ n ih => exact fun table => walkStep_keeps c acc setD va (n + 1) table ih

theorem finish_keeps (c : Ctx) (acc : Acc) (setD : Bool) (va : Word) (gpa : Nat) : Keeps Device.memOk (finish c acc setD va gpa) := by
  unfold finish
  exact keeps_bind (guestPhys_keeps _ _ _ _ _ _ _) fun pa => keeps_get_bind fun d h => keeps_ite (keeps_pure _) (keeps_stop _)

theorem walk_keeps (c : Ctx) (acc : Acc) (setD : Bool) (va : Word) : Keeps Device.memOk (walk c acc setD va) := by
  unfold walk
  exact keeps_bind (walkFrom_keeps _ _ _ _ _ _) fun w =>
    keeps_bind (keeps_modify fun d h => Device.memOk_tlbKeep h _) fun _ => finish_keeps _ _ _ _ _

theorem groupDirty_keeps (c : Ctx) (acc : Acc) (va : Word) (t : TlbEntry) : Keeps Device.memOk (groupDirty c acc va t) := by
  unfold groupDirty
  refine keeps_bind (guestPhys_keeps _ _ _ _ _ _ _) fun ea => keeps_modify fun d h => Device.memOk_tlbKeep ?_ _
  exact ite_memOk (Device.memOk_writeLE h _ _ _) h

theorem translateOnce_keeps (c : Ctx) (acc : Acc) (setD : Bool) (va : Word) :
    Keeps Device.memOk (translateOnce c acc setD va) := by
  unfold translateOnce
  refine keeps_ite (keeps_stop _) (keeps_ite (keeps_stop _) (keeps_get_bind fun d h => ?_))
  split
  · refine keeps_ite (keeps_stop _) (keeps_ite (walk_keeps _ _ _ _) ?_)
    split
    · exact keeps_bind (groupDirty_keeps _ _ _ _) fun _ => finish_keeps _ _ _ _ _
    · exact finish_keeps _ _ _ _ _
  · exact walk_keeps _ _ _ _

/-- Translating keeps the memory's canonical form (R80, R91). -/
theorem translate_keeps (c : Ctx) (acc : Acc) (setD : Bool) (va : Word) : Keeps Device.memOk (translate c acc setD va) := by
  unfold translate
  exact keeps_bind (translateOnce_keeps _ _ _ _) fun pa => keeps_ite (translateOnce_keeps _ _ _ _) (keeps_pure _)

theorem vread_keeps (c : Ctx) (n : Nat) : ∀ va, Keeps Device.memOk (vread c va n) := by
  induction n with
  | zero => exact fun va => keeps_pure _
  | succ n ih =>
    exact fun va => keeps_bind (translate_keeps _ _ _ _) fun pa => keeps_get_bind fun d h =>
      keeps_ite (keeps_stop _) (keeps_bind (ih _) fun _ => keeps_pure _)

theorem vcheckW_keeps (c : Ctx) (b : Bool) (n : Nat) : ∀ va, Keeps Device.memOk (vcheckW c b va n) := by
  induction n with
  | zero => exact fun va => keeps_pure _
  | succ n ih =>
    exact fun va => keeps_bind (translate_keeps _ _ _ _) fun pa => keeps_bind (ih _) fun _ => keeps_pure _

theorem vwrite_keeps (c : Ctx) (va : Word) (bs : List Byte) : Keeps Device.memOk (vwrite c va bs) := by
  unfold vwrite
  exact keeps_bind (vcheckW_keeps _ _ _ _) fun _ => keeps_bind (vcheckW_keeps _ _ _ _) fun ps => keeps_modify fun d h => Device.memOk_scatter h _ _

theorem gpread_keeps (vf n : Nat) : ∀ gpa, Keeps Device.memOk (gpread vf gpa n) := by
  induction n with
  | zero => exact fun gpa => keeps_pure _
  | succ n ih =>
    exact fun gpa => keeps_bind (guestPhys_keeps _ _ _ _ _ _ _) fun pa => keeps_get_bind fun d h =>
      keeps_ite (keeps_stop _) (keeps_ite (keeps_stop _) (keeps_bind (ih _) fun _ => keeps_pure _))

theorem gpcheckW_keeps (vf : Nat) (b : Bool) (n : Nat) : ∀ gpa, Keeps Device.memOk (gpcheckW vf b gpa n) := by
  induction n with
  | zero => exact fun gpa => keeps_pure _
  | succ n ih =>
    exact fun gpa => keeps_bind (guestPhys_keeps _ _ _ _ _ _ _) fun pa => keeps_get_bind fun d h =>
      keeps_ite (keeps_stop _) (keeps_bind (ih _) fun _ => keeps_pure _)

theorem gpwrite_keeps (vf gpa : Nat) (bs : List Byte) : Keeps Device.memOk (gpwrite vf gpa bs) := by
  unfold gpwrite
  exact keeps_bind (gpcheckW_keeps _ _ _ _) fun _ => keeps_bind (gpcheckW_keeps _ _ _ _) fun ps => keeps_modify fun d h => Device.memOk_scatter h _ _

end Sys2Proof.Machine
end

