-- ==== Sys2Proof/Laws/State.lean ====
section
/-! SUPPORT. What each update of the state changes: one lemma per update and field, what the shared operations of
control leave (a trap, its return, retirement, a jump), objects of the device by number, time and synchronisation, and the bytes of a flit. -/

namespace Sys2Proof.Machine

/-! ### Strands -/


@[simp] theorem Strand.setS_uid (t : Strand) (n : Nat) (x : Word) : (t.setS n x).uid = t.uid := by
  unfold Strand.setS; split <;> rfl
@[simp] theorem Strand.setS_status (t : Strand) (n : Nat) (x : Word) : (t.setS n x).status = t.status := by
  unfold Strand.setS; split <;> rfl
@[simp] theorem Strand.setS_pc (t : Strand) (n : Nat) (x : Word) : (t.setS n x).pc = t.pc := by
  unfold Strand.setS; split <;> rfl
@[simp] theorem Strand.setS_csr (t : Strand) (n : Nat) (x : Word) : (t.setS n x).csr = t.csr := by
  unfold Strand.setS; split <;> rfl
@[simp] theorem Strand.setS_sup (t : Strand) (n : Nat) (x : Word) : (t.setS n x).sup = t.sup := by
  unfold Strand.setS; split <;> rfl
@[simp] theorem Strand.setS_taint (t : Strand) (n : Nat) (x : Word) : (t.setS n x).taint = t.taint := by
  unfold Strand.setS; split <;> rfl
@[simp] theorem Strand.setS_buf (t : Strand) (n : Nat) (x : Word) : (t.setS n x).buf = t.buf := by
  unfold Strand.setS; split <;> rfl
@[simp] theorem Strand.setS_nest (t : Strand) (n : Nat) (x : Word) : (t.setS n x).nest = t.nest := by
  unfold Strand.setS; split <;> rfl
@[simp] theorem Strand.setS_recs (t : Strand) (n : Nat) (x : Word) : (t.setS n x).recs = t.recs := by
  unfold Strand.setS; split <;> rfl
@[simp] theorem Strand.setS_ev (t : Strand) (n : Nat) (x : Word) : (t.setS n x).ev = t.ev := by
  unfold Strand.setS; split <;> rfl
@[simp] theorem Strand.setS_binds (t : Strand) (n : Nat) (x : Word) : (t.setS n x).binds = t.binds := by
  unfold Strand.setS; split <;> rfl
@[simp] theorem Strand.setS_farm (t : Strand) (n : Nat) (x : Word) : (t.setS n x).farm = t.farm := by
  unfold Strand.setS; split <;> rfl
@[simp] theorem Strand.setS_kern (t : Strand) (n : Nat) (x : Word) : (t.setS n x).kern = t.kern := by
  unfold Strand.setS; split <;> rfl

@[simp] theorem Strand.setP_uid (t : Strand) (n i : Nat) (b : Bool) : (t.setP n i b).uid = t.uid := by
  unfold Strand.setP; split <;> rfl
@[simp] theorem Strand.setP_status (t : Strand) (n i : Nat) (b : Bool) : (t.setP n i b).status = t.status := by
  unfold Strand.setP; split <;> rfl
@[simp] theorem Strand.setP_pc (t : Strand) (n i : Nat) (b : Bool) : (t.setP n i b).pc = t.pc := by
  unfold Strand.setP; split <;> rfl
@[simp] theorem Strand.setP_csr (t : Strand) (n i : Nat) (b : Bool) : (t.setP n i b).csr = t.csr := by
  unfold Strand.setP; split <;> rfl
@[simp] theorem Strand.setP_sup (t : Strand) (n i : Nat) (b : Bool) : (t.setP n i b).sup = t.sup := by
  unfold Strand.setP; split <;> rfl
@[simp] theorem Strand.setP_taint (t : Strand) (n i : Nat) (b : Bool) : (t.setP n i b).taint = t.taint := by
  unfold Strand.setP; split <;> rfl
@[simp] theorem Strand.setP_buf (t : Strand) (n i : Nat) (b : Bool) : (t.setP n i b).buf = t.buf := by
  unfold Strand.setP; split <;> rfl
@[simp] theorem Strand.setP_nest (t : Strand) (n i : Nat) (b : Bool) : (t.setP n i b).nest = t.nest := by
  unfold Strand.setP; split <;> rfl
@[simp] theorem Strand.setP_recs (t : Strand) (n i : Nat) (b : Bool) : (t.setP n i b).recs = t.recs := by
  unfold Strand.setP; split <;> rfl
@[simp] theorem Strand.setP_ev (t : Strand) (n i : Nat) (b : Bool) : (t.setP n i b).ev = t.ev := by
  unfold Strand.setP; split <;> rfl
@[simp] theorem Strand.setP_binds (t : Strand) (n i : Nat) (b : Bool) : (t.setP n i b).binds = t.binds := by
  unfold Strand.setP; split <;> rfl
@[simp] theorem Strand.setP_farm (t : Strand) (n i : Nat) (b : Bool) : (t.setP n i b).farm = t.farm := by
  unfold Strand.setP; split <;> rfl
@[simp] theorem Strand.setP_kern (t : Strand) (n i : Nat) (b : Bool) : (t.setP n i b).kern = t.kern := by
  unfold Strand.setP; split <;> rfl

@[simp] theorem Strand.setElem_uid (t : Strand) (w r i x : Nat) : (t.setElem w r i x).uid = t.uid := by
  unfold Strand.setElem; split <;> rfl
@[simp] theorem Strand.setElem_status (t : Strand) (w r i x : Nat) : (t.setElem w r i x).status = t.status := by
  unfold Strand.setElem; split <;> rfl
@[simp] theorem Strand.setElem_pc (t : Strand) (w r i x : Nat) : (t.setElem w r i x).pc = t.pc := by
  unfold Strand.setElem; split <;> rfl
@[simp] theorem Strand.setElem_sup (t : Strand) (w r i x : Nat) : (t.setElem w r i x).sup = t.sup := by
  unfold Strand.setElem; split <;> rfl
@[simp] theorem Strand.setElem_taint (t : Strand) (w r i x : Nat) : (t.setElem w r i x).taint = t.taint := by
  unfold Strand.setElem; split <;> rfl
@[simp] theorem Strand.setElem_buf (t : Strand) (w r i x : Nat) : (t.setElem w r i x).buf = t.buf := by
  unfold Strand.setElem; split <;> rfl
@[simp] theorem Strand.setElem_nest (t : Strand) (w r i x : Nat) : (t.setElem w r i x).nest = t.nest := by
  unfold Strand.setElem; split <;> rfl
@[simp] theorem Strand.setElem_recs (t : Strand) (w r i x : Nat) : (t.setElem w r i x).recs = t.recs := by
  unfold Strand.setElem; split <;> rfl
@[simp] theorem Strand.setElem_ev (t : Strand) (w r i x : Nat) : (t.setElem w r i x).ev = t.ev := by
  unfold Strand.setElem; split <;> rfl
@[simp] theorem Strand.setElem_binds (t : Strand) (w r i x : Nat) : (t.setElem w r i x).binds = t.binds := by
  unfold Strand.setElem; split <;> rfl
@[simp] theorem Strand.setElem_farm (t : Strand) (w r i x : Nat) : (t.setElem w r i x).farm = t.farm := by
  unfold Strand.setElem; split <;> rfl
@[simp] theorem Strand.setElem_kern (t : Strand) (w r i x : Nat) : (t.setElem w r i x).kern = t.kern := by
  unfold Strand.setElem; split <;> rfl

@[simp] theorem Strand.setVl_uid (t : Strand) (n : Nat) : (t.setVl n).uid = t.uid := rfl
@[simp] theorem Strand.setVl_status (t : Strand) (n : Nat) : (t.setVl n).status = t.status := rfl
@[simp] theorem Strand.setVl_pc (t : Strand) (n : Nat) : (t.setVl n).pc = t.pc := rfl
@[simp] theorem Strand.setVl_sup (t : Strand) (n : Nat) : (t.setVl n).sup = t.sup := rfl
@[simp] theorem Strand.setVl_regs (t : Strand) (n : Nat) : (t.setVl n).regs = t.regs := rfl
@[simp] theorem Strand.setVl_taint (t : Strand) (n : Nat) : (t.setVl n).taint = t.taint := rfl
@[simp] theorem Strand.setVl_buf (t : Strand) (n : Nat) : (t.setVl n).buf = t.buf := rfl
@[simp] theorem Strand.setVl_nest (t : Strand) (n : Nat) : (t.setVl n).nest = t.nest := rfl
@[simp] theorem Strand.setVl_recs (t : Strand) (n : Nat) : (t.setVl n).recs = t.recs := rfl
@[simp] theorem Strand.setVl_ev (t : Strand) (n : Nat) : (t.setVl n).ev = t.ev := rfl
@[simp] theorem Strand.setVl_binds (t : Strand) (n : Nat) : (t.setVl n).binds = t.binds := rfl
@[simp] theorem Strand.setVl_farm (t : Strand) (n : Nat) : (t.setVl n).farm = t.farm := rfl
@[simp] theorem Strand.setVl_kern (t : Strand) (n : Nat) : (t.setVl n).kern = t.kern := rfl

@[simp] theorem Strand.setAl_uid (t : Strand) (n : Nat) : (t.setAl n).uid = t.uid := rfl
@[simp] theorem Strand.setAl_status (t : Strand) (n : Nat) : (t.setAl n).status = t.status := rfl
@[simp] theorem Strand.setAl_pc (t : Strand) (n : Nat) : (t.setAl n).pc = t.pc := rfl
@[simp] theorem Strand.setAl_sup (t : Strand) (n : Nat) : (t.setAl n).sup = t.sup := rfl
@[simp] theorem Strand.setAl_regs (t : Strand) (n : Nat) : (t.setAl n).regs = t.regs := rfl
@[simp] theorem Strand.setAl_taint (t : Strand) (n : Nat) : (t.setAl n).taint = t.taint := rfl
@[simp] theorem Strand.setAl_buf (t : Strand) (n : Nat) : (t.setAl n).buf = t.buf := rfl
@[simp] theorem Strand.setAl_nest (t : Strand) (n : Nat) : (t.setAl n).nest = t.nest := rfl
@[simp] theorem Strand.setAl_recs (t : Strand) (n : Nat) : (t.setAl n).recs = t.recs := rfl
@[simp] theorem Strand.setAl_ev (t : Strand) (n : Nat) : (t.setAl n).ev = t.ev := rfl
@[simp] theorem Strand.setAl_binds (t : Strand) (n : Nat) : (t.setAl n).binds = t.binds := rfl
@[simp] theorem Strand.setAl_farm (t : Strand) (n : Nat) : (t.setAl n).farm = t.farm := rfl
@[simp] theorem Strand.setAl_kern (t : Strand) (n : Nat) : (t.setAl n).kern = t.kern := rfl

@[simp] theorem Strand.setVstart_uid (t : Strand) (n : Nat) : (t.setVstart n).uid = t.uid := rfl
@[simp] theorem Strand.setVstart_status (t : Strand) (n : Nat) : (t.setVstart n).status = t.status := rfl
@[simp] theorem Strand.setVstart_pc (t : Strand) (n : Nat) : (t.setVstart n).pc = t.pc := rfl
@[simp] theorem Strand.setVstart_sup (t : Strand) (n : Nat) : (t.setVstart n).sup = t.sup := rfl
@[simp] theorem Strand.setVstart_regs (t : Strand) (n : Nat) : (t.setVstart n).regs = t.regs := rfl
@[simp] theorem Strand.setVstart_taint (t : Strand) (n : Nat) : (t.setVstart n).taint = t.taint := rfl
@[simp] theorem Strand.setVstart_buf (t : Strand) (n : Nat) : (t.setVstart n).buf = t.buf := rfl
@[simp] theorem Strand.setVstart_nest (t : Strand) (n : Nat) : (t.setVstart n).nest = t.nest := rfl
@[simp] theorem Strand.setVstart_recs (t : Strand) (n : Nat) : (t.setVstart n).recs = t.recs := rfl
@[simp] theorem Strand.setVstart_ev (t : Strand) (n : Nat) : (t.setVstart n).ev = t.ev := rfl
@[simp] theorem Strand.setVstart_binds (t : Strand) (n : Nat) : (t.setVstart n).binds = t.binds := rfl
@[simp] theorem Strand.setVstart_farm (t : Strand) (n : Nat) : (t.setVstart n).farm = t.farm := rfl
@[simp] theorem Strand.setVstart_kern (t : Strand) (n : Nat) : (t.setVstart n).kern = t.kern := rfl

@[simp] theorem Strand.setTrim_uid (t : Strand) (k n : Nat) : (t.setTrim k n).uid = t.uid := rfl
@[simp] theorem Strand.setTrim_status (t : Strand) (k n : Nat) : (t.setTrim k n).status = t.status := rfl
@[simp] theorem Strand.setTrim_pc (t : Strand) (k n : Nat) : (t.setTrim k n).pc = t.pc := rfl
@[simp] theorem Strand.setTrim_sup (t : Strand) (k n : Nat) : (t.setTrim k n).sup = t.sup := rfl
@[simp] theorem Strand.setTrim_regs (t : Strand) (k n : Nat) : (t.setTrim k n).regs = t.regs := rfl
@[simp] theorem Strand.setTrim_taint (t : Strand) (k n : Nat) : (t.setTrim k n).taint = t.taint := rfl
@[simp] theorem Strand.setTrim_buf (t : Strand) (k n : Nat) : (t.setTrim k n).buf = t.buf := rfl
@[simp] theorem Strand.setTrim_nest (t : Strand) (k n : Nat) : (t.setTrim k n).nest = t.nest := rfl
@[simp] theorem Strand.setTrim_recs (t : Strand) (k n : Nat) : (t.setTrim k n).recs = t.recs := rfl
@[simp] theorem Strand.setTrim_ev (t : Strand) (k n : Nat) : (t.setTrim k n).ev = t.ev := rfl
@[simp] theorem Strand.setTrim_binds (t : Strand) (k n : Nat) : (t.setTrim k n).binds = t.binds := rfl
@[simp] theorem Strand.setTrim_farm (t : Strand) (k n : Nat) : (t.setTrim k n).farm = t.farm := rfl
@[simp] theorem Strand.setTrim_kern (t : Strand) (k n : Nat) : (t.setTrim k n).kern = t.kern := rfl

@[simp] theorem Strand.raise_uid (t : Strand) (f : Flags) : (t.raise f).uid = t.uid := rfl
@[simp] theorem Strand.raise_status (t : Strand) (f : Flags) : (t.raise f).status = t.status := rfl
@[simp] theorem Strand.raise_pc (t : Strand) (f : Flags) : (t.raise f).pc = t.pc := rfl
@[simp] theorem Strand.raise_sup (t : Strand) (f : Flags) : (t.raise f).sup = t.sup := rfl
@[simp] theorem Strand.raise_regs (t : Strand) (f : Flags) : (t.raise f).regs = t.regs := rfl
@[simp] theorem Strand.raise_taint (t : Strand) (f : Flags) : (t.raise f).taint = t.taint := rfl
@[simp] theorem Strand.raise_buf (t : Strand) (f : Flags) : (t.raise f).buf = t.buf := rfl
@[simp] theorem Strand.raise_nest (t : Strand) (f : Flags) : (t.raise f).nest = t.nest := rfl
@[simp] theorem Strand.raise_recs (t : Strand) (f : Flags) : (t.raise f).recs = t.recs := rfl
@[simp] theorem Strand.raise_ev (t : Strand) (f : Flags) : (t.raise f).ev = t.ev := rfl
@[simp] theorem Strand.raise_binds (t : Strand) (f : Flags) : (t.raise f).binds = t.binds := rfl
@[simp] theorem Strand.raise_farm (t : Strand) (f : Flags) : (t.raise f).farm = t.farm := rfl
@[simp] theorem Strand.raise_kern (t : Strand) (f : Flags) : (t.raise f).kern = t.kern := rfl

@[simp] theorem Strand.raiseInt_uid (t : Strand) (b c : Bool) : (t.raiseInt b c).uid = t.uid := rfl
@[simp] theorem Strand.raiseInt_status (t : Strand) (b c : Bool) : (t.raiseInt b c).status = t.status := rfl
@[simp] theorem Strand.raiseInt_pc (t : Strand) (b c : Bool) : (t.raiseInt b c).pc = t.pc := rfl
@[simp] theorem Strand.raiseInt_sup (t : Strand) (b c : Bool) : (t.raiseInt b c).sup = t.sup := rfl
@[simp] theorem Strand.raiseInt_regs (t : Strand) (b c : Bool) : (t.raiseInt b c).regs = t.regs := rfl
@[simp] theorem Strand.raiseInt_taint (t : Strand) (b c : Bool) : (t.raiseInt b c).taint = t.taint := rfl
@[simp] theorem Strand.raiseInt_buf (t : Strand) (b c : Bool) : (t.raiseInt b c).buf = t.buf := rfl
@[simp] theorem Strand.raiseInt_nest (t : Strand) (b c : Bool) : (t.raiseInt b c).nest = t.nest := rfl
@[simp] theorem Strand.raiseInt_recs (t : Strand) (b c : Bool) : (t.raiseInt b c).recs = t.recs := rfl
@[simp] theorem Strand.raiseInt_ev (t : Strand) (b c : Bool) : (t.raiseInt b c).ev = t.ev := rfl
@[simp] theorem Strand.raiseInt_binds (t : Strand) (b c : Bool) : (t.raiseInt b c).binds = t.binds := rfl
@[simp] theorem Strand.raiseInt_farm (t : Strand) (b c : Bool) : (t.raiseInt b c).farm = t.farm := rfl
@[simp] theorem Strand.raiseInt_kern (t : Strand) (b c : Bool) : (t.raiseInt b c).kern = t.kern := rfl

@[simp] theorem Strand.setAcc_uid (t : Strand) (n r k : Nat) (x : BitVec 32) : (t.setAcc n r k x).uid = t.uid := rfl
@[simp] theorem Strand.setAcc_status (t : Strand) (n r k : Nat) (x : BitVec 32) : (t.setAcc n r k x).status = t.status := rfl
@[simp] theorem Strand.setAcc_pc (t : Strand) (n r k : Nat) (x : BitVec 32) : (t.setAcc n r k x).pc = t.pc := rfl
@[simp] theorem Strand.setAcc_csr (t : Strand) (n r k : Nat) (x : BitVec 32) : (t.setAcc n r k x).csr = t.csr := rfl
@[simp] theorem Strand.setAcc_sup (t : Strand) (n r k : Nat) (x : BitVec 32) : (t.setAcc n r k x).sup = t.sup := rfl
@[simp] theorem Strand.setAcc_taint (t : Strand) (n r k : Nat) (x : BitVec 32) : (t.setAcc n r k x).taint = t.taint := rfl
@[simp] theorem Strand.setAcc_buf (t : Strand) (n r k : Nat) (x : BitVec 32) : (t.setAcc n r k x).buf = t.buf := rfl
@[simp] theorem Strand.setAcc_nest (t : Strand) (n r k : Nat) (x : BitVec 32) : (t.setAcc n r k x).nest = t.nest := rfl
@[simp] theorem Strand.setAcc_recs (t : Strand) (n r k : Nat) (x : BitVec 32) : (t.setAcc n r k x).recs = t.recs := rfl
@[simp] theorem Strand.setAcc_ev (t : Strand) (n r k : Nat) (x : BitVec 32) : (t.setAcc n r k x).ev = t.ev := rfl
@[simp] theorem Strand.setAcc_binds (t : Strand) (n r k : Nat) (x : BitVec 32) : (t.setAcc n r k x).binds = t.binds := rfl
@[simp] theorem Strand.setAcc_farm (t : Strand) (n r k : Nat) (x : BitVec 32) : (t.setAcc n r k x).farm = t.farm := rfl
@[simp] theorem Strand.setAcc_kern (t : Strand) (n r k : Nat) (x : BitVec 32) : (t.setAcc n r k x).kern = t.kern := rfl

@[simp] theorem Strand.setM_uid (t : Strand) (l n r k : Nat) (x : BitVec 64) : (t.setM l n r k x).uid = t.uid := rfl
@[simp] theorem Strand.setM_status (t : Strand) (l n r k : Nat) (x : BitVec 64) : (t.setM l n r k x).status = t.status := rfl
@[simp] theorem Strand.setM_pc (t : Strand) (l n r k : Nat) (x : BitVec 64) : (t.setM l n r k x).pc = t.pc := rfl
@[simp] theorem Strand.setM_csr (t : Strand) (l n r k : Nat) (x : BitVec 64) : (t.setM l n r k x).csr = t.csr := rfl
@[simp] theorem Strand.setM_sup (t : Strand) (l n r k : Nat) (x : BitVec 64) : (t.setM l n r k x).sup = t.sup := rfl
@[simp] theorem Strand.setM_taint (t : Strand) (l n r k : Nat) (x : BitVec 64) : (t.setM l n r k x).taint = t.taint := rfl
@[simp] theorem Strand.setM_buf (t : Strand) (l n r k : Nat) (x : BitVec 64) : (t.setM l n r k x).buf = t.buf := rfl
@[simp] theorem Strand.setM_nest (t : Strand) (l n r k : Nat) (x : BitVec 64) : (t.setM l n r k x).nest = t.nest := rfl
@[simp] theorem Strand.setM_recs (t : Strand) (l n r k : Nat) (x : BitVec 64) : (t.setM l n r k x).recs = t.recs := rfl
@[simp] theorem Strand.setM_ev (t : Strand) (l n r k : Nat) (x : BitVec 64) : (t.setM l n r k x).ev = t.ev := rfl
@[simp] theorem Strand.setM_binds (t : Strand) (l n r k : Nat) (x : BitVec 64) : (t.setM l n r k x).binds = t.binds := rfl
@[simp] theorem Strand.setM_farm (t : Strand) (l n r k : Nat) (x : BitVec 64) : (t.setM l n r k x).farm = t.farm := rfl
@[simp] theorem Strand.setM_kern (t : Strand) (l n r k : Nat) (x : BitVec 64) : (t.setM l n r k x).kern = t.kern := rfl

@[simp] theorem Strand.slicePut_uid (t : Strand) (l o n x : Nat) : (t.slicePut l o n x).uid = t.uid := rfl
@[simp] theorem Strand.slicePut_status (t : Strand) (l o n x : Nat) : (t.slicePut l o n x).status = t.status := rfl
@[simp] theorem Strand.slicePut_pc (t : Strand) (l o n x : Nat) : (t.slicePut l o n x).pc = t.pc := rfl
@[simp] theorem Strand.slicePut_csr (t : Strand) (l o n x : Nat) : (t.slicePut l o n x).csr = t.csr := rfl
@[simp] theorem Strand.slicePut_sup (t : Strand) (l o n x : Nat) : (t.slicePut l o n x).sup = t.sup := rfl
@[simp] theorem Strand.slicePut_taint (t : Strand) (l o n x : Nat) : (t.slicePut l o n x).taint = t.taint := rfl
@[simp] theorem Strand.slicePut_buf (t : Strand) (l o n x : Nat) : (t.slicePut l o n x).buf = t.buf := rfl
@[simp] theorem Strand.slicePut_nest (t : Strand) (l o n x : Nat) : (t.slicePut l o n x).nest = t.nest := rfl
@[simp] theorem Strand.slicePut_recs (t : Strand) (l o n x : Nat) : (t.slicePut l o n x).recs = t.recs := rfl
@[simp] theorem Strand.slicePut_ev (t : Strand) (l o n x : Nat) : (t.slicePut l o n x).ev = t.ev := rfl
@[simp] theorem Strand.slicePut_binds (t : Strand) (l o n x : Nat) : (t.slicePut l o n x).binds = t.binds := rfl
@[simp] theorem Strand.slicePut_farm (t : Strand) (l o n x : Nat) : (t.slicePut l o n x).farm = t.farm := rfl
@[simp] theorem Strand.slicePut_kern (t : Strand) (l o n x : Nat) : (t.slicePut l o n x).kern = t.kern := rfl

@[simp] theorem Strand.setEv_uid (t : Strand) (n : Nat) (e : EvCtr) : (t.setEv n e).uid = t.uid := rfl
@[simp] theorem Strand.setEv_status (t : Strand) (n : Nat) (e : EvCtr) : (t.setEv n e).status = t.status := rfl
@[simp] theorem Strand.setEv_pc (t : Strand) (n : Nat) (e : EvCtr) : (t.setEv n e).pc = t.pc := rfl
@[simp] theorem Strand.setEv_csr (t : Strand) (n : Nat) (e : EvCtr) : (t.setEv n e).csr = t.csr := rfl
@[simp] theorem Strand.setEv_sup (t : Strand) (n : Nat) (e : EvCtr) : (t.setEv n e).sup = t.sup := rfl
@[simp] theorem Strand.setEv_regs (t : Strand) (n : Nat) (e : EvCtr) : (t.setEv n e).regs = t.regs := rfl
@[simp] theorem Strand.setEv_taint (t : Strand) (n : Nat) (e : EvCtr) : (t.setEv n e).taint = t.taint := rfl
@[simp] theorem Strand.setEv_buf (t : Strand) (n : Nat) (e : EvCtr) : (t.setEv n e).buf = t.buf := rfl
@[simp] theorem Strand.setEv_nest (t : Strand) (n : Nat) (e : EvCtr) : (t.setEv n e).nest = t.nest := rfl
@[simp] theorem Strand.setEv_recs (t : Strand) (n : Nat) (e : EvCtr) : (t.setEv n e).recs = t.recs := rfl
@[simp] theorem Strand.setEv_binds (t : Strand) (n : Nat) (e : EvCtr) : (t.setEv n e).binds = t.binds := rfl
@[simp] theorem Strand.setEv_farm (t : Strand) (n : Nat) (e : EvCtr) : (t.setEv n e).farm = t.farm := rfl
@[simp] theorem Strand.setEv_kern (t : Strand) (n : Nat) (e : EvCtr) : (t.setEv n e).kern = t.kern := rfl

@[simp] theorem Strand.closeConvoy_uid (t : Strand) : (t.closeConvoy).uid = t.uid := rfl
@[simp] theorem Strand.closeConvoy_status (t : Strand) : (t.closeConvoy).status = t.status := rfl
@[simp] theorem Strand.closeConvoy_pc (t : Strand) : (t.closeConvoy).pc = t.pc := rfl
@[simp] theorem Strand.closeConvoy_csr (t : Strand) : (t.closeConvoy).csr = t.csr := rfl
@[simp] theorem Strand.closeConvoy_sup (t : Strand) : (t.closeConvoy).sup = t.sup := rfl
@[simp] theorem Strand.closeConvoy_regs (t : Strand) : (t.closeConvoy).regs = t.regs := rfl
@[simp] theorem Strand.closeConvoy_taint (t : Strand) : (t.closeConvoy).taint = t.taint := rfl
@[simp] theorem Strand.closeConvoy_buf (t : Strand) : (t.closeConvoy).buf = t.buf := rfl
@[simp] theorem Strand.closeConvoy_nest (t : Strand) : (t.closeConvoy).nest = t.nest := rfl
@[simp] theorem Strand.closeConvoy_recs (t : Strand) : (t.closeConvoy).recs = t.recs := rfl
@[simp] theorem Strand.closeConvoy_ev (t : Strand) : (t.closeConvoy).ev = t.ev := rfl
@[simp] theorem Strand.closeConvoy_binds (t : Strand) : (t.closeConvoy).binds = t.binds := rfl
@[simp] theorem Strand.closeConvoy_farm (t : Strand) : (t.closeConvoy).farm = t.farm := rfl
@[simp] theorem Strand.closeConvoy_kern (t : Strand) : (t.closeConvoy).kern = t.kern := rfl

@[simp] theorem Strand.unread_uid (t : Strand) (l : List Nat) : (t.unread l).uid = t.uid := rfl
@[simp] theorem Strand.unread_status (t : Strand) (l : List Nat) : (t.unread l).status = t.status := rfl
@[simp] theorem Strand.unread_pc (t : Strand) (l : List Nat) : (t.unread l).pc = t.pc := rfl
@[simp] theorem Strand.unread_csr (t : Strand) (l : List Nat) : (t.unread l).csr = t.csr := rfl
@[simp] theorem Strand.unread_sup (t : Strand) (l : List Nat) : (t.unread l).sup = t.sup := rfl
@[simp] theorem Strand.unread_regs (t : Strand) (l : List Nat) : (t.unread l).regs = t.regs := rfl
@[simp] theorem Strand.unread_taint (t : Strand) (l : List Nat) : (t.unread l).taint = t.taint := rfl
@[simp] theorem Strand.unread_buf (t : Strand) (l : List Nat) : (t.unread l).buf = t.buf := rfl
@[simp] theorem Strand.unread_nest (t : Strand) (l : List Nat) : (t.unread l).nest = t.nest := rfl
@[simp] theorem Strand.unread_recs (t : Strand) (l : List Nat) : (t.unread l).recs = t.recs := rfl
@[simp] theorem Strand.unread_ev (t : Strand) (l : List Nat) : (t.unread l).ev = t.ev := rfl
@[simp] theorem Strand.unread_farm (t : Strand) (l : List Nat) : (t.unread l).farm = t.farm := rfl
@[simp] theorem Strand.unread_kern (t : Strand) (l : List Nat) : (t.unread l).kern = t.kern := rfl

@[simp] theorem Strand.consume_uid (t : Strand) (l : List Nat) (n : Nat) : (t.consume l n).uid = t.uid := rfl
@[simp] theorem Strand.consume_status (t : Strand) (l : List Nat) (n : Nat) : (t.consume l n).status = t.status := rfl
@[simp] theorem Strand.consume_pc (t : Strand) (l : List Nat) (n : Nat) : (t.consume l n).pc = t.pc := rfl
@[simp] theorem Strand.consume_csr (t : Strand) (l : List Nat) (n : Nat) : (t.consume l n).csr = t.csr := rfl
@[simp] theorem Strand.consume_sup (t : Strand) (l : List Nat) (n : Nat) : (t.consume l n).sup = t.sup := rfl
@[simp] theorem Strand.consume_regs (t : Strand) (l : List Nat) (n : Nat) : (t.consume l n).regs = t.regs := rfl
@[simp] theorem Strand.consume_taint (t : Strand) (l : List Nat) (n : Nat) : (t.consume l n).taint = t.taint := rfl
@[simp] theorem Strand.consume_buf (t : Strand) (l : List Nat) (n : Nat) : (t.consume l n).buf = t.buf := rfl
@[simp] theorem Strand.consume_nest (t : Strand) (l : List Nat) (n : Nat) : (t.consume l n).nest = t.nest := rfl
@[simp] theorem Strand.consume_recs (t : Strand) (l : List Nat) (n : Nat) : (t.consume l n).recs = t.recs := rfl
@[simp] theorem Strand.consume_ev (t : Strand) (l : List Nat) (n : Nat) : (t.consume l n).ev = t.ev := rfl
@[simp] theorem Strand.consume_farm (t : Strand) (l : List Nat) (n : Nat) : (t.consume l n).farm = t.farm := rfl
@[simp] theorem Strand.consume_kern (t : Strand) (l : List Nat) (n : Nat) : (t.consume l n).kern = t.kern := rfl

@[simp] theorem Strand.drainAll_uid (t : Strand) : (t.drainAll).uid = t.uid := rfl
@[simp] theorem Strand.drainAll_status (t : Strand) : (t.drainAll).status = t.status := rfl
@[simp] theorem Strand.drainAll_pc (t : Strand) : (t.drainAll).pc = t.pc := rfl
@[simp] theorem Strand.drainAll_csr (t : Strand) : (t.drainAll).csr = t.csr := rfl
@[simp] theorem Strand.drainAll_sup (t : Strand) : (t.drainAll).sup = t.sup := rfl
@[simp] theorem Strand.drainAll_regs (t : Strand) : (t.drainAll).regs = t.regs := rfl
@[simp] theorem Strand.drainAll_buf (t : Strand) : (t.drainAll).buf = t.buf := rfl
@[simp] theorem Strand.drainAll_nest (t : Strand) : (t.drainAll).nest = t.nest := rfl
@[simp] theorem Strand.drainAll_recs (t : Strand) : (t.drainAll).recs = t.recs := rfl
@[simp] theorem Strand.drainAll_ev (t : Strand) : (t.drainAll).ev = t.ev := rfl
@[simp] theorem Strand.drainAll_binds (t : Strand) : (t.drainAll).binds = t.binds := rfl
@[simp] theorem Strand.drainAll_farm (t : Strand) : (t.drainAll).farm = t.farm := rfl
@[simp] theorem Strand.drainAll_kern (t : Strand) : (t.drainAll).kern = t.kern := rfl

@[simp] theorem Strand.jumpTo_uid (t : Strand) (a : Word) : (t.jumpTo a).uid = t.uid := rfl
@[simp] theorem Strand.jumpTo_status (t : Strand) (a : Word) : (t.jumpTo a).status = t.status := rfl
@[simp] theorem Strand.jumpTo_csr (t : Strand) (a : Word) : (t.jumpTo a).csr = t.csr := rfl
@[simp] theorem Strand.jumpTo_sup (t : Strand) (a : Word) : (t.jumpTo a).sup = t.sup := rfl
@[simp] theorem Strand.jumpTo_regs (t : Strand) (a : Word) : (t.jumpTo a).regs = t.regs := rfl
@[simp] theorem Strand.jumpTo_taint (t : Strand) (a : Word) : (t.jumpTo a).taint = t.taint := rfl
@[simp] theorem Strand.jumpTo_buf (t : Strand) (a : Word) : (t.jumpTo a).buf = t.buf := rfl
@[simp] theorem Strand.jumpTo_nest (t : Strand) (a : Word) : (t.jumpTo a).nest = t.nest := rfl
@[simp] theorem Strand.jumpTo_recs (t : Strand) (a : Word) : (t.jumpTo a).recs = t.recs := rfl
@[simp] theorem Strand.jumpTo_ev (t : Strand) (a : Word) : (t.jumpTo a).ev = t.ev := rfl
@[simp] theorem Strand.jumpTo_binds (t : Strand) (a : Word) : (t.jumpTo a).binds = t.binds := rfl
@[simp] theorem Strand.jumpTo_farm (t : Strand) (a : Word) : (t.jumpTo a).farm = t.farm := rfl
@[simp] theorem Strand.jumpTo_kern (t : Strand) (a : Word) : (t.jumpTo a).kern = t.kern := rfl

@[simp] theorem Strand.enterTrap_uid (t : Strand) (k : Cause) (v e : Word) (b : Bool) : (t.enterTrap k v e b).uid = t.uid := rfl
@[simp] theorem Strand.enterTrap_status (t : Strand) (k : Cause) (v e : Word) (b : Bool) : (t.enterTrap k v e b).status = t.status := rfl
@[simp] theorem Strand.enterTrap_regs (t : Strand) (k : Cause) (v e : Word) (b : Bool) : (t.enterTrap k v e b).regs = t.regs := rfl
@[simp] theorem Strand.enterTrap_taint (t : Strand) (k : Cause) (v e : Word) (b : Bool) : (t.enterTrap k v e b).taint = t.taint := rfl
@[simp] theorem Strand.enterTrap_buf (t : Strand) (k : Cause) (v e : Word) (b : Bool) : (t.enterTrap k v e b).buf = t.buf := rfl
@[simp] theorem Strand.enterTrap_nest (t : Strand) (k : Cause) (v e : Word) (b : Bool) : (t.enterTrap k v e b).nest = t.nest := rfl
@[simp] theorem Strand.enterTrap_recs (t : Strand) (k : Cause) (v e : Word) (b : Bool) : (t.enterTrap k v e b).recs = t.recs := rfl
@[simp] theorem Strand.enterTrap_ev (t : Strand) (k : Cause) (v e : Word) (b : Bool) : (t.enterTrap k v e b).ev = t.ev := rfl
@[simp] theorem Strand.enterTrap_binds (t : Strand) (k : Cause) (v e : Word) (b : Bool) : (t.enterTrap k v e b).binds = t.binds := rfl
@[simp] theorem Strand.enterTrap_farm (t : Strand) (k : Cause) (v e : Word) (b : Bool) : (t.enterTrap k v e b).farm = t.farm := rfl
@[simp] theorem Strand.enterTrap_kern (t : Strand) (k : Cause) (v e : Word) (b : Bool) : (t.enterTrap k v e b).kern = t.kern := rfl

@[simp] theorem Strand.leaveTrap_uid (t : Strand) : (t.leaveTrap).uid = t.uid := rfl
@[simp] theorem Strand.leaveTrap_status (t : Strand) : (t.leaveTrap).status = t.status := rfl
@[simp] theorem Strand.leaveTrap_regs (t : Strand) : (t.leaveTrap).regs = t.regs := rfl
@[simp] theorem Strand.leaveTrap_taint (t : Strand) : (t.leaveTrap).taint = t.taint := rfl
@[simp] theorem Strand.leaveTrap_buf (t : Strand) : (t.leaveTrap).buf = t.buf := rfl
@[simp] theorem Strand.leaveTrap_recs (t : Strand) : (t.leaveTrap).recs = t.recs := rfl
@[simp] theorem Strand.leaveTrap_ev (t : Strand) : (t.leaveTrap).ev = t.ev := rfl
@[simp] theorem Strand.leaveTrap_binds (t : Strand) : (t.leaveTrap).binds = t.binds := rfl
@[simp] theorem Strand.leaveTrap_farm (t : Strand) : (t.leaveTrap).farm = t.farm := rfl
@[simp] theorem Strand.leaveTrap_kern (t : Strand) : (t.leaveTrap).kern = t.kern := rfl

@[simp] theorem Strand.setTaint_uid (t : Strand) (r : RegId) (x : Taint) : (t.setTaint r x).uid = t.uid := by
  unfold Strand.setTaint; split <;> rfl
@[simp] theorem Strand.setTaint_status (t : Strand) (r : RegId) (x : Taint) : (t.setTaint r x).status = t.status := by
  unfold Strand.setTaint; split <;> rfl
@[simp] theorem Strand.setTaint_pc (t : Strand) (r : RegId) (x : Taint) : (t.setTaint r x).pc = t.pc := by
  unfold Strand.setTaint; split <;> rfl
@[simp] theorem Strand.setTaint_csr (t : Strand) (r : RegId) (x : Taint) : (t.setTaint r x).csr = t.csr := by
  unfold Strand.setTaint; split <;> rfl
@[simp] theorem Strand.setTaint_sup (t : Strand) (r : RegId) (x : Taint) : (t.setTaint r x).sup = t.sup := by
  unfold Strand.setTaint; split <;> rfl
@[simp] theorem Strand.setTaint_regs (t : Strand) (r : RegId) (x : Taint) : (t.setTaint r x).regs = t.regs := by
  unfold Strand.setTaint; split <;> rfl
@[simp] theorem Strand.setTaint_buf (t : Strand) (r : RegId) (x : Taint) : (t.setTaint r x).buf = t.buf := by
  unfold Strand.setTaint; split <;> rfl
@[simp] theorem Strand.setTaint_nest (t : Strand) (r : RegId) (x : Taint) : (t.setTaint r x).nest = t.nest := by
  unfold Strand.setTaint; split <;> rfl
@[simp] theorem Strand.setTaint_recs (t : Strand) (r : RegId) (x : Taint) : (t.setTaint r x).recs = t.recs := by
  unfold Strand.setTaint; split <;> rfl
@[simp] theorem Strand.setTaint_ev (t : Strand) (r : RegId) (x : Taint) : (t.setTaint r x).ev = t.ev := by
  unfold Strand.setTaint; split <;> rfl
@[simp] theorem Strand.setTaint_binds (t : Strand) (r : RegId) (x : Taint) : (t.setTaint r x).binds = t.binds := by
  unfold Strand.setTaint; split <;> rfl
@[simp] theorem Strand.setTaint_farm (t : Strand) (r : RegId) (x : Taint) : (t.setTaint r x).farm = t.farm := by
  unfold Strand.setTaint; split <;> rfl
@[simp] theorem Strand.setTaint_kern (t : Strand) (r : RegId) (x : Taint) : (t.setTaint r x).kern = t.kern := by
  unfold Strand.setTaint; split <;> rfl

@[simp] theorem Strand.jumpTo_pc (t : Strand) (a : Word) : (t.jumpTo a).pc = a := rfl
@[simp] theorem Strand.setVl_vl (t : Strand) (n : Nat) : (t.setVl n).vl = n % 2 ^ 32 := by
  simp [Strand.setVl, Strand.vl]
@[simp] theorem Strand.setEv_evCtr (t : Strand) (n : Nat) (e : EvCtr) : (t.setEv n e).evCtr n = e := by
  simp [Strand.setEv, Strand.evCtr]
theorem Strand.setEv_evCtr_other (t : Strand) {n m : Nat} (e : EvCtr) (h : m ≠ n) : (t.setEv n e).evCtr m = t.evCtr m := by
  simp [Strand.setEv, Strand.evCtr, Tab.get_set_other _ _ _ h]

/-! ### States -/

@[simp] theorem State.onCur_cur (s : State) (f : Strand → Strand) : (s.onCur f).cur = f s.cur := rfl
@[simp] theorem State.onCur_others (s : State) (f : Strand → Strand) : (s.onCur f).others = s.others := rfl
@[simp] theorem State.onCur_dev (s : State) (f : Strand → Strand) : (s.onCur f).dev = s.dev := rfl
@[simp] theorem State.onCur_agenda (s : State) (f : Strand → Strand) : (s.onCur f).agenda = s.agenda := rfl
@[simp] theorem State.onDev_cur (s : State) (f : Device → Device) : (s.onDev f).cur = s.cur := rfl
@[simp] theorem State.onDev_others (s : State) (f : Device → Device) : (s.onDev f).others = s.others := rfl
@[simp] theorem State.onDev_dev (s : State) (f : Device → Device) : (s.onDev f).dev = f s.dev := rfl
@[simp] theorem State.onDev_agenda (s : State) (f : Device → Device) : (s.onDev f).agenda = s.agenda := rfl
@[simp] theorem State.mapStrands_cur (s : State) (f : Strand → Strand) : (s.mapStrands f).cur = f s.cur := rfl
@[simp] theorem State.mapStrands_dev (s : State) (f : Strand → Strand) : (s.mapStrands f).dev = s.dev := rfl
@[simp] theorem State.onCur_onCur (s : State) (f g : Strand → Strand) : (s.onCur f).onCur g = s.onCur (g ∘ f) := rfl
@[simp] theorem State.onDev_onDev (s : State) (f g : Device → Device) : (s.onDev f).onDev g = s.onDev (g ∘ f) := rfl

/-- R374: a trap below level 2 is an entry of the current strand; nothing else of the machine changes. -/
theorem State.trap_low (s : State) (c : Cause) (v e : Word) (b : Bool) (h : s.cur.sup.tlevel.toNat < 2) :
    s.trap c v e b = s.onCur fun t => t.enterTrap c v e b := by
  simp only [State.trap, ge_iff_le, Nat.not_le.mpr h, if_false]

/-- R374: at level 2 the strand is killed with REASON 1. -/
theorem State.trap_high (s : State) (c : Cause) (v e : Word) (b : Bool) (h : 2 ≤ s.cur.sup.tlevel.toNat) :
    s.trap c v e b = s.kill s.cur.uid 1 ⟨causeCode c, e, v, s.cur.csr.vstart.toNat,
      bitVal s.cur.nest.active + 2 * bitVal b⟩ := by
  simp only [State.trap, ge_iff_le, h, if_true]

/-- What the end of an instruction's operation does, by how it ended. -/
@[simp] theorem instr_ok (o : Operands) (m : Run Unit) {s t : State} (h : m s = .ok () t) :
    instr o m s = .next (t.onCur (·.retire o)) := by
  simp only [instr, h, endInstr]
@[simp] theorem instr_error (o : Operands) (m : Run Unit) {s t : State} {e : Stop} (h : m s = .error e t) :
    instr o m s = .next (t.stopAt s.cur.convoy e) := by
  simp only [instr, h, endInstr]
@[simp] theorem flow_jump (o : Operands) (m : Run (Option Word)) {s t : State} {a : Word} (h : m s = .ok (some a) t) :
    flow o m s = .next (t.onCur (·.jumpTo a)) := by
  simp only [flow, h, endFlow]
@[simp] theorem flow_on (o : Operands) (m : Run (Option Word)) {s t : State} (h : m s = .ok none t) :
    flow o m s = .next (t.onCur (·.retire o)) := by
  simp only [flow, h, endFlow]
@[simp] theorem flow_error (o : Operands) (m : Run (Option Word)) {s t : State} {e : Stop} (h : m s = .error e t) :
    flow o m s = .next (t.stopAt s.cur.convoy e) := by
  simp only [flow, h, endFlow]
@[simp] theorem waits_on (o : Operands) (m : Run (Option Wait)) {s t : State} (h : m s = .ok none t) :
    waits o m s = .next (t.onCur (·.retire o)) := by
  simp only [waits, h, endWaits]
@[simp] theorem waits_wait (o : Operands) (m : Run (Option Wait)) {s t : State} {w : Wait} (h : m s = .ok (some w) t) :
    waits o m s = .next (t.onCur fun c => { c with status := .waiting w (c.pc + BitVec.ofNat 64 (lenOf o)) }) := by
  simp only [waits, h, endWaits]
@[simp] theorem waits_error (o : Operands) (m : Run (Option Wait)) {s t : State} {e : Stop} (h : m s = .error e t) :
    waits o m s = .next (t.stopAt s.cur.convoy e) := by
  simp only [waits, h, endWaits]

@[simp] theorem State.stopAt_cause (s : State) (k : Convoy) (c : Cause) (v : Word) :
    s.stopAt k (.cause c v) = s.trap c v s.cur.pc false := rfl
@[simp] theorem State.stopAt_lost (s : State) (k : Convoy) : s.stopAt k .lost = s.kill s.cur.uid 7 s.cur.plainEv := rfl

/-- Outside the body's end of an active nest an instruction that retires only moves the pc (R330). -/
theorem Strand.retire_plain (t : Strand) (o : Operands)
    (h : t.nestHere = false ∨ t.pc + BitVec.ofNat 64 (lenOf o) ≠ t.nest.stop) :
    t.retire o = { t with pc := t.pc + BitVec.ofNat 64 (lenOf o) } := by
  have h' : ({ t with pc := t.pc + BitVec.ofNat 64 (lenOf o) } : Strand).nestHere = t.nestHere := rfl
  unfold Strand.retire Strand.loopBack
  rw [if_neg]
  rw [h']
  rcases h with h | h <;> simp [h]

/-! ### Objects of the device by number -/

@[simp] theorem Device.queue_setQueue (d : Device) (n : Nat) (x : Queue) : (d.setQueue n x).queue n = x := by
  simp [Device.setQueue, Device.queue]
theorem Device.queue_setQueue_other (d : Device) {n m : Nat} (x : Queue) (h : m ≠ n) : (d.setQueue n x).queue m = d.queue m := by
  simp [Device.setQueue, Device.queue, Tab.get_set_other _ _ _ h]
@[simp] theorem Device.setQueue_mem (d : Device) (n : Nat) (x : Queue) : (d.setQueue n x).mem = d.mem := rfl
@[simp] theorem Device.setQueue_cmds (d : Device) (n : Nat) (x : Queue) : (d.setQueue n x).cmds = d.cmds := rfl
@[simp] theorem Device.setQueue_gtime (d : Device) (n : Nat) (x : Queue) : (d.setQueue n x).gtime = d.gtime := rfl

@[simp] theorem Device.mbox_setMbox (d : Device) (n : Nat) (x : Mbox) : (d.setMbox n x).mbox n = x := by
  simp [Device.setMbox, Device.mbox]
theorem Device.mbox_setMbox_other (d : Device) {n m : Nat} (x : Mbox) (h : m ≠ n) : (d.setMbox n x).mbox m = d.mbox m := by
  simp [Device.setMbox, Device.mbox, Tab.get_set_other _ _ _ h]
@[simp] theorem Device.setMbox_mem (d : Device) (n : Nat) (x : Mbox) : (d.setMbox n x).mem = d.mem := rfl
@[simp] theorem Device.setMbox_cmds (d : Device) (n : Nat) (x : Mbox) : (d.setMbox n x).cmds = d.cmds := rfl
@[simp] theorem Device.setMbox_gtime (d : Device) (n : Nat) (x : Mbox) : (d.setMbox n x).gtime = d.gtime := rfl

@[simp] theorem Device.port_setPort (d : Device) (n : Nat) (x : Port) : (d.setPort n x).port n = x := by
  simp [Device.setPort, Device.port]
theorem Device.port_setPort_other (d : Device) {n m : Nat} (x : Port) (h : m ≠ n) : (d.setPort n x).port m = d.port m := by
  simp [Device.setPort, Device.port, Tab.get_set_other _ _ _ h]
@[simp] theorem Device.setPort_mem (d : Device) (n : Nat) (x : Port) : (d.setPort n x).mem = d.mem := rfl
@[simp] theorem Device.setPort_cmds (d : Device) (n : Nat) (x : Port) : (d.setPort n x).cmds = d.cmds := rfl
@[simp] theorem Device.setPort_gtime (d : Device) (n : Nat) (x : Port) : (d.setPort n x).gtime = d.gtime := rfl

@[simp] theorem Device.fpage_setFpage (d : Device) (n : Nat) (x : FuncPage) : (d.setFpage n x).fpage n = x := by
  simp [Device.setFpage, Device.fpage]
theorem Device.fpage_setFpage_other (d : Device) {n m : Nat} (x : FuncPage) (h : m ≠ n) : (d.setFpage n x).fpage m = d.fpage m := by
  simp [Device.setFpage, Device.fpage, Tab.get_set_other _ _ _ h]
@[simp] theorem Device.setFpage_mem (d : Device) (n : Nat) (x : FuncPage) : (d.setFpage n x).mem = d.mem := rfl
@[simp] theorem Device.setFpage_cmds (d : Device) (n : Nat) (x : FuncPage) : (d.setFpage n x).cmds = d.cmds := rfl
@[simp] theorem Device.setFpage_gtime (d : Device) (n : Nat) (x : FuncPage) : (d.setFpage n x).gtime = d.gtime := rfl

@[simp] theorem Device.monitor_setMonitor (d : Device) (n : Nat) (x : Monitor) : (d.setMonitor n x).monitor n = x := by
  simp [Device.setMonitor, Device.monitor]
theorem Device.monitor_setMonitor_other (d : Device) {n m : Nat} (x : Monitor) (h : m ≠ n) : (d.setMonitor n x).monitor m = d.monitor m := by
  simp [Device.setMonitor, Device.monitor, Tab.get_set_other _ _ _ h]
@[simp] theorem Device.setMonitor_mem (d : Device) (n : Nat) (x : Monitor) : (d.setMonitor n x).mem = d.mem := rfl
@[simp] theorem Device.setMonitor_cmds (d : Device) (n : Nat) (x : Monitor) : (d.setMonitor n x).cmds = d.cmds := rfl
@[simp] theorem Device.setMonitor_gtime (d : Device) (n : Nat) (x : Monitor) : (d.setMonitor n x).gtime = d.gtime := rfl

@[simp] theorem Device.writeByte_tlb (d : Device) (a : Nat) (x : Byte) : (d.writeByte a x).tlb = d.tlb := rfl
@[simp] theorem Device.writeByte_poison (d : Device) (a : Nat) (x : Byte) : (d.writeByte a x).poison = d.poison := rfl
@[simp] theorem Device.cleanLines_mem (d : Device) (l : List Nat) : (d.cleanLines l).mem = d.mem := rfl
@[simp] theorem Device.cleanLines_tlb (d : Device) (l : List Nat) : (d.cleanLines l).tlb = d.tlb := rfl
@[simp] theorem Device.setPoison_mem (d : Device) (l : Nat) (b : Bool) : (d.setPoison l b).mem = d.mem := rfl
@[simp] theorem Device.tlbKeep_mem (d : Device) (e : TlbEntry) : (d.tlbKeep e).mem = d.mem := rfl
@[simp] theorem Device.tlbKeep_poison (d : Device) (e : TlbEntry) : (d.tlbKeep e).poison = d.poison := rfl
@[simp] theorem Device.tlbDrop_mem (d : Device) (c : Option Nat) (p : TlbEntry → Bool) : (d.tlbDrop c p).mem = d.mem := rfl

/-- A ring takes a message at its end while it has room (R346). -/
theorem Device.accept_ring (d : Device) (n : Nat) (msg : BitVec 512) (w : BitVec 32) (h : (d.mbox n).ring.length < 32) :
    ((d.accept n msg w).mbox n).ring = (d.mbox n).ring ++ [(msg, w)] := by
  simp [Device.accept, Device.mboxFull, Nat.not_le.mpr h]

theorem Device.accept_full (d : Device) (n : Nat) (msg : BitVec 512) (w : BitVec 32) (h : 32 ≤ (d.mbox n).ring.length) :
    d.accept n msg w = d := by
  simp [Device.accept, Device.mboxFull, h]

/-! ### Updates of time, synchronisation, waits, requests and remote memory -/

/-- R414: what a tick does to the clocks: a free number of clocks passes, and the nanoseconds that they end. -/
theorem Device.tick_clocks (d : Device) : ∃ c n : Nat, 1 ≤ c ∧ 9 * n + d.tick.phase = d.phase + 5 * c ∧ d.tick.phase < 9 ∧
    d.tick.cyc = d.cyc + BitVec.ofNat 64 c ∧ d.tick.gtime = d.gtime + BitVec.ofInt 64 (n + slewOf d.sync.slew n) :=
  ⟨1 + (Config.freeWord d.free).toNat % 65536, d.nsOf (1 + (Config.freeWord d.free).toNat % 65536), Nat.le_add_right _ _,
   Nat.div_add_mod _ 9, Nat.mod_lt _ (by decide), rfl, rfl⟩
@[simp] theorem Device.tick_mem (d : Device) : d.tick.mem = d.mem := rfl
@[simp] theorem Device.tick_poison (d : Device) : d.tick.poison = d.poison := rfl
@[simp] theorem Device.tick_cmds (d : Device) : d.tick.cmds = d.cmds := rfl
@[simp] theorem Device.tick_queues (d : Device) : d.tick.queues = d.queues := rfl
@[simp] theorem Device.tick_waits (d : Device) : d.tick.waits = d.waits := rfl

/-- R310: following a neighbour changes what is told of synchronisation, and nothing else. -/
theorem Device.follow_frame (d : Device) : d.follow = { d with sync := { d.sync with
    depth := d.follow.sync.depth, root := d.follow.sync.root } } := by
  unfold Device.follow
  split <;> rfl
@[simp] theorem Device.follow_mem (d : Device) : d.follow.mem = d.mem := by rw [Device.follow_frame]
@[simp] theorem Device.follow_slew (d : Device) : d.follow.sync.slew = d.sync.slew := by rw [Device.follow_frame]

@[simp] theorem Device.collWaited_mem (d : Device) (c : Cmd) : (d.collWaited c).mem = d.mem := rfl
@[simp] theorem Device.collWaited_groups (d : Device) (c : Cmd) : (d.collWaited c).groups = d.groups := rfl
@[simp] theorem Device.collWaited_cmds (d : Device) (c : Cmd) : (d.collWaited c).cmds = d.cmds := rfl

@[simp] theorem Queue.withdraw_runs (q : Queue) : q.withdraw.runs = q.runs := by
  unfold Queue.withdraw
  split <;> rfl
@[simp] theorem Queue.withdraw_active (q : Queue) : q.withdraw.active = q.active := by
  unfold Queue.withdraw
  split <;> rfl
/-- R364: no node is offered once its graph's nodes have been withdrawn. -/
theorem Queue.withdraw_offer (q : Queue) (n since : Nat) : q.withdraw.offer ≠ some (1, n, since) := by
  unfold Queue.withdraw
  split
  · exact nofun
  · exact fun h => by simp_all

/-- A loop-back, and the end of a wait, keep a pending request. -/
@[simp] theorem Strand.loopBack_preempt (t : Strand) : t.loopBack.preempt = t.preempt := by
  unfold Strand.loopBack
  split
  · dsimp only
    split <;> rfl
  · rfl
@[simp] theorem Strand.endWait_preempt (t : Strand) (next : Word) : (t.endWait next).preempt = t.preempt :=
  Strand.loopBack_preempt _

/-- R378: a request that is pending stays pending, and no later. -/
theorem Strand.requestPreempt_pending (t : Strand) (b k : Nat) (h : t.preempt = some k) :
    ∃ j ≤ k, (t.requestPreempt b).preempt = some j := by
  unfold Strand.requestPreempt
  split
  case h_4 =>
    refine ⟨0, Nat.zero_le _, ?_⟩
    unfold Strand.wake
    split
    · exact Strand.endWait_preempt _ _
    · rfl
  case h_5 => exact ⟨min b k, Nat.min_le_right _ _, by simp [h]⟩
  all_goals exact ⟨k, Nat.le_refl _, h⟩

/-- R307: a device all of whose peers can be reached loses no store. -/
theorem Device.remoteLost_of_reachable (d : Device) (pa : Nat) (h : d.unreachable = []) : d.remoteLost pa = false := by
  simp [Device.remoteLost, h]

/-! ### Bytes and flits -/

@[simp] theorem bytesLE_length (n : Nat) : ∀ x, (bytesLE n x).length = n := by
  induction n with
  | zero => exact fun _ => rfl
  | succ n ih => exact fun x => by simp [bytesLE, ih]

/-- The number that n bytes of x make. -/
theorem natLE_bytesLE (n : Nat) : ∀ x, natLE (bytesLE n x) = x % 256 ^ n := by
  induction n with
  | zero => exact fun x => by simp [bytesLE, natLE, Nat.mod_one]
  | succ n ih =>
    intro x
    simp only [bytesLE, natLE, ih, BitVec.toNat_ofNat]
    have h : (2 : Nat) ^ 8 = 256 := rfl
    rw [h, Nat.pow_succ, Nat.mul_comm (256 ^ n), Nat.mod_mul]

theorem makeFlit_body (h : Header) (p : List Byte) :
    (bytesLE 8 h.bits ++ p.take 244 ++ List.replicate (244 - p.length) (0 : Byte)).length = 252 := by
  simp only [List.length_append, bytesLE_length, List.length_take, List.length_replicate]
  omega

/-- R303: every flit that is sent passes its CRC. -/
theorem flitOk_makeFlit (h : Header) (p : List Byte) : flitOk (makeFlit h p) = true := by
  have hb := makeFlit_body h p
  revert hb
  generalize e : bytesLE 8 h.bits ++ p.take 244 ++ List.replicate (244 - p.length) (0 : Byte) = body
  intro hb
  have hm : makeFlit h p = body ++ bytesLE 4 (crc32c body).toNat := by rw [← e]; rfl
  rw [hm, flitOk, List.drop_append_of_le_length (by omega), List.take_append_of_le_length (by omega),
    List.drop_eq_nil_of_le (by omega), List.take_of_length_le (by omega), List.nil_append, natLE_bytesLE,
    List.length_append, hb, bytesLE_length, Nat.mod_eq_of_lt (show _ < 256 ^ 4 from (crc32c body).isLt)]
  simp

end Sys2Proof.Machine
end

