-- ==== Sys2Proof/Tests/Slice0.lean ====
section
/-! SUPPORT. Tests: words that decode to the instruction they stand for, ill-formed instructions that are refused, and
for each obligation states and operands that meet its hypotheses. -/

open Sys2Proof Sys2Proof.Machine Sys2Proof.Claims

namespace Sys2Proof.Tests

-- One theorem at a time: each asks the kernel, which waits for the ones before.
set_option Elab.async false

/-! ### Decoding. One word of each encoded instruction, with fields told apart, laid out by hand from R32 to R36 and the
tables of the chapters: the word, and the instruction it stands for. -/

/-- Fields of S32; of L64 and X96 with the flags XA, XD, U as one triple. -/
def fS (op fn : Nat) (cv : Bool) (d a b : Nat) : Operands :=
  ⟨.s32, .ofNat 7 op, .ofNat 8 fn, cv, 0, .ofNat 6 d, .ofNat 6 a, .ofNat 6 b, false, false, false, .i8, 0, 0, 0⟩
def fL (op fn : Nat) (cv : Bool) (g d a b : Nat) (x : Bool × Bool × Bool) (ty : Ty) (rm imm : Nat) : Operands :=
  ⟨.l64, .ofNat 7 op, .ofNat 8 fn, cv, .ofNat 4 g, .ofNat 6 d, .ofNat 6 a, .ofNat 6 b, x.1, x.2.1, x.2.2, ty,
   .ofNat 3 rm, .ofNat 32 imm, 0⟩
def fX (op fn : Nat) (cv : Bool) (g d a b : Nat) (x : Bool × Bool × Bool) (ty : Ty) (rm imm aux : Nat) : Operands :=
  ⟨.x96, .ofNat 7 op, .ofNat 8 fn, cv, .ofNat 4 g, .ofNat 6 d, .ofNat 6 a, .ofNat 6 b, x.1, x.2.1, x.2.2, ty,
   .ofNat 3 rm, .ofNat 32 imm, .ofNat 10 aux⟩

noncomputable def words01_1 : List (Nat × Nat × Instr) :=
  [
   -- ADD
   (32, 0x038A1808, .add (fS 0x1 0 false 6 10 14)),
   -- ADD_L64
   (64, 0x0000000038A18009, .addL64 (fL 0x1 0x0 false 0 6 10 14 ⟨false, false, false⟩ .i8 0 0x0)),
   -- SUB
   (32, 0x138A1808, .sub (fS 0x1 1 false 6 10 14)),
   -- SUB_L64
   (64, 0x0000000138A18009, .subL64 (fL 0x1 0x1 false 0 6 10 14 ⟨false, false, false⟩ .i8 0 0x0)),
   -- AND
   (32, 0x238A1808, .and_ (fS 0x1 2 false 6 10 14)),
   -- AND_L64
   (64, 0x0000000238A18009, .andL64 (fL 0x1 0x2 false 0 6 10 14 ⟨false, false, false⟩ .i8 0 0x0)),
   -- OR
   (32, 0x338A1808, .or_ (fS 0x1 3 false 6 10 14)),
   -- OR_L64
   (64, 0x0000000338A18009, .orL64 (fL 0x1 0x3 false 0 6 10 14 ⟨false, false, false⟩ .i8 0 0x0)),
   -- XOR
   (32, 0x438A1808, .xor_ (fS 0x1 4 false 6 10 14)),
   -- XOR_L64
   (64, 0x0000000438A18009, .xorL64 (fL 0x1 0x4 false 0 6 10 14 ⟨false, false, false⟩ .i8 0 0x0)),
   -- SHL
   (32, 0x538A1808, .shl (fS 0x1 5 false 6 10 14)),
   -- SHL_L64
   (64, 0x0000000538A18009, .shlL64 (fL 0x1 0x5 false 0 6 10 14 ⟨false, false, false⟩ .i8 0 0x0)),
   -- SHR
   (32, 0x638A1808, .shr (fS 0x1 6 false 6 10 14)),
   -- SHR_L64
   (64, 0x0000000638A18009, .shrL64 (fL 0x1 0x6 false 0 6 10 14 ⟨false, false, false⟩ .i8 0 0x0)),
   -- SRA
   (32, 0x738A1808, .sra (fS 0x1 7 false 6 10 14)),
   -- SRA_L64
   (64, 0x0000000738A18009, .sraL64 (fL 0x1 0x7 false 0 6 10 14 ⟨false, false, false⟩ .i8 0 0x0))]

theorem test_decode_01_1 : ∀ e ∈ words01_1, decodeTableWord e.1 e.2.1 = some e.2.2 := by decide +kernel

noncomputable def words01_2 : List (Nat × Nat × Instr) :=
  [
   -- SLT
   (32, 0x838A1808, .slt (fS 0x1 8 false 6 10 14)),
   -- SLT_L64
   (64, 0x0000000838A18009, .sltL64 (fL 0x1 0x8 false 0 6 10 14 ⟨false, false, false⟩ .i8 0 0x0)),
   -- SLTN
   (32, 0x938A1808, .sltn (fS 0x1 9 false 6 10 14)),
   -- SLTN_L64
   (64, 0x0000000938A18009, .sltnL64 (fL 0x1 0x9 false 0 6 10 14 ⟨false, false, false⟩ .i8 0 0x0)),
   -- SEQ
   (32, 0xA38A1808, .seq (fS 0x1 10 false 6 10 14)),
   -- SEQ_L64
   (64, 0x0000000A38A18009, .seqL64 (fL 0x1 0xa false 0 6 10 14 ⟨false, false, false⟩ .i8 0 0x0)),
   -- MIN
   (32, 0xB38A1808, .min (fS 0x1 11 false 6 10 14)),
   -- MIN_L64
   (64, 0x0000000B38A18009, .minL64 (fL 0x1 0xb false 0 6 10 14 ⟨false, false, false⟩ .i8 0 0x0)),
   -- MAX
   (32, 0xC38A1808, .max (fS 0x1 12 false 6 10 14)),
   -- MAX_L64
   (64, 0x0000000C38A18009, .maxL64 (fL 0x1 0xc false 0 6 10 14 ⟨false, false, false⟩ .i8 0 0x0)),
   -- MINN
   (32, 0xD38A1808, .minn (fS 0x1 13 false 6 10 14)),
   -- MINN_L64
   (64, 0x0000000D38A18009, .minnL64 (fL 0x1 0xd false 0 6 10 14 ⟨false, false, false⟩ .i8 0 0x0)),
   -- MAXN
   (32, 0xE38A1808, .maxn (fS 0x1 14 false 6 10 14)),
   -- MAXN_L64
   (64, 0x0000000E38A18009, .maxnL64 (fL 0x1 0xe false 0 6 10 14 ⟨false, false, false⟩ .i8 0 0x0)),
   -- MUL
   (32, 0xF38A1808, .mul (fS 0x1 15 false 6 10 14)),
   -- MUL_L64
   (64, 0x0000000F38A18009, .mulL64 (fL 0x1 0xf false 0 6 10 14 ⟨false, false, false⟩ .i8 0 0x0))]

theorem test_decode_01_2 : ∀ e ∈ words01_2, decodeTableWord e.1 e.2.1 = some e.2.2 := by decide +kernel

noncomputable def words01_3 : List (Nat × Nat × Instr) :=
  [
   -- MULH
   (64, 0x0000001038A18009, .mulh (fL 0x1 0x10 false 0 6 10 14 ⟨false, false, false⟩ .i8 0 0x0)),
   -- MULHN
   (64, 0x0000001138A18009, .mulhn (fL 0x1 0x11 false 0 6 10 14 ⟨false, false, false⟩ .i8 0 0x0)),
   -- DIV
   (64, 0x0000001238A18009, .div (fL 0x1 0x12 false 0 6 10 14 ⟨false, false, false⟩ .i8 0 0x0)),
   -- DIVN
   (64, 0x0000001338A18009, .divn (fL 0x1 0x13 false 0 6 10 14 ⟨false, false, false⟩ .i8 0 0x0)),
   -- REM
   (64, 0x0000001438A18009, .rem (fL 0x1 0x14 false 0 6 10 14 ⟨false, false, false⟩ .i8 0 0x0)),
   -- REMN
   (64, 0x0000001538A18009, .remn (fL 0x1 0x15 false 0 6 10 14 ⟨false, false, false⟩ .i8 0 0x0)),
   -- ROL
   (64, 0x0000001638A18009, .rol (fL 0x1 0x16 false 0 6 10 14 ⟨false, false, false⟩ .i8 0 0x0)),
   -- CLZ
   (64, 0x0000001700A18009, .clz (fL 0x1 0x17 false 0 6 10 0 ⟨false, false, false⟩ .i8 0 0x0)),
   -- CTZ
   (64, 0x0000001800A18009, .ctz (fL 0x1 0x18 false 0 6 10 0 ⟨false, false, false⟩ .i8 0 0x0)),
   -- POPC
   (64, 0x0000001900A18009, .popc (fL 0x1 0x19 false 0 6 10 0 ⟨false, false, false⟩ .i8 0 0x0)),
   -- LUT3
   (64, 0x0A50001A38A18009, .lut3 (fL 0x1 0x1a false 0 6 10 14 ⟨false, false, false⟩ .i8 0 0xa5))]

theorem test_decode_01_3 : ∀ e ∈ words01_3, decodeTableWord e.1 e.2.1 = some e.2.2 := by decide +kernel

noncomputable def words02_1 : List (Nat × Nat × Instr) :=
  [
   -- ADDI
   (64, 0x87B0000000A18011, .addi (fL 0x2 0x0 false 0 6 10 0 ⟨false, false, false⟩ .i8 0 0x87b)),
   -- ADDI
   (96, 0xFFFFFF850000000000A18012, .addi (fX 0x2 0x0 false 0 6 10 0 ⟨false, false, false⟩ .i8 0 0xffffff85 0x0)),
   -- SUBI
   (64, 0x87B0000100A18011, .subi (fL 0x2 0x1 false 0 6 10 0 ⟨false, false, false⟩ .i8 0 0x87b)),
   -- ANDI
   (64, 0x87B0000200A18011, .andi (fL 0x2 0x2 false 0 6 10 0 ⟨false, false, false⟩ .i8 0 0x87b)),
   -- ORI
   (64, 0x87B0000300A18011, .ori (fL 0x2 0x3 false 0 6 10 0 ⟨false, false, false⟩ .i8 0 0x87b)),
   -- XORI
   (64, 0x87B0000400A18011, .xori (fL 0x2 0x4 false 0 6 10 0 ⟨false, false, false⟩ .i8 0 0x87b)),
   -- SHLI
   (64, 0x0230000500A18011, .shli (fL 0x2 0x5 false 0 6 10 0 ⟨false, false, false⟩ .i8 0 0x23)),
   -- SHRI
   (64, 0x0230000600A18011, .shri (fL 0x2 0x6 false 0 6 10 0 ⟨false, false, false⟩ .i8 0 0x23)),
   -- SRAI
   (64, 0x0230000700A18011, .srai (fL 0x2 0x7 false 0 6 10 0 ⟨false, false, false⟩ .i8 0 0x23)),
   -- SLTI
   (64, 0x87B0000800A18011, .slti (fL 0x2 0x8 false 0 6 10 0 ⟨false, false, false⟩ .i8 0 0x87b)),
   -- SLTNI
   (64, 0x87B0000900A18011, .sltni (fL 0x2 0x9 false 0 6 10 0 ⟨false, false, false⟩ .i8 0 0x87b)),
   -- SEQI
   (64, 0x87B0000A00A18011, .seqi (fL 0x2 0xa false 0 6 10 0 ⟨false, false, false⟩ .i8 0 0x87b)),
   -- MINI
   (64, 0x87B0000B00A18011, .mini (fL 0x2 0xb false 0 6 10 0 ⟨false, false, false⟩ .i8 0 0x87b)),
   -- MAXI
   (64, 0x87B0000C00A18011, .maxi (fL 0x2 0xc false 0 6 10 0 ⟨false, false, false⟩ .i8 0 0x87b)),
   -- MINNI
   (64, 0x87B0000D00A18011, .minni (fL 0x2 0xd false 0 6 10 0 ⟨false, false, false⟩ .i8 0 0x87b)),
   -- MAXNI
   (64, 0x87B0000E00A18011, .maxni (fL 0x2 0xe false 0 6 10 0 ⟨false, false, false⟩ .i8 0 0x87b))]

theorem test_decode_02_1 : ∀ e ∈ words02_1, decodeTableWord e.1 e.2.1 = some e.2.2 := by decide +kernel

noncomputable def words02_2 : List (Nat × Nat × Instr) :=
  [
   -- MULI
   (64, 0x87B0000F00A18011, .muli (fL 0x2 0xf false 0 6 10 0 ⟨false, false, false⟩ .i8 0 0x87b)),
   -- MULHI
   (64, 0x87B0001000A18011, .mulhi (fL 0x2 0x10 false 0 6 10 0 ⟨false, false, false⟩ .i8 0 0x87b)),
   -- MULHNI
   (64, 0x87B0001100A18011, .mulhni (fL 0x2 0x11 false 0 6 10 0 ⟨false, false, false⟩ .i8 0 0x87b)),
   -- DIVI
   (64, 0x87B0001200A18011, .divi (fL 0x2 0x12 false 0 6 10 0 ⟨false, false, false⟩ .i8 0 0x87b)),
   -- DIVNI
   (64, 0x87B0001300A18011, .divni (fL 0x2 0x13 false 0 6 10 0 ⟨false, false, false⟩ .i8 0 0x87b)),
   -- REMI
   (64, 0x87B0001400A18011, .remi (fL 0x2 0x14 false 0 6 10 0 ⟨false, false, false⟩ .i8 0 0x87b)),
   -- REMNI
   (64, 0x87B0001500A18011, .remni (fL 0x2 0x15 false 0 6 10 0 ⟨false, false, false⟩ .i8 0 0x87b)),
   -- ROLI
   (64, 0x0230001600A18011, .roli (fL 0x2 0x16 false 0 6 10 0 ⟨false, false, false⟩ .i8 0 0x23))]

theorem test_decode_02_2 : ∀ e ∈ words02_2, decodeTableWord e.1 e.2.1 = some e.2.2 := by decide +kernel

noncomputable def words03 : List (Nat × Nat × Instr) :=
  [
   -- LI
   (64, 0x87B0000000018019, .li (fL 0x3 0x0 false 0 6 0 0 ⟨false, false, false⟩ .i8 0 0x87b)),
   -- LI
   (96, 0x80000001000000000001801A, .li (fX 0x3 0x0 false 0 6 0 0 ⟨false, false, false⟩ .i8 0 0x80000001 0x0)),
   -- LIH
   (64, 0x87B0000100018019, .lih (fL 0x3 0x1 false 0 6 0 0 ⟨false, false, false⟩ .i8 0 0x87b))]

theorem test_decode_03 : ∀ e ∈ words03, decodeTableWord e.1 e.2.1 = some e.2.2 := by decide +kernel

noncomputable def words04 : List (Nat × Nat × Instr) :=
  [
   -- EXT
   (64, 0x0C40000000A18021, .ext (fL 0x4 0x0 false 0 6 10 0 ⟨false, false, false⟩ .i8 0 0xc4)),
   -- INS
   (64, 0x0C40000100A18021, .ins (fL 0x4 0x1 false 0 6 10 0 ⟨false, false, false⟩ .i8 0 0xc4)),
   -- SEL
   (64, 0x0000000238A18021, .sel (fL 0x4 0x2 false 0 6 10 14 ⟨false, false, false⟩ .i8 0 0x0))]

theorem test_decode_04 : ∀ e ∈ words04, decodeTableWord e.1 e.2.1 = some e.2.2 := by decide +kernel

noncomputable def words10 : List (Nat × Nat × Instr) :=
  [
   -- B_EQ
   (64, 0x87B0000038A00081, .bEq (fL 0x10 0x0 false 0 0 10 14 ⟨false, false, false⟩ .i8 0 0x87b)),
   -- B_EQ
   (96, 0xFFFFFFF00000000038A00082, .bEq (fX 0x10 0x0 false 0 0 10 14 ⟨false, false, false⟩ .i8 0 0xfffffff0 0x0)),
   -- B_NE
   (64, 0x87B0000138A00081, .bNe (fL 0x10 0x1 false 0 0 10 14 ⟨false, false, false⟩ .i8 0 0x87b)),
   -- B_LT
   (64, 0x87B0000238A00081, .bLt (fL 0x10 0x2 false 0 0 10 14 ⟨false, false, false⟩ .i8 0 0x87b)),
   -- B_GE
   (64, 0x87B0000338A00081, .bGe (fL 0x10 0x3 false 0 0 10 14 ⟨false, false, false⟩ .i8 0 0x87b)),
   -- B_LTN
   (64, 0x87B0000438A00081, .bLtn (fL 0x10 0x4 false 0 0 10 14 ⟨false, false, false⟩ .i8 0 0x87b)),
   -- B_GEN
   (64, 0x87B0000538A00081, .bGen (fL 0x10 0x5 false 0 0 10 14 ⟨false, false, false⟩ .i8 0 0x87b)),
   -- BZ
   (64, 0x87B0000600A00081, .bz (fL 0x10 0x6 false 0 0 10 0 ⟨false, false, false⟩ .i8 0 0x87b)),
   -- BNZ
   (64, 0x87B0000700A00081, .bnz (fL 0x10 0x7 false 0 0 10 0 ⟨false, false, false⟩ .i8 0 0x87b)),
   -- BP_ANY
   (64, 0x87B0000800200081, .bpAny (fL 0x10 0x8 false 0 0 2 0 ⟨false, false, false⟩ .i8 0 0x87b)),
   -- BP_ALL
   (64, 0x87B0000900200081, .bpAll (fL 0x10 0x9 false 0 0 2 0 ⟨false, false, false⟩ .i8 0 0x87b)),
   -- BP_NONE
   (64, 0x87B0000A00200081, .bpNone (fL 0x10 0xa false 0 0 2 0 ⟨false, false, false⟩ .i8 0 0x87b))]

theorem test_decode_10 : ∀ e ∈ words10, decodeTableWord e.1 e.2.1 = some e.2.2 := by decide +kernel

noncomputable def words11 : List (Nat × Nat × Instr) :=
  [
   -- J
   (64, 0x87B0000000000089, .jump (fL 0x11 0x0 false 0 0 0 0 ⟨false, false, false⟩ .i8 0 0x87b)),
   -- J
   (96, 0x7FFFFFFF000000000000008A, .jump (fX 0x11 0x0 false 0 0 0 0 ⟨false, false, false⟩ .i8 0 0x7fffffff 0x0)),
   -- JR
   (64, 0x0000000100A00089, .jr (fL 0x11 0x1 false 0 0 10 0 ⟨false, false, false⟩ .i8 0 0x0)),
   -- CALL
   (64, 0x87B0000200000089, .call (fL 0x11 0x2 false 0 0 0 0 ⟨false, false, false⟩ .i8 0 0x87b)),
   -- CALLR
   (64, 0x0000000300A00089, .callr (fL 0x11 0x3 false 0 0 10 0 ⟨false, false, false⟩ .i8 0 0x0)),
   -- RET
   (64, 0x0000000400000089, .ret (fL 0x11 0x4 false 0 0 0 0 ⟨false, false, false⟩ .i8 0 0x0))]

theorem test_decode_11 : ∀ e ∈ words11, decodeTableWord e.1 e.2.1 = some e.2.2 := by decide +kernel

noncomputable def words12 : List (Nat × Nat × Instr) :=
  [
   -- NEST
   (64, 0x0210000000A00091, .nest (fL 0x12 0x0 false 0 0 10 0 ⟨false, false, false⟩ .i8 0 0x21)),
   -- NEXIT
   (32, 0x10000090, .nexit (fS 0x12 1 false 0 0 0)),
   -- NEXIT_L64
   (64, 0x0000000100000091, .nexitL64 (fL 0x12 0x1 false 0 0 0 0 ⟨false, false, false⟩ .i8 0 0x0)),
   -- NEXIT_REG
   (32, 0x200A0090, .nexitReg (fS 0x12 2 false 0 10 0)),
   -- NEXIT_REG_L64
   (64, 0x0000000200A00091, .nexitRegL64 (fL 0x12 0x2 false 0 0 10 0 ⟨false, false, false⟩ .i8 0 0x0))]

theorem test_decode_12 : ∀ e ∈ words12, decodeTableWord e.1 e.2.1 = some e.2.2 := by decide +kernel

noncomputable def words13 : List (Nat × Nat × Instr) :=
  [
   -- SETVL
   (64, 0x0010000000A18099, .setvl (fL 0x13 0x0 false 0 6 10 0 ⟨false, false, false⟩ .i8 0 0x1))]

theorem test_decode_13 : ∀ e ∈ words13, decodeTableWord e.1 e.2.1 = some e.2.2 := by decide +kernel

noncomputable def words14 : List (Nat × Nat × Instr) :=
  [
   -- VTB
   (64, 0x87B000000000C0A1, .vtb (fL 0x14 0x0 false 0 3 0 0 ⟨false, false, false⟩ .i8 0 0x87b)),
   -- VTB
   (96, 0x00000100000000000000C0A2, .vtb (fX 0x14 0x0 false 0 3 0 0 ⟨false, false, false⟩ .i8 0 0x100 0x0)),
   -- VTEND
   (32, 0x100000A0, .vtend (fS 0x14 1 false 0 0 0)),
   -- VTEND_L64
   (64, 0x00000001000000A1, .vtendL64 (fL 0x14 0x1 false 0 0 0 0 ⟨false, false, false⟩ .i8 0 0x0)),
   -- VTNEXT
   (64, 0x87B00002002000A1, .vtnext (fL 0x14 0x2 false 0 0 2 0 ⟨false, false, false⟩ .i8 0 0x87b))]

theorem test_decode_14 : ∀ e ∈ words14, decodeTableWord e.1 e.2.1 = some e.2.2 := by decide +kernel

noncomputable def words15 : List (Nat × Nat × Instr) :=
  [
   -- FARM
   (32, 0x000A00A8, .farm (fS 0x15 0 false 0 10 0)),
   -- FARM_L64
   (64, 0x0000000000A000A9, .farmL64 (fL 0x15 0x0 false 0 0 10 0 ⟨false, false, false⟩ .i8 0 0x0)),
   -- STRIP
   (32, 0x100018A8, .strip (fS 0x15 1 false 6 0 0)),
   -- STRIP_L64
   (64, 0x00000001000180A9, .stripL64 (fL 0x15 0x1 false 0 6 0 0 ⟨false, false, false⟩ .i8 0 0x0)),
   -- FBAR
   (32, 0x200000A8, .fbar (fS 0x15 2 false 0 0 0)),
   -- FBAR_L64
   (64, 0x00000002000000A9, .fbarL64 (fL 0x15 0x2 false 0 0 0 0 ⟨false, false, false⟩ .i8 0 0x0)),
   -- CBAR
   (32, 0x300000A8, .cbar (fS 0x15 3 false 0 0 0)),
   -- CBAR_L64
   (64, 0x00000003000000A9, .cbarL64 (fL 0x15 0x3 false 0 0 0 0 ⟨false, false, false⟩ .i8 0 0x0)),
   -- YIELD
   (32, 0x400000A8, .yield (fS 0x15 4 false 0 0 0)),
   -- YIELD_L64
   (64, 0x00000004000000A9, .yieldL64 (fL 0x15 0x4 false 0 0 0 0 ⟨false, false, false⟩ .i8 0 0x0)),
   -- EXIT
   (32, 0x500000A8, .exit (fS 0x15 5 false 0 0 0)),
   -- EXIT_L64
   (64, 0x00000005000000A9, .exitL64 (fL 0x15 0x5 false 0 0 0 0 ⟨false, false, false⟩ .i8 0 0x0))]

theorem test_decode_15 : ∀ e ∈ words15, decodeTableWord e.1 e.2.1 = some e.2.2 := by decide +kernel

noncomputable def words18 : List (Nat × Nat × Instr) :=
  [
   -- CSRR_QUOTA_VIEW
   (64, 0x84300000000180C1, .csrrQuotaView (fL 0x18 0x0 false 0 6 0 0 ⟨false, false, false⟩ .i8 0 0x843)),
   -- CSRR
   (64, 0x80100000000180C1, .csrr (fL 0x18 0x0 false 0 6 0 0 ⟨false, false, false⟩ .i8 0 0x801)),
   -- CSRW_VL
   (64, 0x0000000100A000C1, .csrwVl (fL 0x18 0x1 false 0 0 10 0 ⟨false, false, false⟩ .i8 0 0x0)),
   -- CSRW_VSTART
   (64, 0x0010000100A000C1, .csrwVstart (fL 0x18 0x1 false 0 0 10 0 ⟨false, false, false⟩ .i8 0 0x1)),
   -- CSRW_EW
   (64, 0x0020000100A000C1, .csrwEw (fL 0x18 0x1 false 0 0 10 0 ⟨false, false, false⟩ .i8 0 0x2)),
   -- CSRW_QPCT
   (64, 0x0090000100A000C1, .csrwQpct (fL 0x18 0x1 false 0 0 10 0 ⟨false, false, false⟩ .i8 0 0x9)),
   -- CSRW_SRSEED
   (64, 0x00C0000100A000C1, .csrwSrseed (fL 0x18 0x1 false 0 0 10 0 ⟨false, false, false⟩ .i8 0 0xc)),
   -- CSRW_QUOTA_VIEW
   (64, 0x8430000100A000C1, .csrwQuotaView (fL 0x18 0x1 false 0 0 10 0 ⟨false, false, false⟩ .i8 0 0x843)),
   -- CSRW
   (64, 0x8010000100A000C1, .csrw (fL 0x18 0x1 false 0 0 10 0 ⟨false, false, false⟩ .i8 0 0x801))]

theorem test_decode_18 : ∀ e ∈ words18, decodeTableWord e.1 e.2.1 = some e.2.2 := by decide +kernel

noncomputable def words19 : List (Nat × Nat × Instr) :=
  [
   -- TRAP
   (32, 0x000000C8, .trap (fS 0x19 0 false 0 0 0)),
   -- TRAP_L64
   (64, 0x87B00000000000C9, .trapL64 (fL 0x19 0x0 false 0 0 0 0 ⟨false, false, false⟩ .i8 0 0x87b)),
   -- BRK
   (32, 0x100000C8, .brk (fS 0x19 1 false 0 0 0)),
   -- BRK_L64
   (64, 0x87B00001000000C9, .brkL64 (fL 0x19 0x1 false 0 0 0 0 ⟨false, false, false⟩ .i8 0 0x87b)),
   -- ERET
   (32, 0x200000C8, .eret (fS 0x19 2 false 0 0 0)),
   -- ERET_L64
   (64, 0x00000002000000C9, .eretL64 (fL 0x19 0x2 false 0 0 0 0 ⟨false, false, false⟩ .i8 0 0x0)),
   -- WFE
   (32, 0x300A00C8, .wfe (fS 0x19 3 false 0 10 0)),
   -- WFE_L64
   (64, 0x0000000300A000C9, .wfeL64 (fL 0x19 0x3 false 0 0 10 0 ⟨false, false, false⟩ .i8 0 0x0)),
   -- KILL
   (32, 0x400000C8, .kill (fS 0x19 4 false 0 0 0)),
   -- KILL_L64
   (64, 0x87B00004000000C9, .killL64 (fL 0x19 0x4 false 0 0 0 0 ⟨false, false, false⟩ .i8 0 0x87b)),
   -- TLBINV
   (32, 0x500000C8, .tlbinv (fS 0x19 5 false 0 0 0)),
   -- TLBINV_L64
   (64, 0x0120000538A000C9, .tlbinvL64 (fL 0x19 0x5 false 0 0 10 14 ⟨false, false, false⟩ .i8 0 0x12))]

theorem test_decode_19 : ∀ e ∈ words19, decodeTableWord e.1 e.2.1 = some e.2.2 := by decide +kernel

noncomputable def words1A : List (Nat × Nat × Instr) :=
  [
   -- FENCE
   (32, 0x000000D0, .fence (fS 0x1a 0 false 0 0 0)),
   -- FENCE_L64
   (64, 0x01500000000000D1, .fenceL64 (fL 0x1a 0x0 false 0 0 0 0 ⟨false, false, false⟩ .i8 0 0x15)),
   -- TCLR_S
   (32, 0x100018D0, .tclrS (fS 0x1a 1 false 6 0 0)),
   -- TCLR_S_L64
   (64, 0x00000001000180D1, .tclrSL64 (fL 0x1a 0x1 false 0 6 0 0 ⟨false, false, false⟩ .i8 0 0x0)),
   -- TCLR_V
   (32, 0x200018D0, .tclrV (fS 0x1a 2 false 6 0 0)),
   -- TCLR_V_L64
   (64, 0x00010002000180D1, .tclrVL64 (fL 0x1a 0x2 false 0 6 0 0 ⟨false, true, false⟩ .i8 0 0x0)),
   -- TCLR_P
   (32, 0x30000CD0, .tclrP (fS 0x1a 3 false 3 0 0)),
   -- TCLR_P_L64
   (64, 0x000000030000C0D1, .tclrPL64 (fL 0x1a 0x3 false 0 3 0 0 ⟨false, false, false⟩ .i8 0 0x0)),
   -- TCLR_VL
   (32, 0x400000D0, .tclrVl (fS 0x1a 4 false 0 0 0)),
   -- TCLR_VL_L64
   (64, 0x00000004000000D1, .tclrVlL64 (fL 0x1a 0x4 false 0 0 0 0 ⟨false, false, false⟩ .i8 0 0x0))]

theorem test_decode_1A : ∀ e ∈ words1A, decodeTableWord e.1 e.2.1 = some e.2.2 := by decide +kernel

noncomputable def words20 : List (Nat × Nat × Instr) :=
  [
   -- LD
   (64, 0x87B0010000A18101, .ld (fL 0x20 0x0 false 0 6 10 0 ⟨false, false, false⟩ .i16 0 0x87b)),
   -- LD
   (96, 0x123456780000010000A18102, .ld (fX 0x20 0x0 false 0 6 10 0 ⟨false, false, false⟩ .i16 0 0x12345678 0x0)),
   -- LD_INDEX
   (64, 0x0000010138A18101, .ldIndex (fL 0x20 0x1 false 0 6 10 14 ⟨false, false, false⟩ .i16 0 0x0)),
   -- PREF
   (64, 0x87B0000200A00101, .pref (fL 0x20 0x2 false 0 0 10 0 ⟨false, false, false⟩ .i8 0 0x87b))]

theorem test_decode_20 : ∀ e ∈ words20, decodeTableWord e.1 e.2.1 = some e.2.2 := by decide +kernel

noncomputable def words21 : List (Nat × Nat × Instr) :=
  [
   -- ST
   (64, 0x87B0010000A18109, .st (fL 0x21 0x0 false 0 6 10 0 ⟨false, false, false⟩ .i16 0 0x87b)),
   -- ST
   (96, 0xFFFFFFF80000010000A1810A, .st (fX 0x21 0x0 false 0 6 10 0 ⟨false, false, false⟩ .i16 0 0xfffffff8 0x0)),
   -- ST_INDEX
   (64, 0x0000010138A18109, .stIndex (fL 0x21 0x1 false 0 6 10 14 ⟨false, false, false⟩ .i16 0 0x0))]

theorem test_decode_21 : ∀ e ∈ words21, decodeTableWord e.1 e.2.1 = some e.2.2 := by decide +kernel

noncomputable def words22 : List (Nat × Nat × Instr) :=
  [
   -- AMO
   (64, 0x0000071938A18111, .amo (fL 0x22 0x19 false 0 6 10 14 ⟨false, false, false⟩ .n64 0 0x0)),
   -- LDACQ
   (64, 0x0000016000A18111, .ldacq (fL 0x22 0x60 false 0 6 10 0 ⟨false, false, false⟩ .i16 0 0x0)),
   -- STREL
   (64, 0x0000018000A18111, .strel (fL 0x22 0x80 false 0 6 10 0 ⟨false, false, false⟩ .i16 0 0x0))]

theorem test_decode_22 : ∀ e ∈ words22, decodeTableWord e.1 e.2.1 = some e.2.2 := by decide +kernel

noncomputable def words28 : List (Nat × Nat × Instr) :=
  [
   -- VADD
   (64, 0x4051010038A1AD45, .vadd (fL 0x28 0x0 true 11 6 10 14 ⟨false, true, false⟩ .i16 0 0x405)),
   -- VSUB
   (64, 0x4050810138A1AD45, .vsub (fL 0x28 0x1 true 11 6 10 14 ⟨true, false, false⟩ .i16 0 0x405)),
   -- VMIN
   (64, 0x4051010238A1AD45, .vmin (fL 0x28 0x2 true 11 6 10 14 ⟨false, true, false⟩ .i16 0 0x405)),
   -- VMAX
   (64, 0x4050810338A1AD45, .vmax (fL 0x28 0x3 true 11 6 10 14 ⟨true, false, false⟩ .i16 0 0x405)),
   -- VADD_SAT
   (64, 0x4051010838A1AD45, .vaddSat (fL 0x28 0x8 true 11 6 10 14 ⟨false, true, false⟩ .i16 0 0x405)),
   -- VSUB_SAT
   (64, 0x4050810938A1AD45, .vsubSat (fL 0x28 0x9 true 11 6 10 14 ⟨true, false, false⟩ .i16 0 0x405)),
   -- VABS
   (64, 0x0001030400A1AD45, .vabs (fL 0x28 0x4 true 11 6 10 0 ⟨false, true, false⟩ .i64 0 0x0)),
   -- VSEL
   (64, 0x4850890538A1AD45, .vsel (fL 0x28 0x5 true 11 6 10 14 ⟨true, false, false⟩ .f32 0 0x485))]

theorem test_decode_28 : ∀ e ∈ words28, decodeTableWord e.1 e.2.1 = some e.2.2 := by decide +kernel

noncomputable def words29 : List (Nat × Nat × Instr) :=
  [
   -- VADD
   (64, 0x0001010038A1AD4D, .vadd (fL 0x29 0x0 true 11 6 10 14 ⟨false, true, false⟩ .i16 0 0x0)),
   -- VADD
   (64, 0x87B1018000A1AD4D, .vadd (fL 0x29 0x80 true 11 6 10 0 ⟨false, true, false⟩ .i16 0 0x87b)),
   -- VSUB
   (64, 0x0000810138A1AD4D, .vsub (fL 0x29 0x1 true 11 6 10 14 ⟨true, false, false⟩ .i16 0 0x0)),
   -- VSUB
   (64, 0x87B0818100A1AD4D, .vsub (fL 0x29 0x81 true 11 6 10 0 ⟨true, false, false⟩ .i16 0 0x87b)),
   -- VMIN
   (64, 0x0001010238A1AD4D, .vmin (fL 0x29 0x2 true 11 6 10 14 ⟨false, true, false⟩ .i16 0 0x0)),
   -- VMIN
   (64, 0x87B1018200A1AD4D, .vmin (fL 0x29 0x82 true 11 6 10 0 ⟨false, true, false⟩ .i16 0 0x87b)),
   -- VMAX
   (64, 0x0000810338A1AD4D, .vmax (fL 0x29 0x3 true 11 6 10 14 ⟨true, false, false⟩ .i16 0 0x0)),
   -- VMAX
   (64, 0x87B0818300A1AD4D, .vmax (fL 0x29 0x83 true 11 6 10 0 ⟨true, false, false⟩ .i16 0 0x87b)),
   -- VADD_SAT
   (64, 0x0001010838A1AD4D, .vaddSat (fL 0x29 0x8 true 11 6 10 14 ⟨false, true, false⟩ .i16 0 0x0)),
   -- VADD_SAT
   (64, 0x87B1018800A1AD4D, .vaddSat (fL 0x29 0x88 true 11 6 10 0 ⟨false, true, false⟩ .i16 0 0x87b)),
   -- VSUB_SAT
   (64, 0x0000810938A1AD4D, .vsubSat (fL 0x29 0x9 true 11 6 10 14 ⟨true, false, false⟩ .i16 0 0x0)),
   -- VSUB_SAT
   (64, 0x87B0818900A1AD4D, .vsubSat (fL 0x29 0x89 true 11 6 10 0 ⟨true, false, false⟩ .i16 0 0x87b)),
   -- VSAT
   (64, 0x0091018600A1AD4D, .vsat (fL 0x29 0x86 true 11 6 10 0 ⟨false, true, false⟩ .i16 0 0x9))]

theorem test_decode_29 : ∀ e ∈ words29, decodeTableWord e.1 e.2.1 = some e.2.2 := by decide +kernel

noncomputable def words2A : List (Nat × Nat × Instr) :=
  [
   -- VSHL
   (64, 0x4051010038A1AD55, .vshl (fL 0x2a 0x0 true 11 6 10 14 ⟨false, true, false⟩ .i16 0 0x405)),
   -- VSHL
   (64, 0x0001014038A1AD55, .vshl (fL 0x2a 0x40 true 11 6 10 14 ⟨false, true, false⟩ .i16 0 0x0)),
   -- VSHL
   (64, 0x0071018000A1AD55, .vshl (fL 0x2a 0x80 true 11 6 10 0 ⟨false, true, false⟩ .i16 0 0x7)),
   -- VSHR
   (64, 0x4050810138A1AD55, .vshr (fL 0x2a 0x1 true 11 6 10 14 ⟨true, false, false⟩ .i16 0 0x405)),
   -- VSHR
   (64, 0x0000814138A1AD55, .vshr (fL 0x2a 0x41 true 11 6 10 14 ⟨true, false, false⟩ .i16 0 0x0)),
   -- VSHR
   (64, 0x0070818100A1AD55, .vshr (fL 0x2a 0x81 true 11 6 10 0 ⟨true, false, false⟩ .i16 0 0x7)),
   -- VSRA
   (64, 0x4051010238A1AD55, .vsra (fL 0x2a 0x2 true 11 6 10 14 ⟨false, true, false⟩ .i16 0 0x405)),
   -- VSRA
   (64, 0x0001014238A1AD55, .vsra (fL 0x2a 0x42 true 11 6 10 14 ⟨false, true, false⟩ .i16 0 0x0)),
   -- VSRA
   (64, 0x0071018200A1AD55, .vsra (fL 0x2a 0x82 true 11 6 10 0 ⟨false, true, false⟩ .i16 0 0x7)),
   -- VFSL
   (64, 0x0070818338A1AD55, .vfsl (fL 0x2a 0x83 true 11 6 10 14 ⟨true, false, false⟩ .i16 0 0x7)),
   -- VFSR
   (64, 0x0071018438A1AD55, .vfsr (fL 0x2a 0x84 true 11 6 10 14 ⟨false, true, false⟩ .i16 0 0x7))]

theorem test_decode_2A : ∀ e ∈ words2A, decodeTableWord e.1 e.2.1 = some e.2.2 := by decide +kernel

noncomputable def words2B : List (Nat × Nat × Instr) :=
  [
   -- VLUT3
   (64, 0x0A51010038A1AD5D, .vlut3 (fL 0x2b 0x0 true 11 6 10 14 ⟨false, true, false⟩ .i16 0 0xa5))]

theorem test_decode_2B : ∀ e ∈ words2B, decodeTableWord e.1 e.2.1 = some e.2.2 := by decide +kernel

noncomputable def words2C : List (Nat × Nat × Instr) :=
  [
   -- VCMP
   (64, 0x4050010338A0ED65, .vcmp (fL 0x2c 0x3 true 11 3 10 14 ⟨false, false, false⟩ .i16 0 0x405)),
   -- VCMP
   (64, 0x0000014338A0ED65, .vcmp (fL 0x2c 0x43 true 11 3 10 14 ⟨false, false, false⟩ .i16 0 0x0)),
   -- VCMP
   (64, 0x87B0018300A0ED65, .vcmp (fL 0x2c 0x83 true 11 3 10 0 ⟨false, false, false⟩ .i16 0 0x87b))]

theorem test_decode_2C : ∀ e ∈ words2C, decodeTableWord e.1 e.2.1 = some e.2.2 := by decide +kernel

noncomputable def words2D : List (Nat × Nat × Instr) :=
  [
   -- VPOPC
   (64, 0x0001010000A1AD6D, .vpopc (fL 0x2d 0x0 true 11 6 10 0 ⟨false, true, false⟩ .i16 0 0x0)),
   -- VCLZ
   (64, 0x0000810100A1AD6D, .vclz (fL 0x2d 0x1 true 11 6 10 0 ⟨true, false, false⟩ .i16 0 0x0)),
   -- VEXTB
   (64, 0x0C41010200A1AD6D, .vextb (fL 0x2d 0x2 true 11 6 10 0 ⟨false, true, false⟩ .i16 0 0xc4)),
   -- VINSB
   (64, 0x0C40810300A1AD6D, .vinsb (fL 0x2d 0x3 true 11 6 10 0 ⟨true, false, false⟩ .i16 0 0xc4))]

theorem test_decode_2D : ∀ e ∈ words2D, decodeTableWord e.1 e.2.1 = some e.2.2 := by decide +kernel

noncomputable def words2E : List (Nat × Nat × Instr) :=
  [
   -- VMUL
   (64, 0x4051010038A1AD75, .vmul (fL 0x2e 0x0 true 11 6 10 14 ⟨false, true, false⟩ .i16 0 0x405)),
   -- VMULH
   (64, 0x4050810138A1AD75, .vmulh (fL 0x2e 0x1 true 11 6 10 14 ⟨true, false, false⟩ .i16 0 0x405)),
   -- VMAC
   (64, 0x4051010238A1AD75, .vmac (fL 0x2e 0x2 true 11 6 10 14 ⟨false, true, false⟩ .i16 0 0x405)),
   -- VDIV
   (64, 0x4050810338A1AD75, .vdiv (fL 0x2e 0x3 true 11 6 10 14 ⟨true, false, false⟩ .i16 0 0x405)),
   -- VREM
   (64, 0x4051010438A1AD75, .vrem (fL 0x2e 0x4 true 11 6 10 14 ⟨false, true, false⟩ .i16 0 0x405))]

theorem test_decode_2E : ∀ e ∈ words2E, decodeTableWord e.1 e.2.1 = some e.2.2 := by decide +kernel

noncomputable def words30 : List (Nat × Nat × Instr) :=
  [
   -- VPERM
   (64, 0x0001090038A1AD85, .vperm (fL 0x30 0x0 true 11 6 10 14 ⟨false, true, false⟩ .f32 0 0x0)),
   -- VTBL
   (64, 0x0050890138A1AD85, .vtbl (fL 0x30 0x1 true 11 6 10 14 ⟨true, false, false⟩ .f32 0 0x5)),
   -- VCOMPRESS
   (64, 0x0001090218A1AD85, .vcompress (fL 0x30 0x2 true 11 6 10 6 ⟨false, true, false⟩ .f32 0 0x0)),
   -- VEXPAND
   (64, 0x0000890318A1AD85, .vexpand (fL 0x30 0x3 true 11 6 10 6 ⟨true, false, false⟩ .f32 0 0x0)),
   -- VREV
   (64, 0x0001090400A1AD85, .vrev (fL 0x30 0x4 true 11 6 10 0 ⟨false, true, false⟩ .f32 0 0x0)),
   -- VZIP
   (64, 0x0010890538A1AD85, .vzip (fL 0x30 0x5 true 11 6 10 14 ⟨true, false, false⟩ .f32 0 0x1)),
   -- VUNZIP
   (64, 0x0011090638A1AD85, .vunzip (fL 0x30 0x6 true 11 6 10 14 ⟨false, true, false⟩ .f32 0 0x1))]

theorem test_decode_30 : ∀ e ∈ words30, decodeTableWord e.1 e.2.1 = some e.2.2 := by decide +kernel

noncomputable def words31 : List (Nat × Nat × Instr) :=
  [
   -- VSLIDEUP
   (64, 0x1231090038A1AD8D, .vslideup (fL 0x31 0x0 true 11 6 10 14 ⟨false, true, false⟩ .f32 0 0x123)),
   -- VSLIDEUP
   (96, 0x000000000541090238A1AD8E, .vslideup (fX 0x31 0x2 true 11 6 10 14 ⟨false, true, false⟩ .f32 0 0x0 0x15)),
   -- VSLIDEDN
   (64, 0x1230890138A1AD8D, .vslidedn (fL 0x31 0x1 true 11 6 10 14 ⟨true, false, false⟩ .f32 0 0x123)),
   -- VSLIDEDN
   (96, 0x000000000540890338A1AD8E, .vslidedn (fX 0x31 0x3 true 11 6 10 14 ⟨true, false, false⟩ .f32 0 0x0 0x15))]

theorem test_decode_31 : ∀ e ∈ words31, decodeTableWord e.1 e.2.1 = some e.2.2 := by decide +kernel

noncomputable def words32 : List (Nat × Nat × Instr) :=
  [
   -- PAND
   (32, 0x01820D94, .pand (fS 0x32 0 true 3 2 6)),
   -- PAND_L64
   (64, 0x000000001820ED95, .pandL64 (fL 0x32 0x0 true 11 3 2 6 ⟨false, false, false⟩ .i8 0 0x0)),
   -- POR
   (32, 0x11820D94, .por (fS 0x32 1 true 3 2 6)),
   -- POR_L64
   (64, 0x000000011820ED95, .porL64 (fL 0x32 0x1 true 11 3 2 6 ⟨false, false, false⟩ .i8 0 0x0)),
   -- PXOR
   (32, 0x21820D94, .pxor (fS 0x32 2 true 3 2 6)),
   -- PXOR_L64
   (64, 0x000000021820ED95, .pxorL64 (fL 0x32 0x2 true 11 3 2 6 ⟨false, false, false⟩ .i8 0 0x0)),
   -- PNOT
   (32, 0x30020D94, .pnot (fS 0x32 3 true 3 2 0)),
   -- PNOT_L64
   (64, 0x000000030020ED95, .pnotL64 (fL 0x32 0x3 true 11 3 2 0 ⟨false, false, false⟩ .i8 0 0x0)),
   -- PSET
   (32, 0x40000D94, .pset (fS 0x32 4 true 3 0 0)),
   -- PSET_L64
   (64, 0x000000040000C195, .psetL64 (fL 0x32 0x4 true 0 3 0 0 ⟨false, false, false⟩ .i8 0 0x0)),
   -- PFIRST
   (32, 0x50020D94, .pfirst (fS 0x32 5 true 3 2 0)),
   -- PFIRST_L64
   (64, 0x000000050020ED95, .pfirstL64 (fL 0x32 0x5 true 11 3 2 0 ⟨false, false, false⟩ .i8 0 0x0)),
   -- PCOUNT
   (32, 0x60021994, .pcount (fS 0x32 6 true 6 2 0)),
   -- PCOUNT_L64
   (64, 0x000000060021AD95, .pcountL64 (fL 0x32 0x6 true 11 6 2 0 ⟨false, false, false⟩ .i8 0 0x0)),
   -- PMOVS_TO_SCALAR
   (64, 0x87B0000700218195, .pmovsToScalar (fL 0x32 0x7 true 0 6 2 0 ⟨false, false, false⟩ .i8 0 0x87b)),
   -- PMOVS_TO_PREDICATE
   (64, 0x87B0000800A0C195, .pmovsToPredicate (fL 0x32 0x8 true 0 3 10 0 ⟨false, false, false⟩ .i8 0 0x87b))]

theorem test_decode_32 : ∀ e ∈ words32, decodeTableWord e.1 e.2.1 = some e.2.2 := by decide +kernel

noncomputable def words33 : List (Nat × Nat × Instr) :=
  [
   -- VEXTS
   (64, 0x0000090038A1819D, .vexts (fL 0x33 0x0 true 0 6 10 14 ⟨false, false, false⟩ .f32 0 0x0)),
   -- VEXTS_IMM
   (64, 0x87B0890100A1819D, .vextsImm (fL 0x33 0x1 true 0 6 10 0 ⟨true, false, false⟩ .f32 0 0x87b)),
   -- VEXTS_IMM
   (96, 0x000007B50000890100A1819E, .vextsImm (fX 0x33 0x1 true 0 6 10 0 ⟨true, false, false⟩ .f32 0 0x7B5 0x0)),
   -- VINSS
   (64, 0x0001090238A1819D, .vinss (fL 0x33 0x2 true 0 6 10 14 ⟨false, true, false⟩ .f32 0 0x0)),
   -- VINSS_IMM
   (64, 0x87B0090300A1819D, .vinssImm (fL 0x33 0x3 true 0 6 10 0 ⟨false, false, false⟩ .f32 0 0x87b)),
   -- VBCAST
   (64, 0x0001090400A1AD9D, .vbcast (fL 0x33 0x4 true 11 6 10 0 ⟨false, true, false⟩ .f32 0 0x0)),
   -- VBCAST_IMM
   (64, 0x87B009050001AD9D, .vbcastImm (fL 0x33 0x5 true 11 6 0 0 ⟨false, false, false⟩ .f32 0 0x87b)),
   -- VBCAST_IMM
   (96, 0xDEADBEEF000009050001AD9E, .vbcastImm (fX 0x33 0x5 true 11 6 0 0 ⟨false, false, false⟩ .f32 0 0xdeadbeef 0x0)),
   -- VID
   (64, 0x000101060001AD9D, .vid (fL 0x33 0x6 true 11 6 0 0 ⟨false, true, false⟩ .i16 0 0x0)),
   -- VIOTA
   (64, 0x000001070021AD9D, .viota (fL 0x33 0x7 true 11 6 2 0 ⟨false, false, false⟩ .i16 0 0x0))]

theorem test_decode_33 : ∀ e ∈ words33, decodeTableWord e.1 e.2.1 = some e.2.2 := by decide +kernel

noncomputable def words40 : List (Nat × Nat × Instr) :=
  [
   -- VFADD
   (64, 0x40513A0038A1AE05, .vfadd (fL 0x40 0x0 true 11 6 10 14 ⟨false, true, false⟩ .bf16 3 0x405)),
   -- VFADD
   (64, 0x00013A8038A1AE05, .vfadd (fL 0x40 0x80 true 11 6 10 14 ⟨false, true, false⟩ .bf16 3 0x0)),
   -- VFSUB
   (64, 0x4050BA0138A1AE05, .vfsub (fL 0x40 0x1 true 11 6 10 14 ⟨true, false, false⟩ .bf16 3 0x405)),
   -- VFSUB
   (64, 0x0000BA8138A1AE05, .vfsub (fL 0x40 0x81 true 11 6 10 14 ⟨true, false, false⟩ .bf16 3 0x0)),
   -- VFMUL
   (64, 0x40513A0238A1AE05, .vfmul (fL 0x40 0x2 true 11 6 10 14 ⟨false, true, false⟩ .bf16 3 0x405)),
   -- VFMUL
   (64, 0x00013A8238A1AE05, .vfmul (fL 0x40 0x82 true 11 6 10 14 ⟨false, true, false⟩ .bf16 3 0x0))]

theorem test_decode_40 : ∀ e ∈ words40, decodeTableWord e.1 e.2.1 = some e.2.2 := by decide +kernel

noncomputable def words41 : List (Nat × Nat × Instr) :=
  [
   -- VFMA
   (64, 0x40513A0038A1AE0D, .vfma (fL 0x41 0x0 true 11 6 10 14 ⟨false, true, false⟩ .bf16 3 0x405)),
   -- VFMA
   (64, 0x00013A8038A1AE0D, .vfma (fL 0x41 0x80 true 11 6 10 14 ⟨false, true, false⟩ .bf16 3 0x0)),
   -- VFNMA
   (64, 0x4050BA0138A1AE0D, .vfnma (fL 0x41 0x1 true 11 6 10 14 ⟨true, false, false⟩ .bf16 3 0x405)),
   -- VFNMA
   (64, 0x0000BA8138A1AE0D, .vfnma (fL 0x41 0x81 true 11 6 10 14 ⟨true, false, false⟩ .bf16 3 0x0))]

theorem test_decode_41 : ∀ e ∈ words41, decodeTableWord e.1 e.2.1 = some e.2.2 := by decide +kernel

noncomputable def words42 : List (Nat × Nat × Instr) :=
  [
   -- VFDIV
   (64, 0x40513A0038A1AE15, .vfdiv (fL 0x42 0x0 true 11 6 10 14 ⟨false, true, false⟩ .bf16 3 0x405)),
   -- VFDIV
   (64, 0x00013A8038A1AE15, .vfdiv (fL 0x42 0x80 true 11 6 10 14 ⟨false, true, false⟩ .bf16 3 0x0)),
   -- VFSQRT
   (64, 0x0000BA0100A1AE15, .vfsqrt (fL 0x42 0x1 true 11 6 10 0 ⟨true, false, false⟩ .bf16 3 0x0)),
   -- VFRSQ
   (64, 0x00013A0200A1AE15, .vfrsq (fL 0x42 0x2 true 11 6 10 0 ⟨false, true, false⟩ .bf16 3 0x0)),
   -- VFEXP2
   (64, 0x0000BA0300A1AE15, .vfexp2 (fL 0x42 0x3 true 11 6 10 0 ⟨true, false, false⟩ .bf16 3 0x0)),
   -- VFLOG2
   (64, 0x00013A0400A1AE15, .vflog2 (fL 0x42 0x4 true 11 6 10 0 ⟨false, true, false⟩ .bf16 3 0x0))]

theorem test_decode_42 : ∀ e ∈ words42, decodeTableWord e.1 e.2.1 = some e.2.2 := by decide +kernel

noncomputable def words43 : List (Nat × Nat × Instr) :=
  [
   -- VFMIN
   (64, 0x40517A0038A1AE1D, .vfmin (fL 0x43 0x0 true 11 6 10 14 ⟨false, true, false⟩ .bf16 7 0x405)),
   -- VFMIN
   (64, 0x00017A8038A1AE1D, .vfmin (fL 0x43 0x80 true 11 6 10 14 ⟨false, true, false⟩ .bf16 7 0x0)),
   -- VFMAX
   (64, 0x40517A0838A1AE1D, .vfmax (fL 0x43 0x8 true 11 6 10 14 ⟨false, true, false⟩ .bf16 7 0x405)),
   -- VFMAX
   (64, 0x00017A8838A1AE1D, .vfmax (fL 0x43 0x88 true 11 6 10 14 ⟨false, true, false⟩ .bf16 7 0x0)),
   -- VFCLASS
   (64, 0x00017A1000A1AE1D, .vfclass (fL 0x43 0x10 true 11 6 10 0 ⟨false, true, false⟩ .bf16 7 0x0)),
   -- VFCMP
   (64, 0x40507A1A38A0EE1D, .vfcmp (fL 0x43 0x1a true 11 3 10 14 ⟨false, false, false⟩ .bf16 7 0x405)),
   -- VFCMP
   (64, 0x00007A9A38A0EE1D, .vfcmp (fL 0x43 0x9a true 11 3 10 14 ⟨false, false, false⟩ .bf16 7 0x0))]

theorem test_decode_43 : ∀ e ∈ words43, decodeTableWord e.1 e.2.1 = some e.2.2 := by decide +kernel

noncomputable def words44 : List (Nat × Nat × Instr) :=
  [
   -- VCVT
   (64, 0x0001390B00A1AE25, .vcvt (fL 0x44 0xb true 11 6 10 0 ⟨false, true, false⟩ .f32 3 0x0))]

theorem test_decode_44 : ∀ e ∈ words44, decodeTableWord e.1 e.2.1 = some e.2.2 := by decide +kernel

noncomputable def words45 : List (Nat × Nat × Instr) :=
  [
   -- QSCALE
   (64, 0x0000790C00A1AE2D, .qscale (fL 0x45 0xc true 11 6 10 0 ⟨false, false, false⟩ .f32 7 0x0)),
   -- VQNT
   (64, 0x0010391C38A1AE2D, .vqnt (fL 0x45 0x1c true 11 6 10 14 ⟨false, false, false⟩ .f32 3 0x1)),
   -- VDQNT
   (64, 0x00003C2938A1AE2D, .vdqnt (fL 0x45 0x29 true 11 6 10 14 ⟨false, false, false⟩ .e4m3 3 0x0))]

theorem test_decode_45 : ∀ e ∈ words45, decodeTableWord e.1 e.2.1 = some e.2.2 := by decide +kernel

noncomputable def words50 : List (Nat × Nat × Instr) :=
  [
   -- VREDSUM
   (64, 0x0000010038A1AE85, .vredsum (fL 0x50 0x0 true 11 6 10 14 ⟨false, false, false⟩ .i16 0 0x0)),
   -- VREDMIN
   (64, 0x0000810138A1AE85, .vredmin (fL 0x50 0x1 true 11 6 10 14 ⟨true, false, false⟩ .i16 0 0x0)),
   -- VREDMAX
   (64, 0x0000010238A1AE85, .vredmax (fL 0x50 0x2 true 11 6 10 14 ⟨false, false, false⟩ .i16 0 0x0)),
   -- VREDAND
   (64, 0x0000810338A1AE85, .vredand (fL 0x50 0x3 true 11 6 10 14 ⟨true, false, false⟩ .i16 0 0x0)),
   -- VREDOR
   (64, 0x0000010438A1AE85, .vredor (fL 0x50 0x4 true 11 6 10 14 ⟨false, false, false⟩ .i16 0 0x0)),
   -- VREDXOR
   (64, 0x0000810538A1AE85, .vredxor (fL 0x50 0x5 true 11 6 10 14 ⟨true, false, false⟩ .i16 0 0x0)),
   -- VSCAN
   (64, 0x0001011338A1AE85, .vscan (fL 0x50 0x13 true 11 6 10 14 ⟨false, true, false⟩ .i16 0 0x0))]

theorem test_decode_50 : ∀ e ∈ words50, decodeTableWord e.1 e.2.1 = some e.2.2 := by decide +kernel

noncomputable def words51 : List (Nat × Nat × Instr) :=
  [
   -- VFREDSUM
   (64, 0x00003A0038A1AE8D, .vfredsum (fL 0x51 0x0 true 11 6 10 14 ⟨false, false, false⟩ .bf16 3 0x0)),
   -- VFREDOSUM
   (64, 0x0000BA0138A1AE8D, .vfredosum (fL 0x51 0x1 true 11 6 10 14 ⟨true, false, false⟩ .bf16 3 0x0)),
   -- VFREDMIN
   (64, 0x00007A0238A1AE8D, .vfredmin (fL 0x51 0x2 true 11 6 10 14 ⟨false, false, false⟩ .bf16 7 0x0)),
   -- VFREDMAX
   (64, 0x0000FA0338A1AE8D, .vfredmax (fL 0x51 0x3 true 11 6 10 14 ⟨true, false, false⟩ .bf16 7 0x0)),
   -- VFSCAN
   (64, 0x00013A0438A1AE8D, .vfscan (fL 0x51 0x4 true 11 6 10 14 ⟨false, true, false⟩ .bf16 3 0x0))]

theorem test_decode_51 : ∀ e ∈ words51, decodeTableWord e.1 e.2.1 = some e.2.2 := by decide +kernel

noncomputable def words58 : List (Nat × Nat × Instr) :=
  [
   -- VLD
   (64, 0x00010B0000A1AEC5, .vld (fL 0x58 0x0 true 11 6 10 0 ⟨false, true, false⟩ .f16 0 0x0)),
   -- VST
   (64, 0x00020B0100A1AEC5, .vst (fL 0x58 0x1 true 11 6 10 0 ⟨false, false, true⟩ .f16 0 0x0))]

theorem test_decode_58 : ∀ e ∈ words58, decodeTableWord e.1 e.2.1 = some e.2.2 := by decide +kernel

noncomputable def words59 : List (Nat × Nat × Instr) :=
  [
   -- VLDS
   (64, 0x0001090038A1AECD, .vlds (fL 0x59 0x0 true 11 6 10 14 ⟨false, true, false⟩ .f32 0 0x0)),
   -- VSTS
   (64, 0x0002090138A1AECD, .vsts (fL 0x59 0x1 true 11 6 10 14 ⟨false, false, true⟩ .f32 0 0x0))]

theorem test_decode_59 : ∀ e ∈ words59, decodeTableWord e.1 e.2.1 = some e.2.2 := by decide +kernel

noncomputable def words5A : List (Nat × Nat × Instr) :=
  [
   -- VLDX
   (64, 0x0001090038A1AED5, .vldx (fL 0x5a 0x0 true 11 6 10 14 ⟨false, true, false⟩ .f32 0 0x0)),
   -- VSTX
   (64, 0x0002090138A1AED5, .vstx (fL 0x5a 0x1 true 11 6 10 14 ⟨false, false, true⟩ .f32 0 0x0))]

theorem test_decode_5A : ∀ e ∈ words5A, decodeTableWord e.1 e.2.1 = some e.2.2 := by decide +kernel

noncomputable def words5B : List (Nat × Nat × Instr) :=
  [
   -- VLD2D
   (64, 0x0001090000A1AEDD, .vld2d (fL 0x5b 0x0 true 11 6 10 0 ⟨false, true, false⟩ .f32 0 0x0)),
   -- VST2D
   (64, 0x0002090100A1AEDD, .vst2d (fL 0x5b 0x1 true 11 6 10 0 ⟨false, false, true⟩ .f32 0 0x0))]

theorem test_decode_5B : ∀ e ∈ words5B, decodeTableWord e.1 e.2.1 = some e.2.2 := by decide +kernel

noncomputable def words5C : List (Nat × Nat × Instr) :=
  [
   -- VLDC
   (64, 0x0001040038A182E5, .vldc (fL 0x5c 0x0 true 0 6 10 14 ⟨false, true, false⟩ .n8 0 0x0)),
   -- VBIND
   (64, 0x0000000100A182E5, .vbind (fL 0x5c 0x1 true 0 6 10 0 ⟨false, false, false⟩ .i8 0 0x0)),
   -- VUNBIND
   (64, 0x00010002000182E5, .vunbind (fL 0x5c 0x2 true 0 6 0 0 ⟨false, true, false⟩ .i8 0 0x0))]

theorem test_decode_5C : ∀ e ∈ words5C, decodeTableWord e.1 e.2.1 = some e.2.2 := by decide +kernel

noncomputable def words5D : List (Nat × Nat × Instr) :=
  [
   -- WBIND
   (64, 0x0250060038A002ED, .wbind (fL 0x5d 0x0 true 0 0 10 14 ⟨false, false, false⟩ .n32 0 0x25)),
   -- WUNBIND
   (64, 0x00500001000002ED, .wunbind (fL 0x5d 0x1 true 0 0 0 0 ⟨false, false, false⟩ .i8 0 0x5))]

theorem test_decode_5D : ∀ e ∈ words5D, decodeTableWord e.1 e.2.1 = some e.2.2 := by decide +kernel

noncomputable def words5E : List (Nat × Nat × Instr) :=
  [
   -- VAMO
   (64, 0x0001071838A1AEF5, .vamo (fL 0x5e 0x18 true 11 6 10 14 ⟨false, true, false⟩ .n64 0 0x0))]

theorem test_decode_5E : ∀ e ∈ words5E, decodeTableWord e.1 e.2.1 = some e.2.2 := by decide +kernel

noncomputable def words5F : List (Nat × Nat × Instr) :=
  [
   -- VSAVE
   (64, 0x0051060000A182FD, .vsave (fL 0x5f 0x0 true 0 6 10 0 ⟨false, true, false⟩ .n32 0 0x5)),
   -- VLOAD
   (64, 0x0050060100A182FD, .vload (fL 0x5f 0x1 true 0 6 10 0 ⟨false, false, false⟩ .n32 0 0x5))]

theorem test_decode_5F : ∀ e ∈ words5F, decodeTableWord e.1 e.2.1 = some e.2.2 := by decide +kernel

noncomputable def words68 : List (Nat × Nat × Instr) :=
  [
   -- SPLK
   (64, 0x0000000000A18341, .splk (fL 0x68 0x0 false 0 6 10 0 ⟨false, false, false⟩ .i8 0 0x0)),
   -- SPTAG
   (64, 0x0000000138A00341, .sptag (fL 0x68 0x1 false 0 0 10 14 ⟨false, false, false⟩ .i8 0 0x0)),
   -- SPINV
   (64, 0x0000000200A00341, .spinv (fL 0x68 0x2 false 0 0 10 0 ⟨false, false, false⟩ .i8 0 0x0)),
   -- SPINV_ALL
   (64, 0x0010000200000341, .spinvAll (fL 0x68 0x2 false 0 0 0 0 ⟨false, false, false⟩ .i8 0 0x1))]

theorem test_decode_68 : ∀ e ∈ words68, decodeTableWord e.1 e.2.1 = some e.2.2 := by decide +kernel

noncomputable def words69 : List (Nat × Nat × Instr) :=
  [
   -- SPLD
   (64, 0x0001090000A1AF4D, .spld (fL 0x69 0x0 true 11 6 10 0 ⟨false, true, false⟩ .f32 0 0x0)),
   -- SPST
   (64, 0x0000090100A1AF4D, .spst (fL 0x69 0x1 true 11 6 10 0 ⟨false, false, false⟩ .f32 0 0x0)),
   -- SPLD_TILE
   (64, 0x0001090238A1AF4D, .spldTile (fL 0x69 0x2 true 11 6 10 14 ⟨false, true, false⟩ .f32 0 0x0)),
   -- SPST_TILE
   (64, 0x0000090338A1AF4D, .spstTile (fL 0x69 0x3 true 11 6 10 14 ⟨false, false, false⟩ .f32 0 0x0)),
   -- SPLDX
   (64, 0x0001090438A1AF4D, .spldx (fL 0x69 0x4 true 11 6 10 14 ⟨false, true, false⟩ .f32 0 0x0))]

theorem test_decode_69 : ∀ e ∈ words69, decodeTableWord e.1 e.2.1 = some e.2.2 := by decide +kernel

noncomputable def words6A : List (Nat × Nat × Instr) :=
  [
   -- LPLD
   (64, 0x0001090000A1AF55, .lpld (fL 0x6a 0x0 true 11 6 10 0 ⟨false, true, false⟩ .f32 0 0x0)),
   -- LPST
   (64, 0x0000090100A1AF55, .lpst (fL 0x6a 0x1 true 11 6 10 0 ⟨false, false, false⟩ .f32 0 0x0)),
   -- LPLD_INDEX
   (64, 0x0001090238A1AF55, .lpldIndex (fL 0x6a 0x2 true 11 6 10 14 ⟨false, true, false⟩ .f32 0 0x0)),
   -- LPST_INDEX
   (64, 0x0000090338A1AF55, .lpstIndex (fL 0x6a 0x3 true 11 6 10 14 ⟨false, false, false⟩ .f32 0 0x0))]

theorem test_decode_6A : ∀ e ∈ words6A, decodeTableWord e.1 e.2.1 = some e.2.2 := by decide +kernel

noncomputable def words6B : List (Nat × Nat × Instr) :=
  [
   -- EPUSH
   (64, 0x0020000000A00359, .epush (fL 0x6b 0x0 false 0 0 10 0 ⟨false, false, false⟩ .i8 0 0x2)),
   -- EPOP
   (64, 0x0010000100018359, .epop (fL 0x6b 0x1 false 0 6 0 0 ⟨false, false, false⟩ .i8 0 0x1)),
   -- EPOLL
   (64, 0x0020000200018359, .epoll (fL 0x6b 0x2 false 0 6 0 0 ⟨false, false, false⟩ .i8 0 0x2)),
   -- WAITEV
   (64, 0x00B0000338000359, .waitev (fL 0x6b 0x3 false 0 0 0 14 ⟨false, false, false⟩ .i8 0 0xb)),
   -- EVRD
   (64, 0x00D0000400018359, .evrd (fL 0x6b 0x4 false 0 6 0 0 ⟨false, false, false⟩ .i8 0 0xd)),
   -- EVSET
   (64, 0x01D0000500A00359, .evset (fL 0x6b 0x5 false 0 0 10 0 ⟨false, false, false⟩ .i8 0 0x1d))]

theorem test_decode_6B : ∀ e ∈ words6B, decodeTableWord e.1 e.2.1 = some e.2.2 := by decide +kernel

noncomputable def words70 : List (Nat × Nat × Instr) :=
  [
   -- MSHAPE
   (64, 0x87B07A0238A18385, .mshape (fL 0x70 0x2 true 0 6 10 14 ⟨false, false, false⟩ .bf16 7 0x87b)),
   -- MSHAPE_REG
   (96, 0x0000000005407A0138A18386, .mshapeReg (fX 0x70 0x1 true 0 6 10 14 ⟨false, false, false⟩ .bf16 7 0x0 0x15)),
   -- MZERO
   (64, 0x000070040000C385, .mzero (fL 0x70 0x4 true 0 3 0 0 ⟨false, false, false⟩ .i8 7 0x0)),
   -- MACCLD
   (64, 0x00A03A0538A1AF85, .maccld (fL 0x70 0x5 true 11 6 10 14 ⟨false, false, false⟩ .bf16 3 0xa)),
   -- MACCST
   (64, 0x01913C0638A1AF85, .maccst (fL 0x70 0x6 true 11 6 10 14 ⟨false, true, false⟩ .e4m3 3 0x19))]

theorem test_decode_70 : ∀ e ∈ words70, decodeTableWord e.1 e.2.1 = some e.2.2 := by decide +kernel

noncomputable def words71 : List (Nat × Nat × Instr) :=
  [
   -- MMA
   (64, 0x00007D0438A0EF8D, .mma (fL 0x71 0x4 true 11 3 10 14 ⟨false, false, false⟩ .e5m2 7 0x0))]

theorem test_decode_71 : ∀ e ∈ words71, decodeTableWord e.1 e.2.1 = some e.2.2 := by decide +kernel

noncomputable def words72 : List (Nat × Nat × Instr) :=
  [
   -- MMAS
   (96, 0x0000000001407A1038A0EF96, .mmas (fX 0x72 0x10 true 11 3 10 14 ⟨false, false, false⟩ .bf16 7 0x0 0x5))]

theorem test_decode_72 : ∀ e ∈ words72, decodeTableWord e.1 e.2.1 = some e.2.2 := by decide +kernel

noncomputable def words73 : List (Nat × Nat × Instr) :=
  [
   -- BFLY
   (64, 0x02313A0038A1AF9D, .bfly (fL 0x73 0x0 true 11 6 10 14 ⟨false, true, false⟩ .bf16 3 0x23)),
   -- BCHAIN
   (64, 0x0130BB0138A1AF9D, .bchain (fL 0x73 0x1 true 11 6 10 14 ⟨true, false, false⟩ .f16 3 0x13))]

theorem test_decode_73 : ∀ e ∈ words73, decodeTableWord e.1 e.2.1 = some e.2.2 := by decide +kernel

noncomputable def words74 : List (Nat × Nat × Instr) :=
  [
   -- MTRANS
   (64, 0x0000790000A183A5, .mtrans (fL 0x74 0x0 true 0 6 10 0 ⟨false, false, false⟩ .f32 7 0x0)),
   -- MTRANS_SCRATCH
   (96, 0x000000000540790138A183A6, .mtransScratch (fX 0x74 0x1 true 0 6 10 14 ⟨false, false, false⟩ .f32 7 0x0 0x15))]

theorem test_decode_74 : ∀ e ∈ words74, decodeTableWord e.1 e.2.1 = some e.2.2 := by decide +kernel

noncomputable def words78 : List (Nat × Nat × Instr) :=
  [
   -- SMLD
   (64, 0x0000080A00A0EFC5, .smld (fL 0x78 0xa true 11 3 10 0 ⟨false, false, false⟩ .f64 0 0x0)),
   -- SMST
   (64, 0x1000080A00A0EFC5, .smst (fL 0x78 0xa true 11 3 10 0 ⟨false, false, false⟩ .f64 0 0x100)),
   -- SMGET
   (64, 0x2000080A0021AFC5, .smget (fL 0x78 0xa true 11 6 2 0 ⟨false, false, false⟩ .f64 0 0x200)),
   -- SMPUT
   (64, 0x3000080A00A0EFC5, .smput (fL 0x78 0xa true 11 3 10 0 ⟨false, false, false⟩ .f64 0 0x300))]

theorem test_decode_78 : ∀ e ∈ words78, decodeTableWord e.1 e.2.1 = some e.2.2 := by decide +kernel

noncomputable def words79 : List (Nat × Nat × Instr) :=
  [
   -- SMMUL
   (64, 0x0030380A1820EFCD, .smmul (fL 0x79 0xa true 11 3 2 6 ⟨false, false, false⟩ .f64 3 0x3)),
   -- SMMAC
   (64, 0x1030380A1820EFCD, .smmac (fL 0x79 0xa true 11 3 2 6 ⟨false, false, false⟩ .f64 3 0x103)),
   -- SMADD
   (64, 0x2000380A1820EFCD, .smadd (fL 0x79 0xa true 11 3 2 6 ⟨false, false, false⟩ .f64 3 0x200)),
   -- SMSUB
   (64, 0x3000380A1820EFCD, .smsub (fL 0x79 0xa true 11 3 2 6 ⟨false, false, false⟩ .f64 3 0x300)),
   -- SMTRN
   (64, 0x4000080A0020EFCD, .smtrn (fL 0x79 0xa true 11 3 2 0 ⟨false, false, false⟩ .f64 0 0x400)),
   -- SMSCAL
   (64, 0x5000380A3820EFCD, .smscal (fL 0x79 0xa true 11 3 2 14 ⟨false, false, false⟩ .f64 3 0x500))]

theorem test_decode_79 : ∀ e ∈ words79, decodeTableWord e.1 e.2.1 = some e.2.2 := by decide +kernel

noncomputable def words7A : List (Nat × Nat × Instr) :=
  [
   -- SMCHOL
   (64, 0x001038120020EFD5, .smchol (fL 0x7a 0x12 true 11 3 2 0 ⟨false, false, false⟩ .f64 3 0x1)),
   -- SMLU
   (64, 0x101038123820EFD5, .smlu (fL 0x7a 0x12 true 11 3 2 14 ⟨false, false, false⟩ .f64 3 0x101)),
   -- SMSOLV
   (64, 0x222038121820EFD5, .smsolv (fL 0x7a 0x12 true 11 3 2 6 ⟨false, false, false⟩ .f64 3 0x222))]

theorem test_decode_7A : ∀ e ∈ words7A, decodeTableWord e.1 e.2.1 = some e.2.2 := by decide +kernel

noncomputable def words7C : List (Nat × Nat × Instr) :=
  [
   -- MBSEND
   (64, 0x0250000000A183E1, .mbsend (fL 0x7c 0x0 false 0 6 10 0 ⟨false, false, false⟩ .i8 0 0x25)),
   -- MBRECV
   (64, 0x02500001000183E1, .mbrecv (fL 0x7c 0x1 false 0 6 0 0 ⟨false, false, false⟩ .i8 0 0x25)),
   -- MBPOLL
   (64, 0x02500002000183E1, .mbpoll (fL 0x7c 0x2 false 0 6 0 0 ⟨false, false, false⟩ .i8 0 0x25))]

theorem test_decode_7C : ∀ e ∈ words7C, decodeTableWord e.1 e.2.1 = some e.2.2 := by decide +kernel

noncomputable def words7D : List (Nat × Nat × Instr) :=
  [
   -- GLAUNCH
   (64, 0x0250000038A183E9, .glaunch (fL 0x7d 0x0 false 0 6 10 14 ⟨false, false, false⟩ .i8 0 0x25)),
   -- GSIG
   (64, 0x0000000100A183E9, .gsig (fL 0x7d 0x1 false 0 6 10 0 ⟨false, false, false⟩ .i8 0 0x0))]

theorem test_decode_7D : ∀ e ∈ words7D, decodeTableWord e.1 e.2.1 = some e.2.2 := by decide +kernel

/-! ### Ill-formed instructions: one for each check, refused -/

/-- The fields fail a check of R51, or do not fit their form. -/
def bad (o : Operands) : Bool := !o.shaped || (match classifyRow 2 o with
  | .ok _ => false
  | .error _ => true)

theorem refused {i : Instr} {o : Operands} (h : bad o = true)
    (e : i.wellFormed = (o.shaped = true ∧ ∃ r, classifyRow 2 o = .ok r ∧ r.mn.instr o = i)) : ¬ i.wellFormed := by
  rw [e]
  rintro ⟨hs, r, hr, -⟩
  simp [bad, hs, hr] at h

/-- Fields of L64 with neither flag nor type. -/
def plain (op fn d a b imm : Nat) : Operands := fL op fn false 0 d a b (false, false, false) .i8 0 imm

/-- Well-formed: ADD_L64 s6, s10, s14. -/
theorem test_wf_add : (Instr.addL64 (plain 1 0 6 10 14 0)).wellFormed := by
  refine ⟨by decide, _, rfl, rfl⟩

-- Registers (R38): a scalar number is below 32, a predicate below 8, an unused field is 0, a 64-bit vector is even.
theorem test_ill_scalar_number : ¬ (Instr.addL64 (plain 1 0 32 0 0 0)).wellFormed := refused (by decide +kernel) rfl
theorem test_ill_predicate_number : ¬ (Instr.bpAny (plain 0x10 8 0 8 0 1)).wellFormed := refused (by decide +kernel) rfl
theorem test_ill_unused_register : ¬ (Instr.clz (plain 1 0x17 6 10 1 0)).wellFormed := refused (by decide +kernel) rfl
theorem test_ill_odd_pair : ¬ (Instr.vid (fL 0x33 6 false 0 7 0 0 (false, false, false) .i64 0 0)).wellFormed :=
  refused (by decide +kernel) rfl
theorem test_ill_indirect_number : ¬ (Instr.vid (fL 0x33 6 false 0 40 0 0 (false, true, false) .i32 0 0)).wellFormed :=
  refused (by decide +kernel) rfl
-- The guard (R40): !p0 is reserved, and an instruction without guard has 0.
theorem test_ill_guard_not_p0 : ¬ (Instr.vid (fL 0x33 6 false 8 6 0 0 (false, false, false) .i32 0 0)).wellFormed :=
  refused (by decide +kernel) rfl
theorem test_ill_guard_unused : ¬ (Instr.addL64 { plain 1 0 6 10 14 0 with g := 1 }).wellFormed :=
  refused (by decide +kernel) rfl
-- TYPE, RM, U, XA, XD, CV (R41, R43 to R46, R53).
theorem test_ill_type : ¬ (Instr.vid (fL 0x33 6 false 0 6 0 0 (false, false, false) .f32 0 0)).wellFormed :=
  refused (by decide +kernel) rfl
theorem test_ill_type_unused : ¬ (Instr.addL64 { plain 1 0 6 10 14 0 with ty := .i32 }).wellFormed :=
  refused (by decide +kernel) rfl
theorem test_ill_rm_reserved : ¬ (Instr.vfadd (fL 0x40 0 false 0 6 10 14 (false, false, false) .f32 6 0)).wellFormed :=
  refused (by decide +kernel) rfl
theorem test_ill_rm_ignored : ¬ (Instr.vfmin (fL 0x43 0 false 0 6 10 14 (false, false, false) .f32 1 0)).wellFormed :=
  refused (by decide +kernel) rfl
theorem test_ill_unordered : ¬ (Instr.vld (fL 0x58 0 false 0 6 10 0 (false, false, true) .i32 0 0)).wellFormed :=
  refused (by decide +kernel) rfl
theorem test_ill_xa : ¬ (Instr.vld (fL 0x58 0 false 0 6 10 0 (true, false, false) .i32 0 0)).wellFormed :=
  refused (by decide +kernel) rfl
theorem test_ill_xd : ¬ (Instr.vcmp (fL 0x2C 0 false 0 3 10 14 (false, true, false) .i32 0 0)).wellFormed :=
  refused (by decide +kernel) rfl
theorem test_ill_cv : ¬ (Instr.addL64 { plain 1 0 6 10 14 0 with cv := true }).wellFormed := refused (by decide +kernel) rfl
-- Immediates and AUX10 (R48, R202).
theorem test_ill_imm_unused : ¬ (Instr.addL64 (plain 1 0 6 10 14 1)).wellFormed := refused (by decide +kernel) rfl
theorem test_ill_imm_bits : ¬ (Instr.setvl (plain 0x13 0 6 10 0 4)).wellFormed := refused (by decide +kernel) rfl
theorem test_ill_cross : ¬ (Instr.vadd (fL 0x28 0 false 0 6 10 14 (false, false, false) .i32 0 5)).wellFormed :=
  refused (by decide +kernel) rfl
theorem test_ill_aux : ¬ (Instr.addi (fX 2 0 false 0 6 10 0 (false, false, false) .i8 0 1 1)).wellFormed :=
  refused (by decide +kernel) rfl
theorem test_ill_bit_field : ¬ (Instr.ext (plain 4 0 6 10 0 0xFC1)).wellFormed := refused (by decide +kernel) rfl
-- The form, the opcode, the function, the name (R49, R50), and fields that a form does not carry.
theorem test_ill_form : ¬ (Instr.addL64 { plain 1 0 6 10 14 0 with form := .x96 }).wellFormed :=
  refused (by decide +kernel) rfl
theorem test_ill_opcode : ¬ (Instr.addL64 (plain 0x7F 0 6 10 14 0)).wellFormed := refused (by decide +kernel) rfl
theorem test_ill_function : ¬ (Instr.addL64 (plain 1 0x1B 6 10 14 0)).wellFormed := refused (by decide +kernel) rfl
theorem test_ill_wide_immediate : ¬ (Instr.addi (plain 2 0 6 10 0 4096)).wellFormed := refused (by decide +kernel) rfl
theorem test_ill_short_fields : ¬ (Instr.add { fS 1 0 false 6 10 14 with g := 1 }).wellFormed :=
  refused (by decide +kernel) rfl
theorem test_ill_other_name : ¬ (Instr.sub (fS 1 0 false 6 10 14)).wellFormed := by
  rintro ⟨-, r, hr, h⟩
  have hm : (match classifyRow 2 (fS 1 0 false 6 10 14) with
    | .ok r => r.mn == .add
    | .error _ => false) = true := by decide +kernel
  rw [hr] at hm
  rw [show r.mn = .add by simpa using hm] at h
  cases h
-- Levels (R55): E2M1 and SF4 need feature level 2; a word is refused to a strand of level 1.
theorem test_level_of_vqnt : (match classifyRow 1 (fL 0x45 0x1C false 0 6 10 14 (false, false, false) .f32 0 0) with
  | .error c => c == .illLevel
  | .ok _ => false) = true := by decide +kernel
theorem test_reserved_opcode : (match classifyRow 2 (plain 0x05 0 0 0 0 0) with
  | .error c => c == .illRsv
  | .ok _ => false) = true := by decide +kernel
-- Events name objects that exist.
theorem test_ill_port : ¬ (Instr.replayTimeout 16).wellFormed := by simp [Instr.wellFormed]
theorem test_ill_stack : ¬ (Instr.heldActivateRelease 16).wellFormed := by simp [Instr.wellFormed]
theorem test_ill_refresh_hint : ¬ (Instr.stackRefresh 0 0 0).wellFormed := by simp [Instr.wellFormed]
theorem test_ill_core : ¬ (Instr.governorClamp 152).wellFormed := by simp [Instr.wellFormed]
theorem test_ill_unit : ¬ (Instr.snapMonitor 64).wellFormed := by simp [Instr.wellFormed]
theorem test_ill_queue : ¬ (Instr.launchGraph 64).wellFormed := by simp [Instr.wellFormed]
theorem test_ill_function_number : ¬ (Instr.queueSet 64).wellFormed := by simp [Instr.wellFormed]
theorem test_ill_page_offset : ¬ (Instr.registerWrite 0 4 0).wellFormed := by simp [Instr.wellFormed]
theorem test_ill_flit : ¬ (Instr.dataFlit 0 []).wellFormed := by simp [Instr.wellFormed]
theorem test_ill_aperture : ¬ (Instr.bar2Access 0 (2 ^ 36) none 8).wellFormed := by simp [Instr.wellFormed]
theorem test_ill_kill_reason : ¬ (Instr.contextKill 0 9).wellFormed := by simp [Instr.wellFormed]

/-! ### A small state for the hypotheses -/

/-- The TLB entry that maps the first 2^30 bytes one to one, for every access. -/
def identity : TlbEntry := ⟨0, 0, 0, 0, 30, 0, 0x8000, true, true, true, true, true, true⟩

/-- Scalars: s1 0x2000, s2 3, s4 0x3000, s5 0x101, s6 5, s7 8, s8 0x1000, s9 all ones, s12 2, s14 9, s31 0x8000; the others 0. -/
def demoScalars : Store 64 :=
  [(1, 0x2000), (2, 3), (4, 0x3000), (5, 0x101), (6, 5), (7, 8), (8, 0x1000), (9, 0xFFFFFFFFFFFFFFFF), (12, 2), (14, 9), (31, 0x8000)]

/-- v1, v2: elements 5, 6, 7, 0 and 2, 0, 1, 3 of 32 bits; the others 0. p1: elements 0 and 2. -/
def demoVectors : Store 8 :=
  [(16384, 5), (16388, 6), (16392, 7), (32768, 2), (32776, 1), (32780, 3)]

/-- A strand that runs, with vl 4 at ew 2 and gvl 64, a slice of 16 KiB and a window of two slots. -/
def demoStrand : Strand :=
  { Strand.reset with uid := 1, status := .running, pc := 0x1000, kern := ⟨64, 1, 2, 16, 0⟩, group := 1,
                      csr := { Csrs.reset with vl := 4, gvl := 64 },
                      regs := { Regs.reset with s := demoScalars, v := demoVectors, p := [(1, 5)] } }

def demoDevice : Device :=
  { Device.reset with tlb := [identity], scratch := [⟨1, 0, 0, 2, [], [], [], [], true, 0⟩], nextUid := 2 }

def demo : State := { State.reset with cur := demoStrand, dev := demoDevice }

/-- The demonstration state with another current strand. -/
def demoWith (f : Strand → Strand) : State := { demo with cur := f demo.cur }

/-- Its nest of one level, three times over two instructions, is active. -/
def nested : State := demoWith fun c => { c with nest := ⟨true, 0x1008, 0x1010, 2, 1, [3], 0⟩ }

/-- A kept translation of function 0 answers the access: Translates, by computation. -/
def reaches (s : State) (acc : Acc) (va : Word) (pa : Nat) : Bool :=
  s.cur.vf == 0 && decide (va.toNat < 2 ^ 48) && !(decide (0x7F0000000000 ≤ va.toNat) && decide (va.toNat < 0x7F1000000000)) &&
  s.dev.backed pa && (match s.dev.tlbHit s.cur.ctx va.toNat with
    | some e => grants acc s.cur.ctx.super e.r e.w e.x e.u && e.d && e.phys + va.toNat % 2 ^ e.shift == pa
    | none => false)

theorem translates_of_reaches {s : State} {acc : Acc} {va : Word} {pa : Nat} (h : reaches s acc va pa = true) :
    Translates s acc va pa := by
  simp only [reaches, Bool.and_eq_true, beq_iff_eq, decide_eq_true_eq, Bool.not_eq_true', Bool.and_eq_false_iff,
    decide_eq_false_iff_not] at h
  obtain ⟨⟨⟨⟨h0, h1⟩, h2⟩, h3⟩, h4⟩ := h
  refine ⟨.inl h0, h1, by omega, ?_⟩
  split at h4
  · rename_i e he
    simp only [Bool.and_eq_true, beq_iff_eq] at h4
    refine ⟨e, he, h4.1.1, fun _ => h4.1.2, fun _ _ => ?_, h3⟩
    rw [h4.2, h0]
    rfl
  · simp at h4

/-- Loads and stores of n bytes at addresses that map one to one. -/
theorem loadable_at {s : State} {va : Word} {n : Nat} (h : (va.toNat % n == 0 && reaches s .load va va.toNat &&
    !(s.poisonSeen va.toNat)) = true) : Loadable s va n va.toNat := by
  simp only [Bool.and_eq_true, beq_iff_eq, Bool.not_eq_true'] at h
  exact ⟨h.1.1, translates_of_reaches h.1.2, h.2⟩

theorem storable_at {s : State} {va : Word} {n : Nat} (h : (va.toNat % n == 0 && reaches s .store va va.toNat) = true) :
    Storable s va n va.toNat := by
  simp only [Bool.and_eq_true, beq_iff_eq] at h
  exact ⟨h.1, translates_of_reaches h.2⟩

/-- The state in which a vector instruction is dispatched, by computation: steps 10 and 11 pass, and the registers and
states that it names are its own. -/
def dispatched (o : Operands) (sh : Shape) (more : Strand → Names → Bool) (s : State) : Option State :=
  if dispatchOk o sh more s.cur (s.cur.names o) &&
      (if o.cv then Convoy.closed else s.cur.convoy).fits sh.cls (sh.cross && isCross o) (sh.dst (s.cur.names o)) then
    match touch (sh.named o (s.cur.names o)) (s.onCur fun c => { c with convoy := convoyAfter o sh c }) with
    | .ok _ v => match ownStates sh.mat sh.sm v with
      | .ok _ u => some u
      | .error _ _ => none
    | .error _ _ => none
  else none

theorem dispatches_of {o : Operands} {sh : Shape} {more : Strand → Names → Bool} {s : State} {p : State → Bool}
    (h : (dispatched o sh more s).any p = true) : ∃ u, Dispatches o sh more s u ∧ p u = true := by
  obtain ⟨u, hu, hp⟩ : ∃ u, dispatched o sh more s = some u ∧ p u = true := by
    cases hd : dispatched o sh more s with
    | none => rw [hd] at h; cases h
    | some u => exact ⟨u, rfl, by rw [hd] at h; exact h⟩
  refine ⟨u, ?_, hp⟩
  unfold dispatched at hu
  by_cases hc : (dispatchOk o sh more s.cur (s.cur.names o) &&
      (if o.cv then Convoy.closed else s.cur.convoy).fits sh.cls (sh.cross && isCross o) (sh.dst (s.cur.names o))) = true
  · rw [if_pos hc] at hu
    simp only [Bool.and_eq_true] at hc
    split at hu
    · rename_i v hv
      split at hu
      · rename_i w hw
        cases hu
        exact ⟨hc.1, hc.2, v, hv, hw⟩
      · cases hu
    · cases hu
  · rw [if_neg hc] at hu
    cases hu

/-- A state in which a vector instruction is ready, with a further condition on the state it is dispatched to. -/
def Readies (o : Operands) (sh : Shape) (more : Strand → Names → Bool) (s : State) (p : State → Bool := fun _ => true) :
    Prop := ∃ u, VecReady o sh more s u ∧ p u = true

theorem ready_of {o : Operands} {sh : Shape} {more : Strand → Names → Bool} {s : State} {p : State → Bool}
    (h : (s.cur.preempt == none && s.cur.binds == [] && (dispatched o sh more s).any p) = true) : Readies o sh more s p := by
  simp only [Bool.and_eq_true, beq_iff_eq] at h
  obtain ⟨u, hu, hp⟩ := dispatches_of h.2
  exact ⟨u, ⟨h.1.1, h.1.2, hu⟩, hp⟩

/-- Operands by form: L64 with d, a, b; and with a TYPE. -/
def op3 (d a b : Nat) : Operands := plain 0 0 d a b 0
def opT (ty : Ty) (d a b : Nat) : Operands := { op3 d a b with ty := ty }
/-- With an immediate, with FN. -/
def opI (d a imm : Nat) : Operands := plain 0 0 d a 0 imm

/-! ### A guest: a strand of function 1, its pages one to one in both stages -/

/-- Stage 2 of function 1: its root at 0x100000 points to 0x101000, of which entry 0 maps the first 2^30 bytes, if at all. -/
def guestOf (leaf : Byte) : State :=
  { demo with
    cur := { demo.cur with vf := 1 }
    dev := { demo.dev with
      tlb := [{ identity with vf := 1 }], s2roots := [(1, 0x100)]
      mem := [⟨0x100000, 1⟩, ⟨0x100001, 0x10⟩, ⟨0x100002, 0x10⟩] ++ (if leaf = 0 then [] else [⟨0x101000, leaf⟩]) } }
def guest : State := guestOf 0x6F
/-- The guest's access, by computation. -/
def guestReaches (s : State) (acc : Acc) (va : Word) (pa : Nat) : Bool :=
  s.cur.buf == [] && decide (va.toNat < 2 ^ 48) && !(decide (0x7F0000000000 ≤ va.toNat) && decide (va.toNat < 0x7F1000000000)) &&
  s.dev.backed pa && (match s.dev.tlbHit s.cur.ctx va.toNat with
    | some e => grants acc s.cur.ctx.super e.r e.w e.x e.u && e.d && [false, true].all fun dirty =>
        match guestPhys s.cur.vf ⟨acc.tf, acc.kind, va⟩ (e.phys + va.toNat % 2 ^ e.shift) (acc == .load || acc == .atomic)
          (acc == .store || acc == .atomic) (acc == .fetch) dirty s.dev with
        | .ok x d => x == pa && decide (d = s.dev)
        | .error _ _ => false
    | none => false)
theorem translates_of_guest {s : State} {acc : Acc} {va : Word} {pa : Nat} (h : guestReaches s acc va pa = true) :
    Translates s acc va pa := by
  simp only [guestReaches, Bool.and_eq_true, beq_iff_eq, decide_eq_true_eq, Bool.not_eq_true', Bool.and_eq_false_iff,
    decide_eq_false_iff_not] at h
  obtain ⟨⟨⟨⟨h0, h1⟩, h2⟩, h3⟩, h4⟩ := h
  refine ⟨.inr h0, h1, by omega, ?_⟩
  split at h4
  · rename_i e he
    simp only [Bool.and_eq_true, List.all_eq_true] at h4
    refine ⟨e, he, h4.1.1, fun _ => h4.1.2, fun dirty _ => ?_, h3⟩
    have h := h4.2 dirty (by cases dirty <;> decide)
    split at h
    · rename_i x d hx
      simp only [Bool.and_eq_true, beq_iff_eq, decide_eq_true_eq] at h
      rw [hx, h.1, h.2]
    · cases h
  · cases h4

/-! ### Hypotheses met: scalar instructions, control -/

/-- ScalarDivision, each clause: by s2 = 3; by s3 = 0 with DZS 0, with DZS 1; and the immediate forms by 7 and by 0. -/
def dzs : State := demoWith fun c => { c with csr := { c.csr with icsr := 2 } }
theorem meets_ScalarDivision :
    demo.cur.s (op3 6 1 2).b.toNat ≠ 0 ∧ (demo.cur.s (op3 6 1 3).b.toNat = 0 ∧ demo.cur.csr.icsr.getLsbD 1 = false) ∧
    (dzs.cur.s (op3 6 1 3).b.toNat = 0 ∧ dzs.cur.csr.icsr.getLsbD 1 = true) ∧
    (opI 6 1 7).simm ≠ 0 ∧ (opI 6 1 0).simm = 0 := by decide +kernel

/-- ScalarFrame: ADDI answers a next state, with DZS 0. -/
theorem meets_ScalarFrame : (∃ c ∈ scalarCtors, ∃ o t, exec (c o) demo = .next t) ∧
    demo.cur.csr.icsr.getLsbD 1 = false :=
  ⟨⟨.addi, by simp [scalarCtors, aluImmTable], opI 6 1 7, _, rfl⟩, rfl⟩

/-- BranchesGoWhereStated: no nest is active; BEQ of s1 with itself is taken, with s2 not. -/
theorem meets_BranchesGoWhereStated : demo.cur.nestHere = false ∧
    (match branchTable with
      | e :: _ => e.2.2 (op3 0 1 1) demo.cur && !(e.2.2 (op3 0 1 2) demo.cur)
      | [] => false) = true := by decide +kernel

/-- JumpsAndCalls: JR to s8 and to s5; CALL, CALLR with s31 and, below, with s31 = 0x8008. -/
def oddStack : State := demoWith fun c => c.setS 31 0x8008
theorem meets_JumpsAndCalls : demo.cur.nestHere = false ∧
    (demo.cur.s 8).toNat % 4 = 0 ∧ (demo.cur.s 5).toNat % 4 ≠ 0 ∧
    (oddStack.cur.nestHere = false ∧ (oddStack.cur.s 31).toNat % 16 ≠ 0) ∧
    (demo.cur.s 31).toNat % 16 = 0 ∧ Translates demo .store (demo.cur.s 31 - 16) 0x7FF0 ∧
    Translates demo .store (demo.cur.s 31 - 8) 0x7FF8 ∧ (offsetTarget (opI 0 8 16) demo.cur).toNat % 4 = 0 :=
  ⟨rfl, by decide +kernel, by decide +kernel, ⟨rfl, by decide +kernel⟩, by decide +kernel,
   translates_of_reaches (by decide +kernel), translates_of_reaches (by decide +kernel), by decide +kernel⟩

/-- The same of a guest, whose first store performs before the second is translated. -/
def pushedOne : State := guest.onDev fun d => d.writeBytes 0x7FF0 (bytesLE 8 (after (opI 0 8 16) guest.cur).toNat)
theorem meets_JumpsAndCalls_guest : guest.cur.vf ≠ 0 ∧ guest.cur.nestHere = false ∧ (guest.cur.s 31).toNat % 16 = 0 ∧
    Translates guest .store (guest.cur.s 31 - 16) 0x7FF0 ∧ Translates guest .store (guest.cur.s 31 - 8) 0x7FF8 ∧
    Translates pushedOne .store (guest.cur.s 31 - 8) 0x7FF8 ∧ (guest.cur.s 8).toNat % 4 = 0 ∧
    (offsetTarget (opI 0 8 16) guest.cur).toNat % 4 = 0 :=
  ⟨by decide, rfl, by decide +kernel, translates_of_guest (by decide +kernel), translates_of_guest (by decide +kernel),
    translates_of_guest (by decide +kernel), by decide +kernel, by decide +kernel⟩

/-- ReturnPopsTheFrame: the frame at s31 holds zeros. -/
theorem meets_ReturnPopsTheFrame : demo.cur.nestHere = false ∧ (demo.cur.s 31).toNat % 16 = 0 ∧
    Loadable demo (demo.cur.s 31) 8 0x8000 ∧ Loadable demo (demo.cur.s 31 + 8) 8 0x8008 ∧
    (BitVec.ofNat 64 (natLE (demo.see 0x8000 8)) : Word).toNat % 4 = 0 :=
  ⟨rfl, by decide +kernel, loadable_at (by decide +kernel), loadable_at (by decide +kernel), by decide +kernel⟩

/-- NestStarts: a body of two parcels of zeros, of which LEN makes two instructions of one parcel. The counts lie in v2, or
in the register that s2 selects; a stream is bound to v2, or none. -/
def filed (regs : List Nat) (s : State) : Option State :=
  match touch regs s with
  | .ok _ u => some u
  | .error _ _ => none
theorem inFile_of {regs : List Nat} {s : State} {p : State → Bool} (h : (filed regs s).any p = true) :
    ∃ u, InFile regs s u ∧ p u = true := by
  unfold filed at h
  split at h
  · exact ⟨_, ‹_›, h⟩
  · cases h
def zeroParcel (u : State) (a : Word) : Bool := reaches u .fetch a a.toNat && !(u.dev.poisoned a.toNat) && u.dev.readLE a.toNat 4 == 0
theorem parcel_of {u : State} {a : Word} (h : zeroParcel u a = true) : ParcelAt u a 0 := by
  simp only [zeroParcel, Bool.and_eq_true, beq_iff_eq, Bool.not_eq_true'] at h
  exact ⟨a.toNat, translates_of_reaches h.1.1, h.1.2, h.2.symm⟩
def nestBinding : Binding := ⟨2, 0x2000, 0, 0, 0, 1, 0, 1, 0, 0, none⟩
theorem meets_NestStarts : nested.cur.nest.active = true ∧ demo.cur.nest.active = false ∧ demo.cur.binds = [] ∧
    (∃ b ∈ (demoWith fun c => { c with binds := [nestBinding] }).cur.binds, b.reg = 2) ∧
    ∀ v ∈ [2, (demo.cur.s 2).toNat % 64], ∃ u, InFile [v] demo u ∧ BodyEnds u ((opI 0 2 8).im 3 5 + 1) (demo.cur.pc + 8) 0x1010 := by
  refine ⟨rfl, rfl, rfl, ⟨nestBinding, List.mem_cons_self, rfl⟩, fun v hv => ?_⟩
  obtain ⟨u, hu, hp⟩ := inFile_of (regs := [v]) (s := demo) (p := fun u => zeroParcel u 0x1008 && zeroParcel u 0x100C)
    (by revert v; decide +kernel)
  rw [Bool.and_eq_true] at hp
  refine ⟨u, hu, 0, parcel_of hp.1, 0, parcel_of hp.2, ?_⟩
  show (_ : Word) = _
  decide +kernel

/-- NestExits, NestForbids: a nest is active at the strand's level, and none is. For ERET: at level 1. -/
def nested1 : State := { nested with cur := { nested.cur with
  nest := { nested.cur.nest with level := 1 }, sup := { nested.cur.sup with tlevel := 1 } } }
theorem meets_NestExits : nested.cur.nestHere = true ∧ demo.cur.nestHere = false := by decide +kernel
theorem meets_NestForbids : nested.cur.nestHere = true ∧ nested1.cur.nestHere = true ∧ nested1.cur.sup.tlevel ≠ 0 := by
  decide +kernel

/-- LoopBackCounts: at the end of the body with an index of 0 of 3, and with an index of 2 of 3. -/
def bodyEnd (k : BitVec 32) : State :=
  { nested with cur := { nested.cur with pc := 0x1010, csr := { nested.cur.csr with li := [(0, k)] } } }
theorem meets_LoopBackCounts : (∀ k, (bodyEnd k).cur.nestHere = true ∧ (bodyEnd k).cur.pc = (bodyEnd k).cur.nest.stop) ∧
    (∀ c ∈ (bodyEnd 1).cur.nest.counts, c < 2 ^ 32) ∧
    (∃ h : 0 < (bodyEnd 1).cur.nest.counts.length, lix (bodyEnd 1).cur 0 + 1 < (bodyEnd 1).cur.nest.counts[0]) ∧
    (∀ (k : Nat) (hk : k < (bodyEnd 2).cur.nest.counts.length), (bodyEnd 2).cur.nest.counts[k] ≤ lix (bodyEnd 2).cur k + 1) := by
  refine ⟨fun k => ⟨rfl, rfl⟩, by decide +kernel, ⟨by decide +kernel, by decide +kernel⟩, by decide +kernel⟩

/-! Control registers. -/

/-- CsrReads: vl (0x000) at level 0, tvec (0x801) at level 1. -/
def atLevel (n : BitVec 2) : State := demoWith fun c => { c with sup := { c.sup with tlevel := n } }
theorem meets_CsrReads : (∃ e ∈ userCsrs ++ superCsrs, (opI 6 0 0x000).im 0 12 = e.1 ∧ e.1 < 0x800) ∧
    (atLevel 1).cur.sup.tlevel ≠ 0 ∧ ∃ e ∈ userCsrs ++ superCsrs, (opI 6 0 0x801).im 0 12 = e.1 := by decide +kernel

theorem meets_CsrWrites : (∃ e ∈ csrWrites, (opI 0 1 0x000).im 0 12 = e.2.1 ∧ e.2.1 < 0x800) ∧
    (atLevel 1).cur.sup.tlevel ≠ 0 ∧ ∃ e ∈ csrWrites, (opI 0 1 0x801).im 0 12 = e.2.1 := by decide +kernel

/-- CsrRefusals, each clause at the numbers where it begins and ends. -/
theorem meets_CsrRefusals : 0xC00 ≤ (opI 0 1 0xC00).im 0 12 ∧ 0xC00 ≤ (opI 0 1 0xFFF).im 0 12 ∧
    (∀ n ∈ [0x800, 0xBFF], 0x800 ≤ (opI 0 1 n).im 0 12 ∧ (opI 0 1 n).im 0 12 < 0xC00) ∧ demo.cur.sup.tlevel = 0 ∧
    (∀ n ∈ [0x804, 0x844, 0xBFF], (opI 0 1 n).im 0 12 ∉ superNums) ∧ (atLevel 1).cur.sup.tlevel ≠ 0 ∧
    (∀ n ∈ [0x00D, 0x018, 0x3FF, 0x416, 0x7FF], (opI 0 1 n).im 0 12 < 0x800 ∧ (opI 0 1 n).im 0 12 ∉ userCsrs.map (·.1)) ∧
    (∀ n ∈ [0x400, 0x7FF], 0x400 ≤ (opI 0 1 n).im 0 12 ∧ (opI 0 1 n).im 0 12 < 0x800) ∧
    (∀ n ∈ [0x00D, 0x018, 0x3FF], (opI 0 1 n).im 0 12 < 0x400) := by decide +kernel

/-- QuotaView: agent 2 of function 0 is named by qdom, and none is. -/
def quota (n : BitVec 8) : State :=
  { demo with cur := { demo.cur with sup := { demo.cur.sup with tlevel := 1, qdom := n } },
              dev := { demo.dev with agents := [(2, ⟨0, 0x9000⟩)] } }
theorem meets_QuotaView : (quota 2).cur.sup.tlevel ≠ 0 ∧ (opI 6 1 0x841).im 0 12 = 0x841 ∧
    (quota 2).drain.dev.agentOf 2 0 = some ⟨0, 0x9000⟩ ∧ (quota 3).drain.dev.agentOf 3 0 = none ∧
    (quiet .empty (quota 2)).dev.agentOf 2 0 = some ⟨0, 0x9000⟩ ∧ (quiet .empty (quota 3)).dev.agentOf 3 0 = none := by
  decide +kernel

/-! Farms and barriers: the record at 0x2000, where TOTAL is 100 and BARGOAL 2 or 1. -/

def farming (goal : Byte) : State :=
  { demo with cur := { demo.cur with farm := 0x2000 }, dev := { demo.dev with mem := [(0x2008, 100), (0x2014, goal)] } }
theorem meets_FarmAndStrip : demo.cur.nestHere = false ∧ (demo.cur.s 1).toNat % 64 = 0 ∧ (demo.cur.s 5).toNat % 64 ≠ 0 ∧
    demo.cur.farm = 0 ∧ FarmAt (farming 2) 0x2000 :=
  ⟨rfl, by decide +kernel, by decide +kernel, rfl, by decide +kernel, translates_of_reaches (by decide +kernel),
   by decide +kernel⟩

/-- Barriers: the arrival is the last, or not; the other strand of the group has arrived at CBAR, has ended, or runs. -/
def beside (st : Status) : State := { demo with others := [{ demoStrand with uid := 2, slot := 1, status := st }] }
theorem meets_Barriers : FarmAt (farming 1) 0x2000 ∧ FarmAt (farming 2) 0x2000 ∧
    (quiet .empty (farming 1)).dev.readLE 0x2014 4 ≤ (quiet .empty (farming 1)).dev.readLE 0x2018 4 + 1 ∧
    (quiet .empty (farming 2)).dev.readLE 0x2018 4 + 1 < (quiet .empty (farming 2)).dev.readLE 0x2014 4 ∧
    demo.cur.status = .running ∧ (beside (.waiting .cbar 0)).cur.status = .running ∧
    (∀ t ∈ (beside (.waiting .cbar 0)).others, t.status.isCbar = true) ∧ (∀ t ∈ (beside .exited).others, t.live = false) ∧
    (∃ t ∈ (beside .running).others, t.live = true ∧ t.group = (beside .running).cur.group ∧ t.status.isCbar = false) ∧
    ∀ t ∈ (beside .exited).others, (beside .exited).dev.issues t = false :=
  ⟨⟨by decide +kernel, translates_of_reaches (by decide +kernel), by decide +kernel⟩,
   ⟨by decide +kernel, translates_of_reaches (by decide +kernel), by decide +kernel⟩,
   by decide +kernel, by decide +kernel, rfl, rfl, by decide +kernel, by decide +kernel,
   ⟨_, List.mem_cons_self, by decide +kernel⟩, by decide +kernel⟩

theorem meets_ExitEndsTheStrand : demo.cur.nestHere = false ∧ (atLevel 1).cur.nestHere = false ∧
    (atLevel 1).cur.sup.tlevel ≠ 0 ∧ demo.cur.sup.tlevel = 0 ∧ demo.cur.farm = 0 := by decide +kernel

/-! Traps. -/

/-- Queue 0 is debugged. -/
def debugged : State := demo.onDev fun d => d.updQueue 0 fun q => { q with debug := true }
theorem meets_TrapAndBreak : (∀ n ∈ [(0 : BitVec 2), 1], (atLevel n).cur.sup.tlevel.toNat < 2 ∧
      NotAtBodyEnd (op3 0 0 0) (atLevel n).cur) ∧ (demo.dev.queue demo.cur.queue).debug = false ∧
    (debugged.dev.queue debugged.cur.queue).debug = true ∧ debugged.cur.sup.tlevel.toNat < 2 ∧
    NotAtBodyEnd (op3 0 0 0) debugged.cur := by
  refine ⟨?_, by decide +kernel, by decide +kernel, by decide +kernel, rfl⟩
  intro n hn
  simp only [List.mem_cons, List.not_mem_nil, or_false] at hn
  rcases hn with rfl | rfl <;> exact ⟨by decide, rfl⟩

theorem meets_TrapEntry : demo.cur.sup.tlevel.toNat < 2 ∧ (atLevel 1).cur.sup.tlevel.toNat < 2 ∧
    (atLevel 2).cur.sup.tlevel.toNat = 2 ∧ (atLevel 2).cur.live = true := by decide +kernel

/-- ReturnFromTrap: at level 0; in a nest of level 1; at level 1 with an aligned and with a misaligned saved address. -/
def handler (epc : Word) : State :=
  demoWith fun c => { c with sup := { c.sup with tlevel := 1, bank1 := { c.sup.bank1 with epc := epc } } }
def nestedAt1 : State := demoWith fun c =>
  { c with nest := ⟨true, 0x1008, 0x1010, 2, 1, [3], 1⟩, sup := { c.sup with tlevel := 1 } }
theorem meets_ReturnFromTrap : demo.cur.sup.tlevel = 0 ∧ (nestedAt1.cur.sup.tlevel ≠ 0 ∧ nestedAt1.cur.nestHere = true) ∧ (handler 0x1002).cur.sup.tlevel ≠ 0 ∧
    (∀ a, (handler a).cur.nestHere = false) ∧ (handler 0x1002).cur.sup.bank1.epc.toNat % 4 ≠ 0 ∧
    (handler 0x1004).cur.sup.bank1.epc.toNat % 4 = 0 := by
  refine ⟨by decide, ⟨by decide, by decide⟩, by decide, fun _ => rfl, by decide, by decide⟩

/-- WaitKillInvalidate: a time that has come, a request, neither; level 0 and 1; the scopes of TLBINV. -/
theorem meets_WaitKillInvalidate :
    (demo.cur.s 3 ≠ 0 ∧ (demo.cur.s 3).toNat ≤ demo.dev.gtime.toNat ∨ (demoWith fun c => { c with preempt := some 0 }).cur.preempt = some 0) ∧
    (let s := demo.onDev fun d => { d with gtime := 0x2000 }
     s.cur.s 1 ≠ 0 ∧ (s.cur.s 1).toNat ≤ s.dev.gtime.toNat) ∧
    ¬ ((demo.cur.s 1 ≠ 0 ∧ (demo.cur.s 1).toNat ≤ demo.dev.gtime.toNat) ∨ demo.cur.preempt = some 0) ∧
    demo.cur.sup.tlevel = 0 ∧ (atLevel 1).cur.sup.tlevel ≠ 0 ∧ (atLevel 1).cur.live = true ∧
    (opI 0 1 3).im 0 2 = 3 ∧ (opI 0 1 0x12).im 0 2 ≠ 3 := by decide +kernel
/-- A command of the function has started: TLBINV waits for it. -/
def oneStarted (st : CmdState) : State := demo.onDev fun d => { d with cmds := [{ demoStrand.command 7 0 0 1 with state := st }] }
def mustWait (s : State) : Bool := s.dev.cmds.any fun c => c.vf == s.cur.vf && c.state == .started &&
  ((opI 0 1 0x12).im 4 2 != 1 || (c.port != 2 && c.core == s.cur.core))
theorem meets_TlbinvWaits : mustWait (oneStarted .started) = true ∧ mustWait (oneStarted .pushed) = false := by decide +kernel

/-! Scalar memory. -/

/-- ScalarLoads, ScalarStores: eight bytes at s1 + 8, at s1 + s3, at s1. -/
def ld8 : Operands := { opI 6 1 8 with ty := .n64 }
def ldIx : Operands := opT .i32 6 1 3
theorem meets_ScalarLoads : Loadable demo (atOffset ld8 demo.cur) ld8.ty.bytes 0x2008 ∧
    Loadable demo (atIndex ldIx demo.cur) ldIx.ty.bytes 0x2000 ∧ Loadable demo.drain (atBase ldIx demo.cur) ldIx.ty.bytes 0x2000 :=
  ⟨loadable_at (by decide +kernel), loadable_at (by decide +kernel), loadable_at (by decide +kernel)⟩
theorem meets_ScalarStores : Storable demo (atOffset ld8 demo.cur) ld8.ty.bytes 0x2008 ∧
    Storable demo (atIndex ldIx demo.cur) ldIx.ty.bytes 0x2000 ∧ Storable demo.drain (atBase ldIx demo.cur) ldIx.ty.bytes 0x2000 :=
  ⟨storable_at (by decide +kernel), storable_at (by decide +kernel), storable_at (by decide +kernel)⟩

/-- ScalarAtomics: AMO.ADD and AMO.CAS of 64 bits at s1. -/
def amoOp (fn : Nat) : Operands := { plain 0x22 fn 6 1 2 0 with ty := .n64 }
theorem meets_ScalarAtomics : ∀ fn ∈ [0, 9], (amoOp fn).ty ∈ amoTypes ((amoOp fn).fnBits 0 4) ∧
    (demo.cur.s 1).toNat % (amoOp fn).ty.bytes = 0 ∧
    Translates (quiet (demo.cur.unionOf (amoSources (amoOp fn))) demo) .atomic (demo.cur.s 1) 0x2000 ∧
    (quiet (demo.cur.unionOf (amoSources (amoOp fn))) demo).dev.poisoned 0x2000 = false := by
  intro fn hf
  simp only [List.mem_cons, List.not_mem_nil, or_false] at hf
  rcases hf with rfl | rfl <;>
    exact ⟨by decide +kernel, by decide +kernel, translates_of_reaches (by decide +kernel), by decide +kernel⟩

/-- MisalignedAccesses: eight bytes at s5 + 8, at s5 + s3, at s5. -/
theorem meets_MisalignedAccesses : (∀ e ∈ loadTable ++ storeTable,
      (e.2.1 { opT .n64 6 5 3 with imm := 8 } demo.cur).toNat % 8 ≠ 0) ∧
    (atBase (opT .n64 6 5 3) demo.cur).toNat % (opT .n64 6 5 3).ty.bytes ≠ 0 := by decide +kernel

/-- OwnStoresAreSeen, StoresPerformInOrder, MemoryWords: no page is under move. -/
theorem meets_MemoryWords : demo.dev.migs = [] := rfl

/-! ### Hypotheses met: vector instructions -/

/-- v6 ← v1, v2 of 32-bit integers; of F32. -/
def vInt : Operands := opT .i32 6 1 2
def vF32 : Operands := opT .f32 6 1 2
def withFcsr (x : Word) : State := demoWith fun c => { c with csr := { c.csr with fcsr := x } }

theorem meets_VectorIntegerElements : (vInt.imPos + vInt.imLen ≤ vInt.ty.bits) ∧
    ∀ e ∈ intElems, Readies vInt (e.2.1.sh vInt) (e.2.1.more vInt) demo := by
  refine ⟨by decide, fun e he => ready_of ?_⟩
  revert e
  decide +kernel
theorem meets_VectorSaturation : vInt.ty ∈ Ty.ints ∧ ∀ e ∈ satElems, Readies vInt (e.2.1.sh vInt) (e.2.1.more vInt) demo := by
  refine ⟨by decide, fun e he => ready_of ?_⟩
  revert e
  decide +kernel
theorem meets_VectorDivision : demo.cur.csr.icsr.getLsbD 1 = false ∧
    ∀ e ∈ divElems, Readies vInt (e.2.1.sh vInt) (e.2.1.more vInt) demo := by
  refine ⟨rfl, fun e he => ready_of ?_⟩
  revert e
  decide +kernel
theorem meets_VectorCompare : Readies vInt (opVcmp.sh vInt) (opVcmp.more vInt) demo := ready_of (by decide +kernel)
theorem meets_VectorIntegerFrame : Fits vInt demo.cur ∧
    ∀ e ∈ intElems, Readies vInt (e.2.1.sh vInt) (e.2.1.more vInt) demo ∧ ∃ t, exec (.vadd vInt) demo = .next t :=
  ⟨⟨by decide, by decide⟩, fun e he => ⟨meets_VectorIntegerElements.2 e he, _, rfl⟩⟩

/-- DivisionShortens: the divisors are 2, 0, 1, 3; from vstart 0 element 1 stops, from vstart 1 it is the leading one. -/
def dzsFrom (k : BitVec 32) : State := demoWith fun c => { c with csr := { c.csr with icsr := 2, vstart := k } }
/-- The conditions on the state and on the state it is dispatched to. -/
def shortens (k : BitVec 32) (u : State) : Bool :=
  let c := (dzsFrom k).cur
  let b := elVB vInt (c.names vInt) u.cur u.cur
  c.csr.icsr.getLsbD 1 && decide (c.gvl ≤ 4096) && decide (c.vl ≤ vlmaxOf c.gvl 2) && decide (k.toNat ≤ 1) && decide (1 < c.vl) &&
    c.allows vInt 1 && b 1 == 0 && b 0 != 0
theorem meets_DivisionShortens : ∀ e ∈ divElems,
    Readies vInt (e.2.1.sh vInt) (e.2.1.more vInt) (dzsFrom 0) (shortens 0) ∧
    Readies vInt (e.2.1.sh vInt) (e.2.1.more vInt) (dzsFrom 1) (shortens 1) := by
  refine fun e he => ⟨ready_of ?_, ready_of ?_⟩ <;> revert e <;> decide +kernel

theorem demo_noStops : NoStops demo.cur := by
  unfold NoStops
  decide
theorem meets_VectorFloatElements : NoStops demo.cur ∧
    ∀ e ∈ floatElems, Readies vF32 (e.2.1.sh vF32) (e.2.1.more vF32) demo := by
  refine ⟨demo_noStops, fun e he => ready_of ?_⟩
  revert e
  decide +kernel
theorem meets_VectorFloatCompares : ∀ e ∈ [opVfmin, opVfmax, opVfclass, opVfcmp],
    Readies vF32 (e.sh vF32) (e.more vF32) demo := by
  refine fun e he => ready_of ?_
  revert e
  decide +kernel
/-- VCVT of F32 to I16. -/
def cvtOp : Operands := { vF32 with fn := 0x01, b := 0 }
theorem meets_VectorConversion : NoStops demo.cur ∧ Readies cvtOp (opVcvt.sh cvtOp) (opVcvt.more cvtOp) demo :=
  ⟨demo_noStops, ready_of (by decide +kernel)⟩

/-- FloatStopAtLeadingElement, each cause: 0 / 0, 5 / 0, the greatest number squared, and a tiny number squared, with the
stop of its own flag alone enabled. -/
def stopOps (i j : Nat) : Operands := opT .f32 6 i j
def stopState (x : Word) : State := { withFcsr x with cur := { (withFcsr x).cur with
  regs := { (withFcsr x).cur.regs with v := [(16384, 5), (65536, 0xFF), (65537, 0xFF), (65538, 0x7F), (65539, 0x7F)] } } }
def stopsWith (o : Operands) (f : FloatVal) (x : Word) (c : Cause) (u : State) : Bool :=
  let s := stopState x
  let g := (floatResult o f (s.cur.names o) u.cur u.cur 0).2
  decide (s.cur.csr.vstart.toNat < s.cur.vl) && s.cur.allows o 0 && match c with
  | .fpInv => g.nv && x.getLsbD 16
  | .fpDz => !(g.nv && x.getLsbD 16) && g.dz && x.getLsbD 17
  | .fpOvf => !(g.nv && x.getLsbD 16) && !(g.dz && x.getLsbD 17) && g.of && x.getLsbD 18
  | .fpUnf => !(g.nv && x.getLsbD 16) && !(g.dz && x.getLsbD 17) && !(g.of && x.getLsbD 18) && g.uf && x.getLsbD 19
  | _ => !(g.nv && x.getLsbD 16) && !(g.dz && x.getLsbD 17) && !(g.of && x.getLsbD 18) && !(g.uf && x.getLsbD 19) &&
      g.nx && x.getLsbD 20
theorem meets_FloatStopAtLeadingElement :
    (∀ e ∈ [(3, (0x10000 : Word), Cause.fpInv), (1, 0x20000, .fpDz)],
      Readies (stopOps e.1 3) (opVfdiv.sh (stopOps e.1 3)) (opVfdiv.more (stopOps e.1 3)) (stopState e.2.1)
        (stopsWith (stopOps e.1 3) (fun _ a b _ => a.div b) e.2.1 e.2.2)) ∧
    ∀ e ∈ [(4, (0x40000 : Word), Cause.fpOvf), (1, 0x80000, .fpUnf), (1, 0x100000, .fpInx)],
      Readies (stopOps e.1 e.1) (opVfmul.sh (stopOps e.1 e.1)) (opVfmul.more (stopOps e.1 e.1)) (stopState e.2.1)
        (stopsWith (stopOps e.1 e.1) (fun _ a b _ => ((a.mul b).1, (a.mul b).2, false)) e.2.1 e.2.2) := by
  refine ⟨fun e he => ready_of ?_, fun e he => ready_of ?_⟩ <;> revert e <;> decide +kernel

/-- Numbers that decode and that round: a NaN, an infinity, -1.5, and a number with a tail. -/
theorem meets_FloatDecoding : ∀ f ∈ floatFields, (0 : Nat) < 2 ^ (1 + f.2.1 + f.2.2.1) := fun _ _ => by positivity
theorem meets_FloatRounding (w : Nat) : Means w (.nan true) (.nan true) ∧ Means w (.inf true) (.inf true) ∧
    Means w (.fin true 3 (-1) false) (.real true (3 * 2 ^ (-1 : Int))) := by
  simp [Means]
theorem meets_FloatRounding_tail (w m : Nat) (h : 2 ^ (w + 18) ≤ m) :
    Means w (.fin false m 0 true) (.real false ((m : ℝ) + 1 / 2)) := by
  refine ⟨rfl, ?_⟩
  rw [if_pos rfl]
  refine ⟨h, ?_, ?_⟩ <;> norm_num

/-! Permutations and predicates. -/

theorem meets_Permutations : (∀ e ∈ permElems, Readies vInt (e.2.1 vInt) (e.2.2.1 vInt) demo) ∧
    ∀ e ∈ insElems, Readies vInt (e.2.1 vInt) (fun _ _ => true) demo := by
  refine ⟨fun e he => ready_of ?_, fun e he => ready_of ?_⟩ <;> revert e <;> decide +kernel
theorem meets_CompressPacks : Readies (opT .i32 6 1 1) (permShape (opT .i32 6 1 1) .p) (fun _ _ => true) demo :=
  ready_of (by decide +kernel)
theorem meets_ElementExtract : ∀ k ∈ [RegK.s, .z], Readies vInt
    { cls := .arith, d := .s, dTy := .i8, a := .v, b := k, usesMif := false } (fun _ _ => true) demo := by
  refine fun k hk => ready_of ?_
  revert k
  decide +kernel
def pOp : Operands := op3 3 1 2
theorem meets_PredicateInstructions : (∀ e ∈ predLogic, Readies pOp (predShape .p .p e.2.1 true) (fun _ _ => true) demo) ∧
    (∀ e ∈ [predShape .p .z .z false, predShape .p .p .z true, predShape .s .p .z true],
      Readies pOp e (fun _ _ => true) demo) ∧
    ∀ e ∈ [predShape .s .p .z false, predShape .p .s .z false], Readies pOp e (wordOk pOp) demo := by
  refine ⟨fun e he => ready_of ?_, fun e he => ready_of ?_, fun e he => ready_of ?_⟩ <;> revert e <;> decide +kernel

/-! Quantisation, reductions. -/

/-- F32 with E4M3: to it, and from it. -/
def toE4m3 : Operands := { vF32 with fn := 0x1C }
def fromE4m3 : Operands := { opT .e4m3 6 1 2 with fn := 0x29 }
def atEw0 : State := demoWith fun c => { c with csr := { c.csr with ew := 0 } }
/-- The same with SF4 and the band scale of s3. -/
def toSf4 : Operands := { vF32 with form := .x96, fn := 0x1F, aux := 3 }
def fromSf4 : Operands := { opT .sf4 6 1 0 with form := .x96, fn := 0x29, aux := 3 }
theorem meets_QuantScales : ∀ o ∈ [{ toE4m3 with b := 0 }, { toSf4 with b := 0 }],
    o.dty ∈ [Ty.sf4, .e4m3, .e5m2, .e2m1] ∧ demo.cur.csr.qpct.toNat ≤ 65536 ∧
    Readies o (qscaleShape o) (fun _ n => n.d != n.a) demo := by
  refine fun o ho => ⟨?_, by decide, ready_of ?_⟩ <;> revert o <;> decide +kernel
theorem meets_QuantiseAndDequantise : NoStops demo.cur ∧
    (∀ o ∈ [toE4m3, toSf4], o.dty ∈ [Ty.sf4, .e4m3, .e5m2, .e2m1] ∧ demo.cur.mode o ≤ 5 ∧ Readies o (vqntShape o)
      (fun t n => (n.d != n.a && n.d != n.b) && t.csr.vstart.toNat % perBlock o.dty == 0) demo) ∧
    NoStops atEw0.cur ∧ ∀ o ∈ [fromE4m3, fromSf4], Readies o (vdqntShape o) (fun t n => (n.d != n.a &&
      (o.ty == .sf4 || n.d != n.b) && decide (t.vl ≤ t.vlmax o.dty.width)) && t.csr.vstart.toNat % perBlock o.ty == 0)
      atEw0 := by
  refine ⟨demo_noStops, fun o ho => ⟨?_, ?_, ready_of ?_⟩, demo_noStops, fun o ho => ready_of ?_⟩ <;> revert o <;>
    decide +kernel

theorem meets_IntegerReductions : Readies vInt (redShape false) (fun _ _ => true) demo ∧
    Readies vInt (scanShape vInt false) (fun _ _ => true) demo :=
  ⟨ready_of (by decide +kernel), ready_of (by decide +kernel)⟩
theorem meets_FloatReductions : NoStops demo.cur ∧ (∀ b, Readies vF32 (redShape b) (fun _ _ => true) demo) ∧
    Readies vF32 (scanShape vF32 true) (fun _ _ => true) demo :=
  ⟨demo_noStops, fun b => ready_of (by revert b; decide +kernel), ready_of (by decide +kernel)⟩

/-! ### Hypotheses met: vector memory, scratchpad, matrices -/

/-- A state in which a vector instruction is ready, with what a computed condition says of the state that it is dispatched
to. -/
theorem ready_with {o : Operands} {sh : Shape} {more : Strand → Names → Bool} {s : State} {p : State → Bool}
    {P : State → Prop} (h : Readies o sh more s p) (hp : ∀ u, p u = true → P u) : ∃ u, VecReady o sh more s u ∧ P u :=
  h.imp fun u hu => ⟨hu.1, hp u hu.2⟩

/-- vl is 4 and vstart 0 in the states below, so what holds of elements 0 to 3 holds of every element written. -/
def four (u : State) (f : Nat → Bool) : Bool := u.cur.vl == 4 && decide (u.cur.gvl ≤ 4096) && (List.range 4).all f
theorem of_four {P : Nat → Prop} {o : Operands} {u : State} {f : Nat → Bool} (h : four u f = true)
    (hp : ∀ i, f i = true → P i) : u.cur.gvl ≤ 4096 ∧ u.cur.vl ≤ 4 ∧ ∀ i, Written o u.cur i → P i := by
  simp only [four, Bool.and_eq_true, beq_iff_eq, decide_eq_true_eq, List.all_eq_true, List.mem_range] at h
  exact ⟨h.1.2, h.1.1.le, fun i hi => hp i (h.2 i (h.1.1 ▸ hi.2.1))⟩

def loadsAt (s : State) (n : Nat) (va : Word) : Bool :=
  va.toNat % n == 0 && reaches s .load va va.toNat && !(s.poisonSeen va.toNat)
def storesAt (s : State) (n : Nat) (va : Word) : Bool := va.toNat % n == 0 && reaches s .store va va.toNat
theorem load_store {s : State} {n : Nat} {va : Word} (h : (loadsAt s n va && storesAt s n va) = true) :
    Loadable s va n va.toNat ∧ Storable s va n va.toNat := by
  rw [Bool.and_eq_true] at h
  exact ⟨loadable_at h.1, storable_at h.2⟩

/-- Bytes at s1 + i, s1 + 3 i and s1 + (v2)_i, at ew 0. -/
def vByte : Operands := opT .n8 6 1 2
def target (f : ElemAddr) (u : State) (i : Nat) : Word := (f vByte (atEw0.cur.names vByte) u.cur i).getD 0
def addrOk (f : ElemAddr) (u : State) (i : Nat) : Bool :=
  f vByte (atEw0.cur.names vByte) u.cur i == some (target f u i) && (loadsAt u 1 (target f u i) && storesAt u 1 (target f u i))
theorem addr_of {f : ElemAddr} {u : State} {i : Nat} (h : addrOk f u i = true) :
    f vByte (atEw0.cur.names vByte) u.cur i = some (target f u i) ∧
    Loadable u (target f u i) vByte.ty.bytes (target f u i).toNat ∧ Storable u (target f u i) vByte.ty.bytes (target f u i).toNat := by
  rw [addrOk, Bool.and_eq_true, beq_iff_eq] at h
  exact ⟨h.1, load_store h.2⟩

theorem meets_VectorLoads : ∀ e ∈ vecLoads, ∃ u, VecReady vByte (memShape vByte e.2.1 false) (fun _ _ => true) atEw0 u ∧
    u.cur.gvl ≤ 4096 ∧ u.cur.vl ≤ 4 ∧ ∀ i, Written vByte u.cur i →
      e.2.2 vByte (atEw0.cur.names vByte) u.cur i = some (target e.2.2 u i) ∧
      Loadable u (target e.2.2 u i) vByte.ty.bytes (target e.2.2 u i).toNat := by
  refine fun e he => ready_with (p := fun u => four u (addrOk e.2.2 u)) (ready_of ?_) fun u hu =>
    of_four hu fun i hi => ⟨(addr_of hi).1, (addr_of hi).2.1⟩
  revert e
  decide +kernel

theorem meets_VectorStores : ∀ e ∈ vecStores, ∃ u, VecReady vByte (memShape vByte e.2.1 true) (fun _ _ => true) atEw0 u ∧
    (u.dev.migs = [] ∧ OneStore u (performed vByte u.cur)) ∧ u.cur.gvl ≤ 4096 ∧ u.cur.vl ≤ 4 ∧ ∀ i, Written vByte u.cur i →
      e.2.2 vByte (atEw0.cur.names vByte) u.cur i = some (target e.2.2 u i) ∧
      Storable u (target e.2.2 u i) vByte.ty.bytes (target e.2.2 u i).toNat := by
  refine fun e he => ready_with (p := fun u => (u.dev.migs == [] && u.cur.vf == 0) && four u (addrOk e.2.2 u))
    (ready_of ?_) fun u hu => ?_
  · revert e
    decide +kernel
  · rw [Bool.and_eq_true, Bool.and_eq_true, beq_iff_eq, beq_iff_eq] at hu
    exact ⟨⟨hu.1.1, .inl hu.1.2⟩, of_four hu.2 fun i hi => ⟨(addr_of hi).1, (addr_of hi).2.2⟩⟩

/-- A tile of two rows, 16 bytes apart. -/
def tiled : State := demoWith fun c => { c with csr := { c.csr with rows := 2, pitch := 16 } }
def eight (u : State) (f : Nat → Bool) : Bool :=
  u.cur.csr.rows.toNat * u.cur.vl == 8 && decide (u.cur.gvl ≤ 4096) && (u.dev.migs == [] && u.cur.vf == 0) &&
    (List.range 8).all f
theorem of_eight {P : Nat → Prop} {o : Operands} {u : State} {f : Nat → Bool} (h : eight u f = true)
    (hp : ∀ e, f e = true → P e) : u.cur.gvl ≤ 4096 ∧ u.dev.migs = [] ∧ u.cur.vf = 0 ∧ ∀ e, TileWritten o u.cur e → P e := by
  simp only [eight, Bool.and_eq_true, beq_iff_eq, decide_eq_true_eq, List.all_eq_true, List.mem_range] at h
  exact ⟨h.1.1.2, h.1.2.1, h.1.2.2, fun e he => hp e (h.2 e (h.1.1.1 ▸ he.2.1))⟩
def tileAt (u : State) (e : Nat) : Word := (tileTarget vInt (tiled.cur.names vInt) u.cur e).getD 0
theorem meets_TileMoves : ∀ st : Bool, ∃ u, VecReady vInt (memShape vInt .z st)
      (fun c _ => decide (c.csr.rows.toNat * c.vl ≤ c.vlmax c.ew)) tiled u ∧
    u.cur.gvl ≤ 4096 ∧ u.dev.migs = [] ∧ u.cur.vf = 0 ∧ ∀ e, TileWritten vInt u.cur e →
      ∀ va, tileTarget vInt (tiled.cur.names vInt) u.cur e = some va →
        Loadable u va 4 va.toNat ∧ Storable u va 4 va.toNat := by
  refine fun st => ready_with
    (p := fun u => eight u fun e => loadsAt u 4 (tileAt u e) && storesAt u 4 (tileAt u e))
    (ready_of (by revert st; decide +kernel)) fun u hu => of_eight hu fun e he va h => ?_
  cases h
  exact load_store he

/-- CompressedLoad: nine bytes of zeros are one block of 64 zeros. -/
def vldcOp : Operands := opT .n8 6 1 14
def byteOk (a : Word) (u : State) (k : Nat) : Bool :=
  (a + BitVec.ofNat 64 k).toNat == 0x2000 + k && (loadsAt u 1 (a + BitVec.ofNat 64 k))
theorem byte_of {a : Word} {u : State} {k : Nat} (h : byteOk a u k = true) :
    Loadable u (a + BitVec.ofNat 64 k) 1 (0x2000 + k) := by
  rw [byteOk, Bool.and_eq_true, beq_iff_eq] at h
  exact h.1 ▸ loadable_at h.2
theorem meets_CompressedLoad : ∃ u, VecReady vldcOp { memShape vldcOp .s false with usesMif := false }
      (fun t _ => t.csr.vstart == 0) atEw0 u ∧ u.cur.gvl ≤ 4096 ∧ (u.cur.s 14).toNat = 9 ∧
    (∀ k < 9, Loadable u (u.cur.s 1 + BitVec.ofNat 64 k) 1 (0x2000 + k)) ∧
    zbpRun (4 * u.cur.gvl) 257 ((List.range 9).map fun k => (u.seeByte (0x2000 + k)).toNat) ([], 0) =
      some (List.replicate 64 0, 9) := by
  refine ready_with (p := fun u => decide (u.cur.gvl ≤ 4096) && ((u.cur.s 14).toNat == 9 &&
    ((List.range 9).all (byteOk (u.cur.s 1) u) && zbpRun (4 * u.cur.gvl) 257
      ((List.range 9).map fun k => (u.seeByte (0x2000 + k)).toNat) ([], 0) == some (List.replicate 64 0, 9))))
    (ready_of (by decide +kernel)) fun u hu => ?_
  simp only [Bool.and_eq_true, beq_iff_eq, decide_eq_true_eq, List.all_eq_true, List.mem_range] at hu
  exact ⟨hu.1, hu.2.1, fun k hk => byte_of (hu.2.2.1 k hk), hu.2.2.2⟩

/-- StreamBinding: a record at 0x2000 of one I8 element; and v6 bound to it. -/
def recorded : State := { demo with dev := { demo.dev with mem := [(0x2018, 1), (0x2028, 1)] } }
def bound6 : Binding := ⟨6, 0x2000, 0, 0, 0, 1, 0, 1, 0, 0, none⟩
def bound1 : State := { recorded with cur := { recorded.cur with binds := [bound6] } }
def bindOp : Operands := op3 6 1 0
def recordAt (u v : State) : Bool :=
  (u.cur.s 1).toNat % 64 == 0 && ((List.range 64).all (byteOk (u.cur.s 1) v) &&
    recordOk ((List.range 64).map fun k => v.seeByte (0x2000 + k)))
theorem record_of {u v : State} (h : recordAt u v = true) : (u.cur.s 1).toNat % 64 = 0 ∧
    (∀ k < 64, Loadable v (u.cur.s 1 + BitVec.ofNat 64 k) 1 (0x2000 + k)) ∧
    recordOk ((List.range 64).map fun k => v.seeByte (0x2000 + k)) = true := by
  simp only [recordAt, Bool.and_eq_true, beq_iff_eq, List.all_eq_true, List.mem_range] at h
  exact ⟨h.1, fun k hk => byte_of (h.2.1 k hk), h.2.2⟩
/-- v6 once its position has been stored. -/
def rebound (u : State) : State := u.onCur (withStore 0x2020 (bytesLE 8 bound6.pos.toNat) .empty)
theorem meets_StreamBinding_bind : ∃ u, Dispatches bindOp (bindShape .s) (fun _ _ => true) recorded u ∧
    (u.cur.binds.length < 8 ∧ u.cur.bindOf 6 = none) ∧ (u.cur.s 1).toNat % 64 = 0 ∧
    (∀ k < 64, Loadable u (u.cur.s 1 + BitVec.ofNat 64 k) 1 (0x2000 + k)) ∧
    recordOk ((List.range 64).map fun k => u.seeByte (0x2000 + k)) = true := by
  obtain ⟨u, hu, hp⟩ := dispatches_of (o := bindOp) (sh := bindShape .s) (more := fun _ _ => true) (s := recorded)
    (p := fun u => (decide (u.cur.binds.length < 8) && (u.cur.bindOf 6).isNone) && recordAt u u) (by decide +kernel)
  simp only [Bool.and_eq_true, decide_eq_true_eq, Option.isNone_iff_eq_none] at hp
  exact ⟨u, hu, hp.1, record_of hp.2⟩
theorem meets_StreamBinding_again : ∃ u, Dispatches bindOp (bindShape .s) (fun _ _ => true) bound1 u ∧ u.cur.vf = 0 ∧
    u.cur.bindOf 6 = some bound6 ∧ Storable u (0x2000 + 0x20) 8 0x2020 ∧ (u.cur.s 1).toNat % 64 = 0 ∧
    (∀ k < 64, Loadable (rebound u) (u.cur.s 1 + BitVec.ofNat 64 k) 1 (0x2000 + k)) ∧
    recordOk ((List.range 64).map fun k => (rebound u).seeByte (0x2000 + k)) = true := by
  obtain ⟨u, hu, hp⟩ := dispatches_of (o := bindOp) (sh := bindShape .s) (more := fun _ _ => true) (s := bound1)
    (p := fun u => u.cur.vf == 0 && (u.cur.bindOf 6 == some bound6 && (storesAt u 8 (0x2000 + 0x20) && recordAt u (rebound u))))
    (by decide +kernel)
  simp only [Bool.and_eq_true, beq_iff_eq] at hp
  exact ⟨u, hu, hp.1, hp.2.1, storable_at hp.2.2.1, record_of hp.2.2.2⟩
theorem meets_StreamBinding_unbind : (∃ u, Dispatches bindOp (bindShape .z) (fun _ _ => true) recorded u ∧
      u.cur.bindOf 6 = none) ∧
    ∃ u, Dispatches bindOp (bindShape .z) (fun _ _ => true) bound1 u ∧ u.cur.bindOf 6 = some bound6 ∧
      Storable u (0x2000 + 0x20) 8 0x2020 := by
  constructor
  · obtain ⟨u, hu, hp⟩ := dispatches_of (o := bindOp) (sh := bindShape .z) (more := fun _ _ => true) (s := recorded)
      (p := fun u => (u.cur.bindOf 6).isNone) (by decide +kernel)
    exact ⟨u, hu, Option.isNone_iff_eq_none.mp hp⟩
  · obtain ⟨u, hu, hp⟩ := dispatches_of (o := bindOp) (sh := bindShape .z) (more := fun _ _ => true) (s := bound1)
      (p := fun u => u.cur.bindOf 6 == some bound6 && storesAt u 8 (0x2000 + 0x20)) (by decide +kernel)
    rw [Bool.and_eq_true, beq_iff_eq] at hp
    exact ⟨u, hu, hp.1, storable_at hp.2⟩

theorem meets_GatherWindows : Readies (opT .n32 0 1 2) { cls := .mem, d := .z, dTy := .i8, writes := false, a := .s, b := .v, usesMif := false }
      (fun t _ => decide (t.vl ≤ t.gvl)) demo (fun u => u.cur.binds == []) ∧
    Readies (op3 0 0 0) (bindShape .z) (fun _ _ => true) demo (fun u => u.cur.binds == []) :=
  ⟨ready_of (by decide +kernel), ready_of (by decide +kernel)⟩

/-- VectorAtomics: four VAMO.ADD of 32 bits at s1. -/
def vamoOp : Operands := opT .n32 6 1 3
def vamoAt (u : State) (i : Nat) : Word := u.cur.s 1 + BitVec.ofNat 64 (u.cur.elem 2 3 i)
theorem meets_VectorAtomics : vamoOp.ty ∈ amoTypes (vamoOp.fnBits 0 4) ∧ ∃ u,
    VecReady vamoOp { memShape vamoOp .v false with readsD := true, vmore := [] }
      (fun _ n => vamoOp.vamoDOk (BitVec.ofNat 6 n.d)) demo u ∧
    (u.cur.vf = 0 ∧ performed vamoOp u.cur ≠ []) ∧ u.cur.gvl ≤ 4096 ∧ u.cur.vl ≤ 4 ∧ ∀ i, Written vamoOp u.cur i →
      (vamoAt u i).toNat % 4 = 0 ∧ Translates u .atomic (vamoAt u i) 0x2000 ∧ u.drain.dev.poisoned 0x2000 = false := by
  refine ⟨by decide, ready_with (p := fun u => (u.cur.vf == 0 && performed vamoOp u.cur != []) && four u fun i =>
    ((vamoAt u i).toNat % 4 == 0 && (reaches u .atomic (vamoAt u i) 0x2000 && !(u.drain.dev.poisoned 0x2000))))
    (ready_of (by decide +kernel)) fun u hu => ?_⟩
  rw [Bool.and_eq_true, Bool.and_eq_true, beq_iff_eq, bne_iff_ne] at hu
  refine ⟨hu.1, of_four hu.2 fun i hi => ?_⟩
  simp only [Bool.and_eq_true, beq_iff_eq, Bool.not_eq_true'] at hi
  exact ⟨hi.1, translates_of_reaches hi.2.1, hi.2.2⟩

/-- SpillAndFill: v6 and v7 of 32-bit elements from s1 on; both are in the file. -/
def spillOp : Operands := { opI 6 1 1 with ty := .n32 }
def inFile67 : State := demo.onDev fun d => { d with resid := [⟨1, 6, 0, false⟩, ⟨1, 7, 0, false⟩] }
def spillAt (u : State) (m : Nat × Nat × Nat) : Word := spillTarget spillOp (inFile67.cur.names spillOp) u.cur m.1 m.2.2
def residesAt (l : List Nat) (s : State) : Bool :=
  l.all (fun r => s.dev.resid.any fun x => x.uid == s.cur.uid && x.reg == r) &&
    decide (((s.dev.resid.filter fun x => match s.find x.uid with
      | some c => c.core == s.cur.core
      | none => s.cur.core == 0).map fun x => match s.find x.uid with
      | some c => 4 * c.gvl
      | none => 0).sum ≤ 524288)
theorem resides_of {l : List Nat} {s : State} (h : residesAt l s = true) : Resides l s := by
  simp only [residesAt, Bool.and_eq_true, decide_eq_true_eq, List.all_eq_true, List.any_eq_true, beq_iff_eq] at h
  exact h
theorem meets_SpillAndFill : ∀ st : Bool, ∃ u, VecReady spillOp (spillShape spillOp (inFile67.cur.names spillOp) st)
      (spillOk spillOp) inFile67 u ∧ Fits spillOp u.cur ∧ u.dev.migs = [] ∧ u.cur.vf = 0 ∧ Resides [6, 7] u ∧
    ∀ m ∈ spillMoves spillOp (inFile67.cur.names spillOp) u.cur,
      Storable u (spillAt u m) 4 (spillAt u m).toNat ∧ Loadable u (spillAt u m) 4 (spillAt u m).toNat := by
  refine fun st => ready_with (p := fun u => decide (u.cur.gvl ≤ 4096) && (decide (u.cur.vl ≤ vlmaxOf u.cur.gvl 2) &&
      (u.dev.migs == [] && (u.cur.vf == 0 && (residesAt [6, 7] u &&
      (spillMoves spillOp (inFile67.cur.names spillOp) u.cur).all fun m =>
        loadsAt u 4 (spillAt u m) && storesAt u 4 (spillAt u m))))))
    (ready_of (by revert st; decide +kernel)) fun u hu => ?_
  simp only [Bool.and_eq_true (decide _), Bool.and_eq_true (_ == _), Bool.and_eq_true (residesAt _ _), beq_iff_eq,
    decide_eq_true_eq, List.all_eq_true] at hu
  exact ⟨⟨hu.1, hu.2.1⟩, hu.2.2.1, hu.2.2.2.1, resides_of hu.2.2.2.2.1, fun m hm => (load_store (hu.2.2.2.2.2 m hm)).symm⟩

/-! Scratchpad and slices. -/

/-- TagTable: slot 1 has the tag s1; without it; slot s1 lies outside the window, slot s3 = 0 inside. -/
def tagging : State := demo.onDev fun d => { d with scratch := [⟨1, 0, 0, 2, [], [(1, 0x2000)], [], [], true, 0⟩] }
theorem meets_TagTable : tagging.myTags.find? (fun e => e.2 == tagging.cur.s 1) = some (1, 0x2000) ∧
    (∀ e ∈ demo.myTags, e.2 ≠ demo.cur.s 1) ∧ demo.mySlots ≤ (demo.cur.s 1).toNat ∧
    demo.dev.window demo.cur.group = some ⟨1, 0, 0, 2, [], [], [], [], true, 0⟩ ∧ (demo.cur.s 3).toNat < 2 := by
  decide +kernel

/-- ScratchpadAndSlices: bytes from s7 on, and at s7 + (v2)_i. -/
def scrOp : Operands := opT .n8 6 7 2
def coreAt (u : State) (f : CoreAddr) (i : Nat) : Bool :=
  let a := f scrOp (atEw0.cur.names scrOp) u.cur i
  decide (a.toNat < u.dev.windowSize u.cur.group) && !(u.dev.scrBad u.cur.group a.toNat) &&
    decide (a.toNat < 1024 * u.cur.kern.slice) && !(u.cur.slicePoisoned (laneNum scrOp i) a.toNat)
theorem core_of {u : State} {f : CoreAddr} {i : Nat} (h : coreAt u f i = true) (ld : Bool) :
    WindowOk u ld BitVec.toNat (laneNum scrOp i) (f scrOp (atEw0.cur.names scrOp) u.cur i) 1 ∧
    SliceOk u ld BitVec.toNat (laneNum scrOp i) (f scrOp (atEw0.cur.names scrOp) u.cur i) 1 := by
  simp only [coreAt, Bool.and_eq_true, decide_eq_true_eq, Bool.not_eq_true'] at h
  exact ⟨⟨Nat.mod_one _, h.1.1.1, fun _ => h.1.1.2⟩, ⟨Nat.mod_one _, h.1.2, fun _ => h.2⟩⟩
theorem meets_ScratchpadAndSlices : ∀ b ∈ [RegK.z, .v], ∀ st : Bool, ∃ u,
    VecReady scrOp (memShape scrOp b st) (fun _ _ => true) atEw0 u ∧ u.cur.kern.slice ≤ 16 ∧
    u.cur.gvl ≤ 4096 ∧ u.cur.vl ≤ 4 ∧ ∀ i, Written scrOp u.cur i → ∀ f ∈ [unitOffset, laneAddr, indexOffset], ∀ ld,
      WindowOk u ld BitVec.toNat (laneNum scrOp i) (f scrOp (atEw0.cur.names scrOp) u.cur i) 1 ∧
      SliceOk u ld BitVec.toNat (laneNum scrOp i) (f scrOp (atEw0.cur.names scrOp) u.cur i) 1 := by
  refine fun b hb st => ready_with (p := fun u => decide (u.cur.kern.slice ≤ 16) &&
    four u fun i => [unitOffset, laneAddr, indexOffset].all fun f => coreAt u f i) (ready_of ?_) fun u hu => ?_
  · revert st b
    decide +kernel
  · rw [Bool.and_eq_true, decide_eq_true_eq] at hu
    exact ⟨hu.1, of_four hu.2 fun i hi f hf ld => core_of (List.all_eq_true.mp hi f hf) ld⟩

/-- ScratchpadTiles: two rows from s7 on, through the descriptor s12 = 2 (a pitch of 2 bytes). -/
def scrTileOp : Operands := opT .n8 6 7 12
def tiled0 : State := demoWith fun c => { c with csr := { c.csr with ew := 0, rows := 2 } }
def tilePlaced (u : State) (e : Nat) : Bool :=
  let a := tileOffset scrTileOp (tiled0.cur.names scrTileOp) u.cur e
  decide (a.toNat < u.dev.windowSize u.cur.group) && !(u.dev.scrBad u.cur.group (scrPlace (u.cur.s 12) (u.cur.s 7) a))
theorem meets_ScratchpadTiles : ∀ st : Bool, ∃ u, VecReady scrTileOp (memShape scrTileOp .s st)
      (fun c n => tileFits c n && descOk (c.s n.b)) tiled0 u ∧ u.cur.gvl ≤ 4096 ∧ u.dev.migs = [] ∧ u.cur.vf = 0 ∧
    ∀ e, TileWritten scrTileOp u.cur e → ∀ ld, WindowOk u ld (scrPlace (u.cur.s 12) (u.cur.s 7)) 0
      (tileOffset scrTileOp (tiled0.cur.names scrTileOp) u.cur e) 1 := by
  refine fun st => ready_with (p := fun u => eight u (tilePlaced u)) (ready_of (by revert st; decide +kernel))
    fun u hu => of_eight hu fun e he ld => ?_
  simp only [tilePlaced, Bool.and_eq_true, decide_eq_true_eq, Bool.not_eq_true'] at he
  exact ⟨Nat.mod_one _, he.1, fun _ => he.2⟩

/-- SmallMatrixMoves: 1 by 2 entries of F32 of four lanes, at offset s7 of their slices. -/
def smOp : Operands := { opT .f32 4 7 2 with fn := 0x01 }
/-- A square of 2 by 2, for the factorisations. -/
def smSquare : Operands := { smOp with fn := 0x09 }
def smFits : Strand → Names → Bool := fun t _ => decide (t.vl ≤ 64)
def smAt (u : State) (e : Nat × Nat) : Word := u.cur.s (demo.cur.names smOp).a +
  BitVec.ofNat 64 ((e.1 * (smOp.fnBits 0 3 + 1) + e.2) * smOp.ty.bytes)
def smInSlice (u : State) (i : Nat) : Bool := (corner (smOp.fnBits 3 3 + 1) (smOp.fnBits 0 3 + 1)).all fun e =>
  (smAt u e).toNat % smOp.ty.bytes == 0 && (decide ((smAt u e).toNat < 1024 * u.cur.kern.slice) &&
    !(u.cur.slicePoisoned (laneNum smOp i) (smAt u e).toNat))
theorem meets_SmallMatrixMoves : demo.cur.kern.slice ≤ 16 ∧
    ∀ e ∈ [opSmld, opSmst, opSmget, opSmput, opSmtrn], ∃ u, VecReady smOp (e.sh smOp) smFits demo u ∧
    u.cur.gvl ≤ 4096 ∧ u.cur.vl ≤ 4 ∧ ∀ i, Written smOp u.cur i →
      ∀ e ∈ corner (smOp.fnBits 3 3 + 1) (smOp.fnBits 0 3 + 1), ∀ ld,
        SliceOk u ld BitVec.toNat (laneNum smOp i) (smAt u e) smOp.ty.bytes := by
  refine ⟨by decide, fun e he => ready_with (p := fun u => four u (smInSlice u)) (ready_of ?_) fun u hu =>
    of_four hu fun i hi c hc ld => ?_⟩
  · revert e
    decide +kernel
  · have h := List.all_eq_true.mp hi c hc
    simp only [Bool.and_eq_true, decide_eq_true_eq, Bool.not_eq_true', beq_iff_eq] at h
    exact ⟨h.1, h.2.1, fun _ => h.2.2⟩

theorem meets_SmallMatrixArithmetic : NoStops demo.cur ∧
    (∀ e ∈ [opSmmul, opSmmac, opSmadd, opSmsub, opSmscal, opSmsolv],
      Readies smOp (e.sh smOp) smFits demo fun u => !(u.cur.csr.fcsr.getLsbD 21)) ∧
    ∀ e ∈ [opSmchol, opSmlu], Readies smSquare (e.sh smSquare) smFits demo fun u => !(u.cur.csr.fcsr.getLsbD 21) := by
  refine ⟨demo_noStops, fun e he => ready_of ?_, fun e he => ready_of ?_⟩ <;> revert e <;> decide +kernel
theorem meets_SmallMatrixArithmetic_sizes : ∀ o ∈ [smOp, smSquare], o.fnBits 3 3 + 1 ≤ 6 ∧ o.fnBits 0 3 + 1 ≤ 6 := by decide

/-- MatrixTiles: a tile of 48 by 64 has been granted; two elements from its element s2 = 3 on. -/
def granted48 : State := demoWith fun c => { c with csr := { c.csr with tm := 48, tn := 64, tk := 8 } }
def shapeShape (l : List RegId) : Shape :=
  { cls := .mat, ew := false, d := .s, dTy := .i8, a := .s, b := .s, usesVl := false, usesMif := false, more := l, mat := true }
def zeroShape : Shape := { tileShape granted48.cur 2 .i8 with ew := false, usesVl := false, usesMif := false }
def accOp : Operands := opT .f32 6 2 0
def loadAccShape : Shape := { cls := .mat, rm := true, d := .v, dTy := .f32, writes := false, a := .s, b := .z,
                              wrote := granted48.cur.tileIds 0, mat := true }
def storeAccShape : Shape := { cls := .mat, rm := true, dTy := .f32, a := .s, b := .z, more := [.mat], mat := true }
theorem meets_MatrixTiles : (∀ l ∈ [[], [RegId.s 7]], Readies (opT .bf16 6 1 4) (shapeShape l) (fun _ _ => true) demo) ∧
    Readies (op3 2 0 0) zeroShape (fun c _ => c.baseOk 2) granted48
      (fun u => u.cur.tileIds 2 == granted48.cur.tileIds 2) ∧
    NoStops granted48.cur ∧
    Readies accOp loadAccShape (accMoveOk accOp) granted48 (fun u => u.cur.tileIds 0 == granted48.cur.tileIds 0) ∧
    Readies accOp storeAccShape (accMoveOk accOp) granted48 := by
  refine ⟨fun l hl => ready_of ?_, ready_of (by decide +kernel), demo_noStops, ready_of (by decide +kernel),
    ready_of (by decide +kernel)⟩
  revert l
  decide +kernel

/-- MatrixProducts: BF16, A and B from vector registers; and I8 from the scratchpad would name descriptors. -/
def atEw1 : State := { granted48 with cur := { granted48.cur with csr := { granted48.cur.csr with ew := 1 } } }
def mmaOp : Operands := opT .bf16 2 1 4
theorem meets_MatrixProducts : NoStops atEw1.cur ∧ ∀ b, ∃ u,
    VecReady mmaOp (mmaShape mmaOp (mmaForm mmaOp b) atEw1.cur)
      (fun c _ => mmaOk mmaOp (mmaForm mmaOp b) mmaOp.d.toNat c) atEw1 u ∧
    ∀ t, StepReadable (mmaForm mmaOp b) (atEw1.cur.names mmaOp) u t := by
  refine ⟨demo_noStops, fun b => ready_with (p := fun _ => true) (ready_of (by revert b; decide +kernel)) fun u _ t => ?_⟩
  constructor <;> intro h <;> revert h <;> cases b <;> intro h <;> cases h

/-- Butterflies: two tokens of two elements, stride 1, with the entries at s7. -/
def strided1 : State := demoWith fun c => { c with csr := { c.csr with bs := [(0, 1)] } }
def bflyOp : Operands := { opT .f32 6 1 7 with imm := 1 }
theorem meets_Butterflies : NoStops strided1.cur ∧ ∀ st ∈ [bflyStrides bflyOp, bchainStrides bflyOp], ∃ u,
    VecReady bflyOp { cls := .mat, rm := true, dTy := .f32, a := .v, b := .s }
      (fun c _ => c.vl % 2 == 0 && c.csr.vstart.toNat % 2 == 0 && (st c).all (strideOk 2)) strided1 u ∧
    ∀ k < 4, WindowOk u true BitVec.toNat 0 (u.cur.s 7 + BitVec.ofNat 64 (k * 2)) 2 := by
  refine ⟨demo_noStops, fun st hs => ready_with (p := fun u => (List.range 4).all fun k =>
      let a := u.cur.s 7 + BitVec.ofNat 64 (k * 2)
      a.toNat % 2 == 0 && (decide (a.toNat < u.dev.windowSize u.cur.group) && !(u.dev.scrBad u.cur.group a.toNat)))
    (ready_of (by revert st; decide +kernel)) fun u hu k hk => ?_⟩
  have h := List.all_eq_true.mp hu k (List.mem_range.mpr hk)
  simp only [Bool.and_eq_true, decide_eq_true_eq, Bool.not_eq_true', beq_iff_eq] at h
  exact ⟨h.1, h.2.1, fun _ => h.2.2⟩

/-- Transposes: two rows of four bytes, in registers, and from offset 8 to offset 9 of the window with pitches of 2. -/
def mtOp : Operands := { opT .n8 14 7 12 with aux := 12 }
def mtFrom (u : State) (e : Nat) : Word := u.cur.s 7 + BitVec.ofNat 64 ((tileOrder 2 4 e).1 * 2 + (tileOrder 2 4 e).2)
def mtInto (u : State) (e : Nat) : Word := u.cur.s 14 + BitVec.ofNat 64 ((tileOrder 2 4 e).2 * 2 + (tileOrder 2 4 e).1)
theorem meets_Transposes : Readies (opT .n8 6 1 0) { cls := .mat, dTy := .n8, a := .v, usesMif := false }
      (fun c n => n.d != n.a && tileFits c n) tiled0 ∧ ∃ u,
    VecReady mtOp { cls := .mat, d := .s, dTy := .i8, writes := false, a := .s, b := .s, usesMif := false, more := [.s 12] }
      (fun c n => descOk (c.s n.b) && descOk (c.s 12)) tiled0 u ∧
    ∀ e < 8, WindowOk u true (scrPlace (u.cur.s 12) (u.cur.s 7)) 0 (mtFrom u e) 1 ∧
      WindowOk u false (scrPlace (u.cur.s 12) (u.cur.s 14)) 0 (mtInto u e) 1 := by
  refine ⟨ready_of (by decide +kernel), ready_with (p := fun u => (List.range 8).all fun e =>
      decide ((mtFrom u e).toNat < u.dev.windowSize u.cur.group) && (decide ((mtInto u e).toNat < u.dev.windowSize u.cur.group) &&
        !(u.dev.scrBad u.cur.group (scrPlace (u.cur.s 12) (u.cur.s 7) (mtFrom u e)))))
    (ready_of (by decide +kernel)) fun u hu e he => ?_⟩
  have h := List.all_eq_true.mp hu e (List.mem_range.mpr he)
  simp only [Bool.and_eq_true, decide_eq_true_eq, Bool.not_eq_true'] at h
  exact ⟨⟨Nat.mod_one _, h.1, fun _ => h.2.2⟩, ⟨Nat.mod_one _, h.2.1, fun h => by cases h⟩⟩

/-- A command from its words, by number; its state; the demonstration state with commands. -/
def wordsOf (l : List (Nat × Nat)) : BitVec 1024 := BitVec.ofNat 1024 ((l.map fun e => e.2 * 2 ^ (32 * e.1)).sum)
def demoCmd (port : Nat) (l : List (Nat × Nat)) (st : CmdState) : Cmd :=
  { demoStrand.command 7 port 0 (wordsOf l) with state := st }
def withCmds (l : List Cmd) : State := { demo with dev := { demo.dev with cmds := l } }
theorem demo_leaves (s : State) (h : s.others = []) (hc : s.cur.leaving = none ∧ s.cur.dying = none) : NoneLeaving s := by
  intro r hr
  simp only [State.strands, h, List.mem_cons, List.not_mem_nil, or_false] at hr
  exact hr ▸ hc
theorem demo_own (s : State) (h : s.others = []) : OwnNumber s := fun _ hr => absurd (h ▸ hr) List.not_mem_nil

/-- EngineInstructions: an engine with room and one with 32 commands; a record, none, one to come; a count to come to. -/
def fullPort : State := withCmds (List.replicate 32 (demoCmd 0 [(0, 1)] .pushed))
def popping : State := demoWith fun c => { c with recs := [(3, 1), (0, 5)], ev := [(0, ⟨2, false, 0, []⟩)] }
def toCome : State := withCmds [demoCmd 0 [(0, 0x101)] .pushed]
theorem meets_EngineInstructions_push : OwnNumber demo ∧ OwnNumber fullPort ∧ demo.cur.bindOf 1 = none ∧
    fullPort.cur.bindOf 1 = none ∧ bound1.cur.bindOf 6 ≠ none ∧
    (∃ u, InFile [1] demo u ∧ !(quiet (u.cur.taintOf (.v 1)) u).dev.engineFull 0 0) ∧
    ∃ u, InFile [1] fullPort u ∧ (quiet (u.cur.taintOf (.v 1)) u).dev.engineFull 0 0 :=
  ⟨demo_own _ rfl, demo_own _ rfl, rfl, rfl, by decide, inFile_of (by decide +kernel), inFile_of (by decide +kernel)⟩
theorem meets_EngineInstructions_pop : popping.cur.bindOf 6 = none ∧ (∀ s ∈ [popping, demo, toCome], ∃ u, InFile [6] s u ∧ true) ∧
    (∃ j e, popping.cur.recs.findIdx? (fun e => e.1 == 0) = some j ∧
      popping.cur.recs[j]? = some e ∧ ∀ c ∈ popping.dev.cmds, c.uid = 1 → c.port = 0 → c.completed = false) ∧
    demo.cur.recs.findIdx? (fun e => e.1 == 0) = none ∧
    (∀ c ∈ demo.dev.cmds, c.uid = 1 → c.port = 0 → c.flag 0 = true → c.node ≠ 0) ∧
    toCome.cur.recs.findIdx? (fun e => e.1 == 0) = none ∧
    (∃ c ∈ toCome.dev.cmds, c.uid = 1 ∧ c.port = 0 ∧ c.flag 0 = true ∧ c.node = 0) ∧
    (popping.cur.s 12).toNat ≤ (popping.cur.evCtr 0).val.toNat ∧
    (popping.cur.evCtr 0).val.toNat < (popping.cur.s 2).toNat := by
  refine ⟨by decide, fun s hs => inFile_of ?_, ⟨1, (0, 5), by decide, by decide, ?_⟩,
    by decide, ?_, by decide, ⟨demoCmd 0 [(0, 0x101)] .pushed, List.mem_cons_self, by decide +kernel⟩, by decide +kernel,
    by decide +kernel⟩
  · revert s
    decide +kernel
  all_goals intro c hc; cases hc

/-- A kept translation of function 0 answers the access, by computation. -/
def kept (d : Device) (c : Ctx) (acc : Acc) (va : Word) (pa : Nat) : Bool :=
  c.vf == 0 && decide (va.toNat < 2 ^ 48) && !(decide (0x7F0000000000 ≤ va.toNat) && decide (va.toNat < 0x7F1000000000)) &&
  d.backed pa && (match d.tlbHit c va.toNat with
    | some e => grants acc c.super e.r e.w e.x e.u && e.d && e.phys + va.toNat % 2 ^ e.shift == pa
    | none => false)

theorem translateOnce_of_kept {d : Device} {c : Ctx} {acc : Acc} {va : Word} {pa : Nat} (h : kept d c acc va pa = true)
    (b : Bool) : translateOnce c acc b va d = .ok pa d := by
  obtain ⟨core, vf, asid, root, sup⟩ := c
  simp only [kept, Bool.and_eq_true, beq_iff_eq, decide_eq_true_eq, Bool.not_eq_true', Bool.and_eq_false_iff,
    decide_eq_false_iff_not] at h
  obtain ⟨⟨⟨⟨h0, h1⟩, h2⟩, h3⟩, h4⟩ := h
  subst h0
  split at h4
  · rename_i e he
    simp only [Bool.and_eq_true, beq_iff_eq] at h4
    have hw : ¬ ((decide (0x7F0000000000 ≤ va.toNat) && decide (va.toNat < 0x7F1000000000)) = true) := by
      simp only [Bool.and_eq_true, decide_eq_true_eq]; omega
    have hf : finish ⟨core, 0, asid, root, sup⟩ acc b va pa d = .ok pa d := by
      show (if (Device.backed d pa || (Config.remoteHome pa).isSome) = true then EStateM.pure pa else
        DevM.stop (.cause acc.tp va) : DevM Nat) d = _
      rw [h3, Bool.true_or, if_pos rfl]; rfl
    unfold translateOnce
    rw [if_neg (show ¬ va.toNat ≥ 2 ^ 48 by omega), if_neg hw]
    have hl : ∀ k : TlbEntry → DevM Nat, (match Device.tlbHit d ⟨core, 0, asid, root, sup⟩ va.toNat with
      | some t => k t
      | none => walk ⟨core, 0, asid, root, sup⟩ acc b va) d = k e d := fun k => by rw [he]
    refine (hl _).trans ?_
    rw [h4.1.1, h4.1.2, h4.2, if_neg (by decide), if_neg (by simp)]
    cases b <;> exact hf
  · simp at h4

theorem translate_of_kept {d : Device} {c : Ctx} {acc : Acc} {va : Word} {pa : Nat} (h : kept d c acc va pa = true)
    (b : Bool) : translate c acc b va d = .ok pa d := by
  show EStateM.bind (translateOnce c acc false va)
    (fun p => if b = true then translateOnce c acc true va else EStateM.pure p) d = _
  rw [EStateM.bind, translateOnce_of_kept h]
  cases b
  · rfl
  · exact translateOnce_of_kept h true

/-- EngAccess in memory. -/
theorem access_of {c : Cmd} {d : Device} {sd : Side} {ld : Bool} {a : Word} {n pa : Nat}
    (h : (a.toNat % n == 0 && !sd.scr && !(d.poisoned pa) && !(d.remoteLost pa) && kept d c.ctx (if ld then .load else .store) a pa) = true) :
    EngAccess c d sd ld a n (.mem pa) := by
  simp only [Bool.and_eq_true, beq_iff_eq, Bool.not_eq_true'] at h
  exact ⟨h.1.1.1.1, h.1.1.1.2, fun _ => h.1.1.2, h.1.2, fun m w => translate_of_kept (d := { d with mem := m, scratch := w }) h.2 _⟩

theorem middle_of {α β γ : Type} {x : α × β × γ} {b : β} (h : x.2.1 = b) : ∃ a c, x = (a, b, c) := ⟨x.1, x.2.2, by rw [← h]⟩
/-- A loop that ends at a command at element q with an error. -/
theorem ends_of {α ζ γ : Type} {x : α × Option (Nat × ζ × EngErr) × γ} {q : Nat} {e : EngErr}
    (h : (x.2.1.map fun r => (r.1, r.2.2)) = some (q, e)) : ∃ a z c, x = (a, some (q, z, e), c) := by
  obtain ⟨a, _ | ⟨i, z, e'⟩, c⟩ := x
  · cases h
  · cases h
    exact ⟨a, z, c, rfl⟩

/-- CopyCommands: two elements of four bytes from 0x2000 to 0x4000; the same with the source misaligned, with a reserved
bit, timed for time 0, and an install of slot 1. -/
def copyWordsOf (a : Nat) : List (Nat × Nat) :=
  [(0, 1), (1, a), (3, 0x4000), (5, 2), (6, 2), (7, 1), (8, 1), (9, 1), (10, 1), (11, 1), (12, 4), (18, 4)]
def copying : State := withCmds [demoCmd 0 (copyWordsOf 0x2000) .pushed]
def installing : Cmd :=
  demoCmd 0 [(0, 3), (1, 0x2000), (3, 4096), (5, 0x202), (6, 2), (7, 1), (8, 1), (9, 1), (10, 1), (11, 1), (12, 4), (18, 4)] .started
theorem meets_CopyCommands : (NoneLeaving copying ∧ NoneLeaving demo) ∧
    (∃ c, copying.dev.cmd 7 = some c ∧ MayRun copying.dev c 1 ∧ c.copyOk = true ∧ c.conv = 0 ∧ c.total = 2 ∧
      (∃ ps d, engLoop c c.total 0 ⟨0, []⟩ [] copying.dev = (ps, none, d)) ∧
      ∀ q < 2, EngAccess c copying.dev c.source true (c.source.at_ (c.offset 12 0 q)) c.sz (.mem (0x2000 + 4 * q)) ∧
        EngAccess c copying.dev c.dest false (c.dest.at_ (c.offset 18 0 q)) c.sz (.mem (0x4000 + 4 * q))) ∧
    (demoCmd 0 (copyWordsOf 0x2001) .started).copyOk = true ∧
    (∃ ps z d, engLoop (demoCmd 0 (copyWordsOf 0x2001) .started) 2 0 ⟨0, []⟩ [] demo.dev =
      (ps, some (0, z, ⟨causeCode .align, 0x2001, none⟩), d)) ∧
    (demoCmd 0 [(0, 0x1001)] .started).copyOk = false ∧
    (withCmds [demoCmd 0 [(0, 0x201)] .pushed]).dev.canStart (demoCmd 0 [(0, 0x201)] .pushed) = true ∧
    MayRun demo.dev installing 3 ∧ installing.copyOk = true ∧ demo.dev.installCheck installing = none := by
  refine ⟨⟨demo_leaves _ rfl ⟨rfl, rfl⟩, demo_leaves _ rfl ⟨rfl, rfl⟩⟩, ⟨demoCmd 0 (copyWordsOf 0x2000) .pushed, ?_, ⟨?_, ?_, .inr ?_⟩, ?_, ?_, ?_, middle_of ?_, ?_⟩, ?_,
    ends_of ?_, ?_, ?_, ⟨?_, ?_, .inl rfl⟩, ?_, ?_⟩
  case refine_9 =>
    intro q hq
    obtain rfl | rfl : q = 0 ∨ q = 1 := by omega
    all_goals exact ⟨access_of (by decide +kernel), access_of (by decide +kernel)⟩
  all_goals decide +kernel

/-- CommandsComplete: a command that has ended. -/
def finished : State := withCmds [demoCmd 0 [(0, 0x501)] (.ended 0 2 0)]
theorem meets_CommandsComplete : ∃ c p, finished.dev.cmd 7 = some c ∧ c.state = .ended 0 2 0 ∧ c.node = 0 ∧
    c.flag 3 = false ∧ finished.find c.uid = some p ∧ NodeStays finished p ∧ NoneLeaving finished ∧ p.away = false :=
  ⟨demoCmd 0 [(0, 0x501)] (.ended 0 2 0), finished.cur, by decide +kernel, rfl, rfl, by decide +kernel, by decide +kernel,
    .inl (by decide +kernel), demo_leaves _ rfl ⟨rfl, rfl⟩, rfl⟩

/-- A device whose engines and walkers reach memory one to one, with bytes of memory. -/
def wired (m : List Host.Cell) : Device :=
  { demo.dev with tlb := [identity, { identity with core := 2048 }, { identity with core := 257 }], mem := m }

/-- Collectives: ALLRED of one F32 of group 4, of the devices 0 and 1; the group after it starts, after rank 1 is heard. -/
def collWords : List (Nat × Nat) := [(0, 0x12), (1, 0x2000), (3, 0x4000), (5, 9), (6, 1), (9, 0x8000)]
def collMem : List Host.Cell :=
  [⟨0x8000, 2⟩, ⟨0x8004, 4⟩, ⟨0x8008, 0x40⟩, ⟨0x8009, 0x80⟩, ⟨0x8010, 9⟩, ⟨0x8042, 1⟩]
def message (rank : Nat) : MemberMessage := ⟨4, rank, 0, 0x12, 1, 9, 0, 0, 0, 0, 0, [0, 0, 0x80, 0x3F]⟩
def collCmd (st : CmdState) : Cmd := { demoCmd 2 collWords st with gid := 4, limit := 9000, own := some (message 0) }
def collDevice (st : CmdState) (heard : List MemberMessage) (aborts : List MemberAbort) : Device :=
  { wired collMem with cmds := [collCmd st], groups := [⟨4, 1, [0, 1], heard, aborts, [message 0], [], []⟩], gtime := 9000 }
def collState (d : Device) : State := { demo with dev := d }
def pushedColl : Device := { collDevice .pushed [] [] with groups := [] }
def malformedColl : Cmd := demoCmd 2 [(0, 0x12), (5, 9), (9, 0x8000)] .pushed
def malformedDevice : Device := { wired collMem with cmds := [malformedColl] }
/-- A SEND to rank 1. -/
def pairCmd : Cmd := demoCmd 2 ((0, 0x14) :: (7, 1) :: collWords.tail) .pushed
def started_ (c : Cmd) (d : Device) : Option (Group × MemberMessage) :=
  match collStart c d with
  | .ok r _ => some r
  | .error _ _ => none
theorem starts_of {c : Cmd} {d : Device} {p : Group × MemberMessage → Bool} (h : (started_ c d).any p = true) :
    ∃ g m d', collStart c d = .ok (g, m) d' ∧ p (g, m) = true := by
  unfold started_ at h
  split at h
  · exact ⟨_, _, _, ‹_›, h⟩
  · cases h
theorem meets_Collectives_start : (∀ d ∈ [pushedColl, malformedDevice], NoneLeaving (collState d) ∧
      windowsInUse (collState d) = collState d) ∧
    pushedColl.cmd 7 = some (collCmd .pushed) ∧ (collCmd .pushed).kind = 0x12 ∧ (collCmd .pushed).port = 2 ∧
    pushedColl.canStart (collCmd .pushed) = true ∧
    (∃ g m d, collStart (collCmd .pushed) pushedColl = .ok (g, m) d ∧
      decide (∀ k ∈ g.members, k ∉ pushedColl.unreachable) = true) ∧
    (∃ g m d, collStart pairCmd { pushedColl with unreachable := [1] } = .ok (g, m) d ∧
      decide (g.members.getD pairCmd.peer 0 = 1) = true) ∧
    malformedDevice.canStart malformedColl = true ∧ malformedColl.collOk = false ∧
    ∃ x d, collStart malformedColl malformedDevice = .error x d ∧ x.page = none := by
  refine ⟨fun d hd => ⟨demo_leaves _ rfl ⟨rfl, rfl⟩, ?_⟩, by decide +kernel, by decide +kernel, rfl, by decide +kernel,
    starts_of (p := fun r => decide (∀ k ∈ r.1.members, k ∉ pushedColl.unreachable)) (by decide +kernel),
    starts_of (p := fun r => decide (r.1.members.getD pairCmd.peer 0 = 1)) (by decide +kernel),
    by decide +kernel, by decide +kernel, ?_⟩
  · revert d
    decide +kernel
  · have h : (match collStart malformedColl malformedDevice with
      | .ok _ _ => false | .error x _ => x.page == none) = true := by decide +kernel
    split at h
    · cases h
    · rename_i x d hx
      exact ⟨x, d, hx, by simpa using h⟩

def heardAll : Device := collDevice .started [message 1] []
theorem meets_Collectives_end : NoneLeaving (collState heardAll) ∧ windowsInUse (collState heardAll) = collState heardAll ∧
    CollReady heardAll (collCmd .started) (message 0) ∧ collCount heardAll (collCmd .started) = 1 ∧
    EngAccess (collCmd .started) heardAll ⟨false, 0, 0⟩ false 0x4000 4 (.mem 0x4000) := by
  refine ⟨demo_leaves _ rfl ⟨rfl, rfl⟩, by decide +kernel, ⟨rfl, rfl, ?_, ?_, ?_, ?_⟩, by decide +kernel, access_of (by decide +kernel)⟩
  · have h : ∀ k < 2, ∀ m ∈ ((heardAll.collGroup 4).msgOf (message 0) k).toList, (collCmd .started).agrees m = true := by
      decide +kernel
    rintro ⟨k, hk, m, hm, hb⟩
    rw [h k hk m (Option.mem_toList.mpr hm)] at hb
    cases hb
  · rintro ⟨a, ha, _⟩
    cases ha
  · exact fun h => absurd h.2.2 (by decide +kernel)
  · have h : ∀ k ∈ (collCmd .started).needs 2 0, ((heardAll.collGroup 4).msgOf (message 0) k).isSome = true := by
      decide +kernel
    exact fun k hk => Option.isSome_iff_exists.mp (h k hk)

/-- Rank 1 announces two elements; it has aborted; it has not joined in time. -/
def differing : Device := collDevice .started [{ message 1 with n := 2 }] []
def aborted : Device := collDevice .started [] [⟨4, 1, 0, 0x12, 0, 0⟩]
def late : Device := collDevice .started [] []
theorem meets_Collectives_fail : (∀ d ∈ [differing, aborted, late], NoneLeaving (collState d) ∧
      windowsInUse (collState d) = collState d ∧ d.cmd 7 = some (collCmd .started) ∧
      d.canStart (collCmd .started) = false) ∧
    (∃ m, (differing.collGroup 4).msgOf (message 0) 1 = some m ∧ (collCmd .started).agrees m = false) ∧
    (∀ k < 2, ∀ m ∈ ((aborted.collGroup 4).msgOf (message 0) k).toList, (collCmd .started).agrees m = true) ∧
    abortEnds (message 0) ⟨4, 1, 0, 0x12, 0, 0⟩ = true ∧ (collCmd .started).joinedAt + 9000 ≤ late.gtime.toNat ∧
    late.allJoined (collCmd .started) (message 0) = false := by
  refine ⟨fun d hd => ⟨demo_leaves _ rfl ⟨rfl, rfl⟩, ?_⟩, ⟨{ message 1 with n := 2 }, by decide +kernel⟩, by decide +kernel⟩
  revert d
  decide +kernel

/-- Mailboxes: capability 0 may send to mailbox 3, an agent's; 1 may receive from it; 2 launches on queue 1. -/
def mailing (ring : List (BitVec 512 × BitVec 32)) : State :=
  { cur := { demoStrand with caps := [0x9003, 0xA003, 0xD005], agent := 2 }, others := [], agenda := [],
    dev := { demo.dev with mboxes := [(3, ⟨.agent 2, ring⟩), (5, ⟨.control 1, []⟩)] } }
theorem meets_Mailboxes : (∀ s ∈ [demo, mailing []], s.cur.status = .running) ∧ OwnNumber demo ∧ OwnNumber (mailing []) ∧
    demo.cap demo.cur 0 = none ∧ (mailing []).cap (mailing []).cur 0 = some ⟨false, false, true, 3⟩ ∧
    (mailing []).cap (mailing []).cur 1 = some ⟨false, true, false, 3⟩ ∧
    (mailing []).cap (mailing []).cur 2 = some ⟨true, false, true, 5⟩ ∧ bound1.cur.bindOf 6 ≠ none :=
  ⟨by decide +kernel, demo_own _ rfl, demo_own _ rfl, rfl, by decide +kernel⟩
theorem meets_Mailboxes_moves : (mailing []).cur.bindOf 1 = none ∧ (∃ u, InFile [1] (mailing []) u ∧ true) ∧
    ∀ l ∈ [[], [((9 : BitVec 512), (2 : BitVec 32))]], (mailing l).cur.bindOf 6 = none ∧ (∃ u, InFile [6] (mailing l) u ∧ true) ∧
      ((mailing l).dev.mbox 3).owner = .agent (mailing l).cur.agent ∧ ((mailing l).dev.mbox 3).ring = l ∧
      (mailing l).tickets 3 = [] := by
  refine ⟨by decide, inFile_of (by decide +kernel), fun l hl => ⟨rfl, inFile_of ?_, rfl, rfl, ?_⟩⟩ <;> revert l <;>
    decide +kernel

/-- SignalsFromPrograms: an active graph of one node at 0x3000 on queue 1, which waits for two decrements and accepts
signals, by its bytes. -/
def graphQueue (runs : List NodeRun) : Queue :=
  { Queue.reset with active := true, nodes := 0x3000, ncount := 4, gstate := 1, runs := runs, mask := 3, status := 0x9000,
                     cmbox := 5 }
def graphDevice (m : List Host.Cell) (runs : List NodeRun) : Device :=
  { wired m with queues := [(1, graphQueue runs)], mboxes := [(3, ⟨.agent 0, []⟩), (5, ⟨.control 1, []⟩)] }
def signalled (st flags : Byte) : State :=
  { demo with dev := graphDevice ([⟨0x3000, 8⟩, ⟨0x3001, st⟩] ++ (if flags = 0 then [] else [⟨0x3003, flags⟩]) ++ [⟨0x3004, 2⟩]) [] }
theorem meets_SignalsFromPrograms : (demo.cur.s 5).toNat % 64 ≠ 0 ∧ (demo.cur.s 4).toNat % 64 = 0 ∧
    (∀ s ∈ [demo, signalled 1 0, signalled 1 1, signalled 2 1],
      reaches (quiet (s.cur.taintOf (.s 4)) s) .store 0x3000 0x3000 = true ∧
      (quiet (s.cur.taintOf (.s 4)) s).dev.poisoned 0x3000 = false) ∧
    demo.dev.queueOfNode 0 0 0x3000 = none ∧ (signalled 1 1).dev.queueOfNode 0 0 0x3000 = some 1 ∧
    ((signalled 1 0).dev.readByte 0x3003).toNat % 2 = 0 ∧ ((signalled 2 1).dev.readByte 0x3001).toNat ≠ 1 ∧
    ∃ d, propagate 1 manyDecrs [(0x3000, .done)] (signalled 1 1).dev = .ok () d := by
  refine ⟨by decide, by decide, by decide +kernel, rfl, by decide +kernel, by decide +kernel, by decide +kernel, ?_⟩
  have h : (match propagate 1 manyDecrs [(0x3000, .done)] (signalled 1 1).dev with
    | .ok _ _ => true | .error _ _ => false) = true := by decide +kernel
  split at h
  · rename_i d hd
    exact ⟨d, hd⟩
  · cases h

/-- WaitsEnd: one strand in each wait, with what it waits for. -/
def waiting (w : Wait) : State :=
  { cur := { demoStrand with
      status := .waiting w 0x2000, ev := [(0, ⟨2, false, 0, []⟩)], recs := [(0, 5)], farm := 0x8000 },
    others := [], agenda := [], dev := { demo.dev with gtime := 1, mboxes := [(3, ⟨.agent 0, [(9, 2)]⟩)] } }
theorem meets_WaitsEnd : (∀ w, (waiting w).find 1 = some (waiting w).cur) ∧
    2 ≤ ((waiting (.waitev 0 2)).cur.evCtr 0).val.toNat ∧ (1 ≤ (waiting (.wfe 1)).dev.gtime.toNat) ∧
    (∃ g, (waiting (.fbar 3)).barGen (waiting (.fbar 3)).cur = some g ∧ g ≠ 3) ∧
    ((waiting (.epop 0 6)).popRecord (waiting (.epop 0 6)).cur 0).isSome = true ∧
    ((waiting (.mbrecv 3 6 0)).takeMail 1 3 0).isSome = true ∧
    (waiting (.push 0 0)).dev.engineFull 0 0 = false :=
  ⟨fun w => rfl, by decide +kernel, by decide, ⟨0, by decide +kernel, by decide⟩, by decide +kernel, by decide +kernel,
    by decide +kernel⟩

/-! ### The graph walker -/

/-- Results of the walker's operations, by computation. -/
def okIs {α : Type} [DecidableEq α] (r : EStateM.Result Stop Device α) (x : α) (d : Device) : Bool :=
  match r with
  | .ok y e => decide (y = x) && decide (e = d)
  | .error _ _ => false
theorem ok_of {α : Type} [DecidableEq α] {r : EStateM.Result Stop Device α} {x : α} {d : Device} (h : okIs r x d = true) :
    r = .ok x d := by
  unfold okIs at h
  split at h
  · simp only [Bool.and_eq_true, decide_eq_true_eq] at h
    rw [h.1, h.2]
  · cases h
/-- The device after an operation, which must succeed. -/
def deviceOf (m : DevM Unit) (d : Device) : Device :=
  match m d with
  | .ok _ e => e
  | .error _ e => e
def goesWell (m : DevM Unit) (d : Device) : Bool :=
  match m d with
  | .ok _ _ => true
  | .error _ _ => false
theorem after_of {m : DevM Unit} {d : Device} (h : goesWell m d = true) : m d = .ok () (deviceOf m d) := by
  unfold goesWell at h
  split at h
  · rename_i _ e he
    simp only [deviceOf, he]
  · cases h
/-- Reads of the walker of queue 1, by offset from the node at 0x3000. -/
theorem reads_of {d : Device} {l : List (Nat × Nat × Nat)}
    (h : l.all (fun e => okIs (wget 1 (0x3000 + e.1) e.2.1 d) e.2.2 d) = true) :
    ∀ e ∈ l, WalkReads d 1 (0x3000 + e.1) e.2.1 e.2.2 := fun e he => ok_of (List.all_eq_true.mp h e he)
theorem nodeStarts_of {s : State} {kind : Nat} (h : (s.dev.isReady 1 0x3000 && okIs (wget 1 0x3000 1 s.dev) kind s.dev &&
    goesWell (startNode 1 0x3000) s.dev) = true) : NodeStarts s 1 0x3000 kind (deviceOf (startNode 1 0x3000) s.dev) := by
  simp only [Bool.and_eq_true] at h
  exact ⟨h.1.1, ok_of h.1.2, after_of h.2⟩

/-- Bytes put into memory. -/
def poke (l : List (Nat × Nat × Nat)) (d : Device) : Device := l.foldl (fun d e => d.writeLE e.1 e.2.1 e.2.2) d

/-- NodeDecrements: the node waits for one decrement more than p, and has had others. -/
def armed (p : Nat) (got : List Decr) : Device :=
  poke [(0x3000, 1, 8), (0x3001, 1, 1), (0x3004, 2, p + 1)] (graphDevice [] [{ NodeRun.fresh 0x3000 with got := got }])
def decremented (p : Nat) (got : List Decr) (k : Decr) : Device :=
  (deviceOf (wput 1 0x3004 2 p) (armed p got)).updRun 1 0x3000 fun r => { r with got := r.got ++ [k] }
theorem meets_NodeDecrements :
    (∀ e ∈ [(1, []), (0, []), (0, [Decr.done])], ((armed e.1 e.2).queue 1).isNode 0x3000 = true ∧
      WalkReads (armed e.1 e.2) 1 0x3001 1 1 ∧ WalkReads (armed e.1 e.2) 1 0x3004 2 (e.1 + 1) ∧
      wput 1 0x3004 2 e.1 (armed e.1 e.2) = .ok () (deviceOf (wput 1 0x3004 2 e.1) (armed e.1 e.2))) ∧
    (let d := decremented 0 [.done] .fail
     markFailed 1 0x3000 d = .ok () (deviceOf (markFailed 1 0x3000) d) ∧
     failPolicy 1 0x3000 false (deviceOf (markFailed 1 0x3000) d) = .ok [] (deviceOf (markFailed 1 0x3000) d)) ∧
    (let d := decremented 0 [] .skip
     putState 1 0x3000 6 d = .ok () (deviceOf (putState 1 0x3000 6) d) ∧
     successors 1 0x3000 (deviceOf (putState 1 0x3000 6) d) = .ok [] (deviceOf (putState 1 0x3000 6) d)) ∧
    ((armed 0 []).queue 1).isNode 0x9000 = false ∧ ((armed 0 []).queue 1).isNode 0x3040 = true ∧
    WalkReads (armed 0 []) 1 0x3041 1 0 := by
  refine ⟨fun e he => ?_, ⟨after_of ?_, ok_of ?_⟩, ⟨after_of ?_, ok_of ?_⟩, ?_, ?_, ok_of ?_⟩
  · have h : ∀ e ∈ [(1, []), (0, []), (0, [Decr.done])], (((armed e.1 e.2).queue 1).isNode 0x3000 &&
        okIs (wget 1 0x3001 1 (armed e.1 e.2)) 1 (armed e.1 e.2) && okIs (wget 1 0x3004 2 (armed e.1 e.2)) (e.1 + 1) (armed e.1 e.2) &&
        goesWell (wput 1 0x3004 2 e.1) (armed e.1 e.2)) = true := by decide +kernel
    have h := h e he
    simp only [Bool.and_eq_true] at h
    exact ⟨h.1.1.1, ok_of h.1.1.2, ok_of h.1.2, after_of h.2⟩
  all_goals decide +kernel

/-- GraphsLaunch: no LAUNCH, and one of four records at 0x3000. -/
def launching (msg : BitVec 512) (runs : List NodeRun) : State :=
  { demo with dev := { graphDevice [] runs with mboxes := [(5, ⟨.control 1, [(msg, 0)]⟩)] } }
def launchMsg : BitVec 512 := BitVec.ofNat 512 (1 + 2 ^ 64 * 0x3000 + 2 ^ 128 * 4)
def emptied : Device := (launching launchMsg []).dev.setMbox 5 ⟨.control 1, []⟩
def rearmed : Device := deviceOf (rearmAll 1 0x3000 4 0) emptied
def begun : Device := deviceOf (putStatus 1) (rearmed.updQueue 1 fun qu => { qu with
  active := true, nodes := 0x3000, ncount := 4, ndone := 0, nfail := 0, gstate := 1, runs := [] })
theorem meets_GraphsLaunch :
    (∀ msg runs, let d := (launching msg runs).dev
      (d.mbox (d.queue 1).cmbox).owner = .control 1 ∧ (d.mbox (d.queue 1).cmbox).ring = [(msg, 0)]) ∧
    ((launching launchMsg [.fresh 0x3000]).dev.queue 1).busy = true ∧ ((launching launchMsg []).dev.queue 1).busy = false ∧
    goesWell (putStatus 1) (((launching 0 []).dev.setMbox 5 ⟨.control 1, []⟩).updQueue 1 fun qu => { qu with gstate := 4 }) = true :=
  ⟨fun msg runs => ⟨rfl, rfl⟩, by decide +kernel⟩
theorem meets_GraphsLaunch_words : launchMsg.toNat % 2 ^ 64 = 1 ∧ launchMsg.toNat / 2 ^ 192 = 0 ∧ launchMsg.toNat / 2 ^ 64 % 64 = 0 ∧
    launchMsg.toNat / 2 ^ 64 % 2 ^ 64 = 0x3000 ∧ launchMsg.toNat / 2 ^ 128 % 2 ^ 64 = 4 := by decide +kernel
theorem meets_GraphsLaunch_begins :
    rearmAll 1 0x3000 4 0 emptied = .ok () rearmed ∧
    putStatus 1 (rearmed.updQueue 1 fun qu => { qu with
      active := true, nodes := 0x3000, ncount := 4, ndone := 0, nfail := 0, gstate := 1, runs := [] }) = .ok () begun ∧
    ∃ d, readyAll 1 0x3000 4 0 begun = .ok () d :=
  ⟨after_of (by decide +kernel), after_of (by decide +kernel), _, after_of (by decide +kernel)⟩

/-- A graph whose second record lies above the addresses. -/
theorem meets_GraphsLaunch_fault : ∃ e d, rearmAll 1 0xFFFFFFFFFFC0 2 0 emptied = .error e d ∧
    goesWell (putStatus 1) (d.updQueue 1 fun qu => { qu with gstate := 4 }) = true := by
  have h : (match rearmAll 1 0xFFFFFFFFFFC0 2 0 emptied with
    | .ok _ _ => false
    | .error _ d => goesWell (putStatus 1) (d.updQueue 1 fun qu => { qu with gstate := 4 })) = true := by decide +kernel
  split at h
  · cases h
  · exact ⟨_, _, ‹_›, h⟩

/-- A ready node of a kind at 0x3000, with two successors, of which the first takes NT's; what it reads stands at 0x6000. -/
def readyNode (kind : Nat) (l : List (Nat × Nat × Nat)) : State :=
  { demo with dev := { poke ([(0x3000, 1, kind), (0x3008, 8, 0x5000), (0x3010, 2, 2), (0x3012, 2, 1),
      (0x5000, 8, 0x3040), (0x5008, 8, 0x3080), (0x6000, 8, 7)] ++ l) (graphDevice [] [.fresh 0x3000]) with gtime := 50 } }
def runs_ (s : State) : Device := deviceOf (startNode 1 0x3000) s.dev
def succs : List Nat := [0x3040, 0x3080]

/-- ControlNodes: the word is 7; COND compares it under a mask with 5 for equality, LOOP goes on while it is 7, and TIMED
waits for 50 and for 51. -/
def condS : State := readyNode 3 [(0x3018, 8, 0x6000), (0x3020, 8, 5), (0x3028, 8, 5)]
def switchS : State := readyNode 5 [(0x3018, 8, 0x6000), (0x3020, 8, 3)]
def loopS (v : Nat) : State :=
  readyNode 4 [(0x3018, 8, 0x6000), (0x3020, 8, v), (0x3028, 8, 0x5008), (0x3032, 2, 1), (0x3034, 2, 1)]
def timedS (t : Nat) : State := readyNode 8 [(0x3018, 8, t)]
theorem meets_Cond : NodeStarts condS 1 0x3000 3 (runs_ condS) ∧
    (∀ e ∈ [(0x18, 8, 0x6000), (0x20, 8, 5), (0x28, 8, 5), (0x30, 1, 0), (0x12, 2, 1), (0x3000, 8, 7)],
      WalkReads (runs_ condS) 1 (0x3000 + e.1) e.2.1 e.2.2) ∧ successors 1 0x3000 (runs_ condS) = .ok succs (runs_ condS) ∧
    opHolds 0 (7 &&& 5) 5 ∧ ¬ opHolds 1 (7 &&& 5) 5 ∧
    ∃ d, doneNode 1 0x3000 (twoWays succs 1 .done .skip) (runs_ condS) = .ok () d :=
  ⟨nodeStarts_of (by decide +kernel), reads_of (by decide +kernel), ok_of (by decide +kernel), .inl ⟨rfl, rfl⟩,
    by simp [opHolds], _, after_of (by decide +kernel)⟩
theorem meets_Switch : NodeStarts switchS 1 0x3000 5 (runs_ switchS) ∧
    (∀ e ∈ [(0x18, 8, 0x6000), (0x20, 8, 3), (0x3000, 8, 7)], WalkReads (runs_ switchS) 1 (0x3000 + e.1) e.2.1 e.2.2) ∧
    successors 1 0x3000 (runs_ switchS) = .ok succs (runs_ switchS) ∧
    ∃ d, doneNode 1 0x3000 [(0x3040, .skip), (0x3080, .done)] (runs_ switchS) = .ok () d :=
  ⟨nodeStarts_of (by decide +kernel), reads_of (by decide +kernel), ok_of (by decide +kernel), _, after_of (by decide +kernel)⟩
def loopD1 : Device := deviceOf (rearmList 1 [0x3080]) (runs_ (loopS 7))
def loopD2 : Device := deviceOf (wput 1 0x3014 4 1) loopD1
def loopD3 : Device := deviceOf (wput 1 0x3004 2 1) loopD2
def loopD4 : Device := deviceOf (wput 1 0x3001 1 1) loopD3
theorem meets_Loop : (∀ v ∈ [5, 7], NodeStarts (loopS v) 1 0x3000 4 (runs_ (loopS v)) ∧
      (∀ e ∈ [(0x18, 8, 0x6000), (0x20, 8, v), (0x28, 8, 0x5008), (0x30, 1, 0), (0x12, 2, 1), (0x32, 2, 1), (0x34, 2, 1),
        (0x36, 2, 0), (0x14, 4, 0), (0x3000, 8, 7)], WalkReads (runs_ (loopS v)) 1 (0x3000 + e.1) e.2.1 e.2.2) ∧
      successors 1 0x3000 (runs_ (loopS v)) = .ok succs (runs_ (loopS v))) ∧
    (∃ d, doneNode 1 0x3000 ((succs.drop 1).map fun a => (a, .done)) (runs_ (loopS 5)) = .ok () d) ∧
    wgetWords 1 0x5008 1 (runs_ (loopS 7)) = .ok [0x3080] (runs_ (loopS 7)) ∧
    rearmList 1 [0x3080] (runs_ (loopS 7)) = .ok () loopD1 ∧ wput 1 0x3014 4 1 loopD1 = .ok () loopD2 ∧
    wput 1 0x3004 2 1 loopD2 = .ok () loopD3 ∧ wput 1 0x3001 1 1 loopD3 = .ok () loopD4 ∧
    ∃ d, propagate 1 manyDecrs ((succs.take 1).map fun a => (a, .done))
      (loopD4.updQueue 1 fun qu => { qu with runs := qu.runs.filter fun r => r.node != 0x3000 }) = .ok () d := by
  refine ⟨fun v hv => ?_, ⟨_, after_of (by decide +kernel)⟩, ok_of (by decide +kernel), after_of (by decide +kernel),
    after_of (by decide +kernel), after_of (by decide +kernel), after_of (by decide +kernel), _, after_of (by decide +kernel)⟩
  simp only [List.mem_cons, List.not_mem_nil, or_false] at hv
  obtain rfl | rfl := hv
  all_goals exact ⟨nodeStarts_of (by decide +kernel), reads_of (by decide +kernel), ok_of (by decide +kernel)⟩
theorem meets_Timed : (∀ t ∈ [50, 51], NodeStarts (timedS t) 1 0x3000 8 (runs_ (timedS t)) ∧
      ∀ e ∈ [(0, 1, 8), (0x18, 8, t)], WalkReads (runs_ (timedS t)) 1 (0x3000 + e.1) e.2.1 e.2.2) ∧
    (∃ d, doneAll 1 0x3000 (runs_ (timedS 50)) = .ok () d) ∧ (runs_ (timedS 50)).gtime.toNat = 50 := by
  refine ⟨fun t ht => ?_, ⟨_, after_of (by decide +kernel)⟩, by decide +kernel⟩
  simp only [List.mem_cons, List.not_mem_nil, or_false] at ht
  obtain rfl | rfl := ht
  all_goals exact ⟨nodeStarts_of (by decide +kernel), reads_of (by decide +kernel)⟩

/-- CopyNodes: its command stands at 0x6000; another such node finds its engine full. -/
def copyS : State := readyNode 2 [(0x3018, 8, 0x6000), (0x6000, 8, 0x502)]
def copyFull : State := { copyS with dev := { copyS.dev with cmds := List.replicate 32 (demoCmd 0 [] .pushed) } }
theorem meets_CopyNodes : (∀ s ∈ [copyS, copyFull], ∀ e ∈ [(0x20, 1, 0), (0x21, 1, 0)],
      WalkReads s.dev 1 (0x3000 + e.1) e.2.1 e.2.2) ∧
    copyFull.dev.engineFull 0 0 = true ∧ copyS.dev.engineFull 0 0 = false ∧ NodeStarts copyS 1 0x3000 2 (runs_ copyS) ∧
    ∀ e ∈ [(0x18, 8, 0x6000), (0x3000, 128, 0x502)], WalkReads (runs_ copyS) 1 (0x3000 + e.1) e.2.1 e.2.2 := by
  refine ⟨fun s hs => ?_, by decide +kernel, by decide +kernel, nodeStarts_of (by decide +kernel), reads_of (by decide +kernel)⟩
  simp only [List.mem_cons, List.not_mem_nil, or_false] at hs
  obtain rfl | rfl := hs
  all_goals exact reads_of (by decide +kernel)

/-- The command of a node has ended, well or not. -/
def copyCmd (st : Nat) : Cmd := { demoCmd 0 [(0, 0x802)] (.ended st 0 0) with node := 0x3000, queue := 1 }
def copyEnded (st : Nat) : State := { copyS with dev := { runs_ copyS with cmds := [copyCmd st] } }
theorem meets_CopyNodes_end : ∀ st ∈ [0, 0x80], NoneLeaving (copyEnded st) ∧ (copyEnded st).dev.cmd 7 = some (copyCmd st) ∧
    (copyCmd st).node = 0x3000 ∧ (copyCmd st).queue = 1 ∧ (copyCmd st).drop = false ∧
    (((copyEnded st).dev.queue 1).run 0x3000).launched = true ∧
    goesWell (doneAll 1 0x3000) { (copyEnded st).dev with cmds := [] } = true ∧
    goesWell (failNode 1 0x3000 true) { (copyEnded st).dev with cmds := [] } = true := by
  intro st hst
  refine ⟨demo_leaves _ rfl ⟨rfl, rfl⟩, ?_, rfl, rfl, rfl, ?_⟩ <;> revert st <;> decide +kernel

/-- MailNodes: capability 0 of the agent 0 sends to mailbox 3, capability 1 receives from it; the message stands at 0x6000,
the buffer too. -/
def agentMem : List (Nat × Nat × Nat) := [(0xA000, 2, 1), (0xA040, 8, 0x9003), (0xA048, 8, 0xA003)]
def mailS (kind : Nat) (l : List (Nat × Nat × Nat)) (ring : List (BitVec 512 × BitVec 32)) : State :=
  let s := readyNode kind (agentMem ++ l)
  { s with dev := { s.dev with agents := [(0, ⟨0, 0xA000⟩)], mboxes := [(3, ⟨.agent 0, ring⟩), (5, ⟨.control 1, []⟩)] } }
def fullRing : List (BitVec 512 × BitVec 32) := List.replicate 32 (0, 0)
def sendCap : Cap := ⟨false, false, true, 3⟩
theorem meets_Mail : (∀ ring ∈ [[], fullRing], let s := mailS 6 [(0x3018, 8, 0x6000)] ring
      NodeStarts s 1 0x3000 6 (runs_ s) ∧ (∀ e ∈ [(0, 1, 6), (0x20, 1, 0), (0x18, 8, 0x6000), (0x3000, 64, 7)],
        WalkReads (runs_ s) 1 (0x3000 + e.1) e.2.1 e.2.2) ∧ queueCap 1 0 (runs_ s) = .ok (some sendCap) (runs_ s) ∧
      ((runs_ s).mboxFull 3 = decide (ring ≠ [])) ∧
      ∃ d, doneAll 1 0x3000 ((runs_ s).accept 3 (BitVec.ofNat 512 7) 0x8000) = .ok () d) ∧
    (let s : State := { demo with dev := { runs_ (mailS 6 [(0x3018, 8, 0x6000)] []) with gtime := 2000 } }
     ((s.dev.queue 1).run 0x3000).readyAt + 1000 ≤ s.dev.gtime.toNat ∧
     (∃ r ∈ (s.dev.queue 1).runs, r.node = 0x3000 ∧ r.launched = true) ∧ WalkReads s.dev 1 0x3000 1 6) := by
  refine ⟨fun ring hr => ?_, by decide +kernel, by decide +kernel, ok_of (by decide +kernel)⟩
  simp only [List.mem_cons, List.not_mem_nil, or_false] at hr
  obtain rfl | rfl := hr
  all_goals exact ⟨nodeStarts_of (by decide +kernel), reads_of (by decide +kernel), ok_of (by decide +kernel), by decide +kernel,
    _, after_of (by decide +kernel)⟩

/-- END without and with a reply. -/
def endS (b : Nat) (ring : List (BitVec 512 × BitVec 32)) : State := mailS 9 [(0x3018, 1, b), (0x3020, 8, 0x77)] ring
def ended_ (s : State) : Device := deviceOf (putStatus 1) ((runs_ s).updQueue 1 fun qu => { qu with gstate := 2 })
theorem meets_End : ∀ e ∈ [(0, []), (64, []), (64, fullRing)], let s := endS e.1 e.2
    NodeStarts s 1 0x3000 9 (runs_ s) ∧
    putStatus 1 ((runs_ s).updQueue 1 fun qu => { qu with gstate := 2 }) = .ok () (ended_ s) ∧
    (∀ f ∈ [(0, 1, 9), (0x18, 1, e.1), (0x20, 8, 0x77)], WalkReads (ended_ s) 1 (0x3000 + f.1) f.2.1 f.2.2) ∧
    queueCap 1 0 (ended_ s) = .ok (some sendCap) (ended_ s) ∧ (ended_ s).mboxFull 3 = decide (e.2 ≠ []) ∧
    (∃ d, putState 1 0x3000 4 (ended_ s) = .ok () d) ∧
    ∃ d, putState 1 0x3000 4 ((ended_ s).accept 3 0x77 0x8000) = .ok () d := by
  intro e he
  simp only [List.mem_cons, List.not_mem_nil, or_false] at he
  obtain rfl | rfl | rfl := he
  all_goals exact ⟨nodeStarts_of (by decide +kernel), after_of (by decide +kernel), reads_of (by decide +kernel),
    ok_of (by decide +kernel), by decide +kernel, ⟨_, after_of (by decide +kernel)⟩, _, after_of (by decide +kernel)⟩
/-- A refused END is tried again. -/
def endAgain : State := { endS 64 [] with dev := { ended_ (endS 64 []) with gtime := 2000 } }
theorem meets_EndRetry : ((endAgain.dev.queue 1).run 0x3000).readyAt + 1000 ≤ endAgain.dev.gtime.toNat ∧
    (∃ r ∈ (endAgain.dev.queue 1).runs, r.node = 0x3000 ∧ r.launched = true) ∧ WalkReads endAgain.dev 1 0x3000 1 9 :=
  ⟨by decide +kernel, by decide +kernel, ok_of (by decide +kernel)⟩

/-- WAITMAIL with its message there, and without. -/
def waitS (ring : List (BitVec 512 × BitVec 32)) : State := mailS 7 [(0x3018, 8, 0x6000), (0x3020, 1, 1)] ring
def waited (s : State) : Device :=
  { (runs_ s).updRun 1 0x3000 fun r => { r with ticket := 0, mbox := 4 } with nextTicket := 1 }
theorem meets_Waitmail : ∀ ring ∈ [[], [(9, 2)]], let s := waitS ring
    NodeStarts s 1 0x3000 7 (runs_ s) ∧ WalkReads (runs_ s) 1 0x3020 1 1 ∧
    queueCap 1 1 (runs_ s) = .ok (some ⟨false, true, false, 3⟩) (runs_ s) ∧ (runs_ s).nextTicket = 0 ∧
    (∀ f ∈ [(0, 1, 7), (0x18, 8, 0x6000)], WalkReads (waited s) 1 (0x3000 + f.1) f.2.1 f.2.2) ∧
    ((waited s).mbox 3).owner = .agent ((waited s).queue 1).agent ∧ ((waited s).mbox 3).ring = ring ∧
    (∀ x ∈ ({ s with dev := waited s } : State).tickets 3, 0 < x.1 ∨ (x.1 = 0 ∧ 1025 ≤ x.2)) ∧
    wputBytes 1 0x6000 (bytesLE 64 9) (waited s) = .ok () (deviceOf (wputBytes 1 0x6000 (bytesLE 64 9)) (waited s)) ∧
    ∃ d, doneAll 1 0x3000 ((deviceOf (wputBytes 1 0x6000 (bytesLE 64 9)) (waited s)).takeMsg 3 0) = .ok () d := by
  intro ring hr
  simp only [List.mem_cons, List.not_mem_nil, or_false] at hr
  obtain rfl | rfl := hr
  all_goals exact ⟨nodeStarts_of (by decide +kernel), ok_of (by decide +kernel), ok_of (by decide +kernel), by decide +kernel,
    reads_of (by decide +kernel), by decide +kernel, rfl, by decide +kernel, after_of (by decide +kernel), _,
    after_of (by decide +kernel)⟩

/-- GraphEnds: a node whose strand has gone and whose command is held; one past its budget; a queue to abort. -/
def computeRun : NodeRun := { NodeRun.fresh 0x3000 with launched := true, strands := [9], ran := 2000 }
def ending_ (qu : Queue) : State :=
  { readyNode 1 [(0x302C, 4, 1)] with dev := { (readyNode 1 [(0x302C, 4, 1)]).dev with queues := [(1, qu)] } }
def computeQueue : Queue := graphQueue [computeRun]
def abortQueue : Queue := { graphQueue [] with abort := true }
theorem meets_GraphEnds_complete : let s := ending_ computeQueue
    ((s.dev.queue 1).run 0x3000).strands ≠ [] ∧ ((s.dev.queue 1).run 0x3000).failedStrand = false ∧
    (∀ r ∈ s.strands, ((s.dev.queue 1).run 0x3000).strands.contains r.uid = true → r.live = false) ∧
    (∀ c ∈ s.dev.cmds, ((s.dev.queue 1).run 0x3000).strands.contains c.uid = true → c.completed = true) ∧
    ∃ d, doneAll 1 0x3000 { s.dev with cmds := s.dev.cmds.filter fun c =>
      !(((s.dev.queue 1).run 0x3000).strands.contains c.uid) } = .ok () d :=
  ⟨by decide +kernel, by decide +kernel, by decide +kernel, fun c hc => (by cases hc), _, after_of (by decide +kernel)⟩
theorem meets_GraphEnds_overrun : ∀ m ∈ [0, 1], let s := ending_ { computeQueue with ovrmax := m }
    let run := (s.dev.queue 1).run 0x3000
    (s.dev.queue 1).abort = false ∧ (s.dev.queue 1).requeueKill = false ∧ run.overran = false ∧ run.launched = true ∧
    run.strands ≠ [] ∧ s.dev.budgetOf 1 0x3000 = 1000 ∧ 1000 < run.ran ∧ run.requeues = 0 ∧ (s.dev.queue 1).ovrmax = m := by
  decide +kernel
theorem meets_GraphEnds_abort : let s := ending_ abortQueue
    (s.dev.queue 1).abort = true ∧ (s.dev.queue 1).runs = [] ∧ (s.dev.queue 1).active = true ∧
    (∀ c ∈ s.dev.cmds, c.queue = 1 → c.node = 0) ∧
    ∃ d, putStatus 1 { s.dev.updQueue 1 fun qu => { noNodes qu with
      active := false, aborting := false, runs := [], abort := false, gstate := 3 } with due := true } = .ok () d :=
  ⟨rfl, rfl, rfl, fun c hc => (by cases hc), _, after_of (by decide +kernel)⟩

/-! ### Threads, launches, pre-emption -/

/-- ElementThreads: a block of VTEND at 0x2000; at 0x2040 STRIP, which no thread may run. Elements 0 and 2 have threads. -/
def vtbOp (imm : Nat) : Operands := { op3 3 0 0 with imm := BitVec.ofNat 32 imm }
def blocks : State :=
  { demo with
    cur := { demoStrand with csr := { demoStrand.csr with mif := 1 } }
    dev := poke [(0x2000, 4, 0x100000A0), (0x2040, 4, 0x100014A8), (0x2100, 8, 0x87B00002002000A1)] demo.dev }
def okB {ε σ α : Type} (r : EStateM.Result ε σ α) (f : α → σ → Bool) : Bool :=
  match r with
  | .ok x s => f x s
  | .error _ _ => false
theorem okB_of {ε σ α : Type} {r : EStateM.Result ε σ α} {f : α → σ → Bool} (h : okB r f = true) :
    ∃ x s, r = .ok x s ∧ f x s = true := by
  unfold okB at h
  split at h
  · rename_i x s
    exact ⟨x, s, rfl, h⟩
  · cases h
theorem meets_ElementThreads : blocks.cur.nestHere = false ∧ threadElems blocks.cur = [0, 2] ∧
    (∃ rs s', threads (blockAddr (vtbOp 0x400) blocks.cur) (threadElems blocks.cur) blocks = .ok rs s' ∧
      (firstRefused rs == none) = true) ∧
    (∃ rs s', threads (blockAddr (vtbOp 0x410) blocks.cur) (threadElems blocks.cur) blocks = .ok rs s' ∧
      (firstRefused rs).isSome = true) ∧
    (∃ x s', fetchParcels 0x2000 blocks = .ok x s' ∧ (decide (s' = blocks) &&
      (match classifyRow 2 (unpack x.1 x.2.1 x.2.2.1 x.2.2.2) with | .ok r => r.mn == Mnem.vtend | .error _ => false)) = true) ∧
    ∃ x s', fetchParcels 0x2100 blocks = .ok x s' ∧ (decide (s' = blocks) &&
      (match classifyRow 2 (unpack x.1 x.2.1 x.2.2.1 x.2.2.2) with | .ok r => r.mn == Mnem.vtnext | .error _ => false)) = true :=
  ⟨by decide, by decide +kernel, okB_of (by decide +kernel), okB_of (by decide +kernel), okB_of (by decide +kernel),
    okB_of (by decide +kernel)⟩

/-- A block of bytes that are no instruction: its thread takes ILL_RSV at it. -/
def badBlock : State := blocks.onDev (poke [(0x2080, 4, 0xFFFFFFFD)])
theorem meets_ElementThreads_cause : ∃ s', threads (blockAddr (vtbOp 0x420) badBlock.cur) (threadElems badBlock.cur)
    (badBlock.onCur fun c => c.unread (c.binds.map (·.reg))) = .error (.cause .illRsv 0xFFFFFFFD) s' := by
  have h : (match threads (blockAddr (vtbOp 0x420) badBlock.cur) (threadElems badBlock.cur)
      (badBlock.onCur fun c => c.unread (c.binds.map (·.reg))) with
    | .ok _ _ => false
    | .error e _ => e == .cause .illRsv 0xFFFFFFFD) = true := by decide +kernel
  split at h
  · cases h
  · rename_i e s' he
    exact ⟨s', by rw [he, beq_iff_eq.mp h]⟩

/-- NodesLaunch: a COMPUTE node whose kernel stands at 0x7000, and one that asks for three strands of two cores. -/
def computeS (nstr : Nat) : State :=
  let s := readyNode 1 [(0x3018, 8, 0x7000), (0x3020, 8, 0x7100), (0x3028, 2, nstr), (0x7000, 8, 0x1000), (0x7022, 1, 1),
    (0x7038, 8, 1), (0x7100, 8, 77)]
  { s with dev := { s.dev with loaded := [⟨1, 2, 0, false⟩] } }
def demoPlan (nstr : Nat) : Plan := ⟨⟨256, 1, 0, 0, 1⟩, 0x1000, 0, [77, 0, 0, 0, 0, 0, 0, 0], 2, nstr⟩
theorem meets_NodesLaunch : (∀ nstr ∈ [1, 3], (computeS nstr).dev.isReady 1 0x3000 = true ∧
      WalkReads (computeS nstr).dev 1 0x3000 1 1 ∧
      readPlan 1 0x3000 (computeS nstr).dev = .ok (some (demoPlan nstr)) (computeS nstr).dev ∧
      (computeS nstr).placeable 1 0x3000 (demoPlan nstr) = decide (nstr = 1) ∧
      (∃ d, failNode 1 0x3000 false (computeS nstr).dev = .ok () d)) ∧
    ((computeS 1).placeNew 1 0x3000 (demoPlan 1) [0, 1]).isSome = true := by
  refine ⟨fun nstr h => ?_, by decide +kernel⟩
  simp only [List.mem_cons, List.not_mem_nil, or_false] at h
  obtain rfl | rfl := h
  all_goals exact ⟨by decide +kernel, ok_of (by decide +kernel), ok_of (by decide +kernel), by decide +kernel, _,
    after_of (by decide +kernel)⟩

/-- SchedulingDecisions: the node is offered on queue 1 and has been its candidate for 10 ms, or is not yet; a halted strand
whose queue has no cores, or has two. -/
def offeredS (offer : Option (Nat × Nat × Nat)) : State :=
  ((computeS 1).onDev fun d => ({ d with gtime := 10000050 }.updRun 1 0x3000 fun r => { r with offered := true }).updQueue 1
    fun qu => { qu with offer := offer })
def waited10 : State := offeredS (some (1, 0x3000, 50))
def idle (s : State) : State := (s.onDev fun d => { d with due := false }).offerAll
def burstOver (s : State) : Bool := (idle s).decide1.isNone && !(idle s).dev.due
theorem over_of {s : State} (h : burstOver s = true) : ∃ t, BurstOver s t := by
  rw [burstOver, Bool.and_eq_true, Option.isNone_iff_eq_none, Bool.not_eq_true'] at h
  unfold idle at h
  exact ⟨((s.onDev fun d => { d with due := false }).offerAll).onDev fun d => { d with nextTicket := d.nextTicket + 1 }, by
    simp only [BurstOver]
    exact ⟨h.1, h.2, trivial⟩⟩
def haltedS (mask : BitVec 192) : State :=
  { demo with cur := { demoStrand with status := .halted none, ctxArea := some 0x100000 }
              dev := (poke [(0x100010, 8, 21)] demo.dev).updQueue 0 fun qu => { qu with mask := mask } }
def unhalted (mask : BitVec 192) : State :=
  { haltedS mask with dev := poke [(0x100010, 8, 5)] (haltedS mask).dev }.upd 1 fun c =>
    { c with status := .preempted none, offered := 0, step1 := false }
theorem meets_SchedulingDecisions_burst : (∃ t, BurstOver demo t) ∧
    ∃ s', (idle waited10).decide1 = some s' ∧ ∃ t, BurstOver s' t := by
  refine ⟨over_of (by decide +kernel), ?_⟩
  have h : ((idle waited10).decide1.any burstOver) = true := by decide +kernel
  obtain ⟨s', hs, hb⟩ := (Option.any_eq_true ..).mp h
  exact ⟨s', hs, over_of hb⟩
theorem meets_SchedulingDecisions_one :
    waited10.candidate 1 = some (.node 0x3000 0) ∧
    waited10.effPrio 1 (.node 0x3000 0) < 10 ∧ (∀ q < 64, q ≠ 1 → waited10.candidate q = none) ∧
    (waited10.launch 1 (.node 0x3000 0) (waited10.openCores waited10.candidates 1 (waited10.effPrio 1 (.node 0x3000 0)))).isSome
      = true ∧ (waited10.dev.queue 1).offer = some ((Cand.node 0x3000 0).key.1, (Cand.node 0x3000 0).key.2, 50) ∧
    (offeredS none).candidate 1 = some (.node 0x3000 0) ∧ ((offeredS none).dev.queue 1).offer = none :=
  by decide +kernel
theorem meets_SchedulingDecisions_resume (m : BitVec 192) (hm : m = 0 ∨ m = 3) : (haltedS m).find 1 = some (haltedS m).cur ∧
    (haltedS m).cur.status = .halted none ∧ (haltedS m).cur.leaving = none ∧ (haltedS m).cur.ctxArea = some 0x100000 ∧
    (∀ r ∈ (haltedS m).strands, r.uid = 1 → r = (haltedS m).cur) ∧
    gpread 0 (0x100000 + 0x10) 8 (haltedS m).dev = .ok (bytesLE 8 21) (haltedS m).dev ∧ natLE (bytesLE 8 21) = 2 ^ 4 + 5 ∧
    (gpwrite 0 (0x100000 + 0x10) (bytesLE 8 5) (haltedS m).dev = .ok () (poke [(0x100010, 8, 5)] (haltedS m).dev)) ∧
    ((unhalted 0).find 1).isSome = true ∧ ∃ t, BurstOver (unhalted 0) t := by
  refine ⟨rfl, rfl, rfl, rfl, ?_, ok_of ?_, by decide, ok_of ?_, rfl, over_of (by decide +kernel)⟩
  · intro r hr _
    simpa [State.strands, haltedS, demo, State.reset] using hr
  all_goals obtain rfl | rfl := hm <;> decide +kernel

/-- PreemptionAndKill: a strand that runs, one that waits, and one whose request is pending, with its context area. -/
def pending : State := demoWith fun c => { c with
  preempt := some 0, ctxArea := some 0x100000, kern := ⟨64, 1, 2, 0, 0⟩ }
theorem meets_PreemptionAndKill : demo.find 1 = some demo.cur ∧ (∀ r ∈ demo.strands, r.uid = 1 → r = demo.cur) ∧
    demo.cur.status = .running ∧ (waiting (.fbar 3)).cur.status = .waiting (.fbar 3) 0x2000 ∧
    (waiting (.wfe 9)).cur.status = .waiting (.wfe 9) 0x2000 ∧
    (pending.cur.preempt = some 0 ∧ pending.cur.sup.tlevel = 0 ∧ pending.cur.step1 = false) ∧
    (let s : State := { pending with dev := { pending.dev with scratch := [] } }
     s.dev.window 1 = none ∧ s.dev.scratchBusy 1 = false ∧
     ∃ d, saveBytes { pending.cur with
         status := .preempted none, preempt := none, step1 := false, stepDone := false, buf := [], leaving := none, offered := 0 }
       0x100000 false false none (s.dev.performAll []) = .ok () d) ∧ demo.cur.live = true := by
  refine ⟨rfl, ?_, rfl, rfl, rfl, ⟨rfl, rfl, rfl⟩, ⟨by decide +kernel, by decide +kernel, _, after_of (by decide +kernel)⟩, rfl⟩
  intro r hr _
  simpa [State.strands, demo, State.reset] using hr
/-- A command writes into the window of the strand that is to leave. -/
def writing : State := { pending with dev := { pending.dev with cmds := [installing] } }
theorem meets_PreemptionAndKill_leaving : writing.dev.scratchBusy writing.cur.group = true ∧
    (∀ r ∈ writing.strands, r.uid ≠ 1 → r.group = writing.cur.group → r.resident = false) := by
  refine ⟨by decide +kernel, ?_⟩
  intro r hr h
  simp only [State.strands, writing, pending, demoWith, demo, State.reset, List.mem_cons, List.not_mem_nil, or_false] at hr
  exact absurd (congrArg Strand.uid hr) h

/-! ### Host port, code objects -/

/-- A device whose function 0 has these words in ADMBUF, with a command under way, or not. -/
def hosted (busy : Bool) (ws : List (Nat × Word)) : State :=
  { demo with dev := { wired [] with
      fpages := [(0, { FuncPage.reset with admbuf := ws, admbusy := busy })], agents := [(5, ⟨0, 0xA000⟩)]
      prqs := [⟨0, 4, 0, 1, 0, 0, 0x9000, none, true⟩] } }
theorem meets_HostPort : HostReaches demo 0 ∧ (((hosted false [(0, 3)]).dev.fpage 0).adm 0).toNat ∈ admOps ∧
    (((hosted false [(0, 99)]).dev.fpage 0).adm 0).toNat ∉ admOps ∧ ((hosted false []).dev.fpage 0).admbusy = false ∧
    demo.dev.hostMaySend 1 3 = false ∧ demo.dev.hostMaySend 0 3 = true ∧ (demo.dev.mbox 3).ring.length < 32 ∧
    32 ≤ ((mailing fullRing).dev.mbox 3).ring.length ∧
    gpread 0 0x20 2 demo.dev = .ok [0, 0] demo.dev ∧
    gpwrite 0 0x20 [7, 7] demo.dev = .ok () (deviceOf (gpwrite 0 0x20 [7, 7]) demo.dev) :=
  ⟨⟨rfl, by decide⟩, by decide +kernel, by decide +kernel, rfl, by decide +kernel, by decide +kernel,
    by decide, by decide +kernel, ok_of (by decide +kernel), after_of (by decide +kernel)⟩
/-- The page requests of HostPort: one written, which a reply with its tag finds; one that waits while the ring is full. -/
def waitingReq : PageReq := ⟨0, 4, 0, 1, 0, 0, 0x9000, none, false⟩
def ringFull : State := { hosted false [] with dev := { (hosted false []).dev with
  prqs := [waitingReq], fpages := [(0, { FuncPage.reset with prqtail := 256 })] } }
theorem meets_HostPort_pages : (∀ s ∈ [hosted false [], ringFull], HostReaches s 0) ∧
    ((hosted false []).dev.prqs.find? (fun r => r.vf == 0 && r.tag == 4 && r.written)).isSome = true ∧
    ((hosted false []).find 1).isSome = true ∧ ((0x10004 : Word).getLsbD 16 = true) ∧
    (∀ r ∈ (hosted false []).dev.prqs, r.vf = 0 → r.written = true) ∧
    (ringFull.dev.prqs.filter fun r => r.vf == 0 && !r.written) = [waitingReq] ∧
    256 ≤ (ringFull.dev.fpage 0).prqtail.toNat - (0 : Word).toNat ∧
    (ringFull.dev.fpage 0).prqtail.toNat - (1 : Word).toNat < 256 ∧
    (∀ r ∈ ringFull.dev.prqs, r.vf = 0 → r.tag = (4 : Word).toNat % 65536 → r.written = false) :=
  ⟨fun s hs => ⟨by revert s; decide +kernel, by decide⟩, by decide +kernel, by decide +kernel, by decide, by decide +kernel⟩

/-- PageRequests: a guest whose page stage 2 does not map, with no request, with one of its own, and with a full ring. -/
def pageLd : Operands := { opI 6 1 8 with ty := .n64 }
def unmapped (prqs : List PageReq) (tail : Word) : State := (guestOf 0).onDev fun d =>
  { d with prqs := prqs, fpages := [(1, { FuncPage.reset with prqtail := tail })] }
def ownReq : PageReq := ⟨1, 9, 0, 1, 2, 0, 0x2008, none, true⟩
def missesAt (s : State) : Bool :=
  let w := readyToWalk pageLd s
  match translate w.cur.ctx .load false (atOffset pageLd s.cur) w.dev with
  | .error (.s2 .tfLoad 0 2 false va) d => va == atOffset pageLd s.cur && d.prqs == s.dev.prqs &&
      (d.fpage 1).prqtail == (s.dev.fpage 1).prqtail && (d.fpage 1).prqhead == 0
  | _ => false
theorem meets_PageRequests : (∀ s ∈ [unmapped [] 0, unmapped [] 256, unmapped [ownReq] 0], s.cur.vf ≠ 0 ∧
      (atOffset pageLd s.cur).toNat % 8 = 0 ∧ missesAt s = true ∧ s.cur.pageTags = []) ∧
    ([ownReq].find? fun r => r.uid == 1 && r.gpage == 2 && r.vf == 1) = some ownReq := by decide +kernel

/-- AdminCommands: for each row a device that runs the command with arguments it takes. -/
theorem hosted_runs (ws : List (Nat × Word)) (op : Nat) (h : ((Tab.get 0 ws 0 : Word)).toNat = op) :
    AdminRuns (hosted true ws) 0 op := ⟨⟨rfl, by decide⟩, rfl, h⟩
theorem meets_AdminRows : ∀ e ∈ adminRows1 ++ adminRows2, ∃ s, AdminRuns s 0 e.2.1 ∧ e.2.2.1 s 0 := by
  simp only [adminRows1, adminRows2, List.mem_append, List.mem_cons, List.not_mem_nil, or_false]
  rintro e ((rfl | rfl | rfl | rfl | rfl) | (rfl | rfl | rfl))
  · exact ⟨_, hosted_runs [(0, 2), (1, 5)] 2 rfl, by decide +kernel⟩
  · exact ⟨_, hosted_runs [(0, 4), (1, 3), (2, 0x101)] 4 rfl, by decide +kernel⟩
  · exact ⟨_, hosted_runs [(0, 5), (1, 3), (2, 0x1000), (3, 0x2000)] 5 rfl, by decide +kernel⟩
  · exact ⟨_, hosted_runs [(0, 7), (1, 63)] 7 rfl, by decide +kernel⟩
  · exact ⟨_, hosted_runs [(0, 7), (1, 63), (2, 1)] 7 rfl, by decide +kernel⟩
  · exact ⟨_, hosted_runs [(0, 0x10), (1, 63), (2, 3), (3, 14), (4, 2)] 0x10 rfl, by decide +kernel⟩
  · exact ⟨_, hosted_runs [(0, 0x11), (1, 63), (2, 0x10000)] 0x11 rfl, by decide +kernel⟩
  · exact ⟨_, hosted_runs [(0, 0x13), (1, 15), (2, 0x10000000000), (3, 0x10000000000)] 0x13 rfl, by decide +kernel⟩

/-- ASSIGN waits for a command of the owner; S2INV of function 1 for a started command of its. -/
def owned1 : State := (hosted true [(0, 0x10), (1, 63), (2, 3), (3, 14), (4, 2)]).onDev fun d =>
  { d with fOwner := [(14, 1)], fpages := d.fpages ++ [(1, { FuncPage.reset with admbusy := true })] }
def s2inving (st : CmdState) : State := (hosted true [(0, 0x12), (1, 1)]).onDev fun d =>
  { d with cmds := [{ demoStrand.command 7 0 0 1 with state := st, vf := 1 }] }
theorem meets_AdminWaits : AdminRuns owned1 0 0x10 ∧ word_ owned1 0 2 < 4 ∧
    (∃ k < word_ owned1 0 4, ownerOf (objectOwners owned1.dev (word_ owned1 0 2)) (word_ owned1 0 3 + k) ≠ 0 ∧
      (owned1.dev.fpage (ownerOf (objectOwners owned1.dev (word_ owned1 0 2)) (word_ owned1 0 3 + k))).admbusy = true) ∧
    word_ owned1 0 3 + word_ owned1 0 4 ≤ kindCount (word_ owned1 0 2) ∧
    AdminRuns (s2inving .pushed) 0 0x12 ∧ (∀ c ∈ (s2inving .pushed).dev.cmds, c.vf = 1 → c.state ≠ .started) ∧
    AdminRuns (s2inving .started) 0 0x12 ∧ ∃ c ∈ (s2inving .started).dev.cmds, c.vf = 1 ∧ c.state = .started :=
  ⟨⟨⟨rfl, by decide⟩, rfl, rfl⟩, by decide +kernel, by decide +kernel, by decide +kernel, ⟨⟨rfl, by decide⟩, rfl, rfl⟩,
    by decide +kernel, ⟨⟨rfl, by decide⟩, rfl, rfl⟩, by decide +kernel⟩

/-- A queue record of 64 bytes at 0x9000: agent 0, no cores. -/
def setting : State :=
  let s := hosted true [(0, 3), (1, 2), (2, 0x9000)]
  { s with dev := poke [(0x9000, 8, 0)] s.dev }
def zeros64 : List Byte := List.replicate 64 0
theorem meets_AdminCommands :
    (∀ op ∈ [0x10, 0x11, 0x12, 0x13, 0x14], ∃ s, AdminRuns s 1 op) ∧
    (let s := hosted true [(0, 1), (1, 6), (2, 0x40)]
     AdminRuns s 0 1 ∧ ownerOf s.dev.aOwner 6 = 0 ∧ s.agentInUse 6 = false ∧ physOf 0 0x40 s.dev = some 0x40) ∧
    (AdminRuns setting 0 3 ∧ gpread 0 0x9000 64 setting.dev = .ok zeros64 setting.dev ∧ queueRecordOk 0 zeros64 = true ∧
      ownerOf setting.dev.aOwner 0 = 0 ∧ setting.queueInUse 2 = false) ∧
    AdminRuns (hosted true [(0, 6), (1, 2)]) 0 6 ∧
    (let s := hosted true [(0, 7), (2, 2)]
     AdminRuns s 0 7 ∧ s.strandAt 0 0 0 = some s.cur ∧ ∀ x, s.cur.status ≠ .halted x) ∧
    (let s : State := { hosted true [(0, 7), (2, 3)] with cur := { demoStrand with status := .halted none } }
     AdminRuns s 0 7 ∧ s.strandAt 0 0 0 = some s.cur ∧ s.cur.status = .halted none) ∧
    (let s := hosted true [(0, 0x14), (1, 3), (2, 0x9000)]
     AdminRuns s 0 0x14 ∧ gpread 0 0x9000 32 s.dev = .ok (List.replicate 32 0) s.dev) := by
  refine ⟨fun op h => ?_, ⟨⟨⟨rfl, by decide⟩, rfl, rfl⟩, by decide +kernel, by decide +kernel, by decide +kernel⟩,
    ⟨⟨⟨by decide +kernel, by decide⟩, by decide +kernel, by decide +kernel⟩, ok_of (by decide +kernel), by decide +kernel, by decide +kernel, by decide +kernel⟩,
    hosted_runs [(0, 6), (1, 2)] 6 rfl, ⟨hosted_runs [(0, 7), (2, 2)] 7 rfl, by decide +kernel, fun x h => by cases h⟩,
    ⟨⟨⟨rfl, by decide⟩, rfl, rfl⟩, by decide +kernel, rfl⟩,
    ⟨hosted_runs [(0, 0x14), (1, 3), (2, 0x9000)] 0x14 rfl, ok_of (by decide +kernel)⟩⟩
  refine ⟨{ demo with dev := { demo.dev with
    fpages := [(1, { FuncPage.reset with admbuf := [(0, BitVec.ofNat 64 op)], admbusy := true })] } }, ⟨rfl, by decide⟩, rfl, ?_⟩
  revert op
  decide +kernel

/-- CodeObjects: an object of one section of eight bytes, with no kernel, at 0x10000, to be loaded at 0x40000; and an object
whose first bytes are wrong. -/
def imageCells : List (Nat × Nat × Nat) :=
  [(0, 8, 0x0001000148434F31), (0x08, 8, 0x120), (0x10, 4, 1), (0x18, 8, 0x80), (0x28, 8, 0xA0), (0x80, 8, 0x30303),
   (0x88, 8, 0xA0), (0x98, 8, 8)]
/-- The signature of the bytes before it: the point R of r is the key's point less G, and s is r, so that a verifier's
multiples are short. -/
def signatureCells : List (Nat × Nat × Nat) :=
  [(0xA0, 8, 0x692964EB53A7B486), (0xA8, 8, 0x4780D653BD2D1C5F), (0xB0, 8, 0xAA9E2744EA402593), (0xB8, 8, 0xC5374FA2E6FE3C3A),
   (0xC0, 8, 0x263E1F753A39102E), (0xC8, 8, 0x2F8960F0CED4A867), (0xD0, 8, 0x1CCD9E84E242D6E7), (0xD8, 8, 0xF62A3A4E70FEEB01),
   (0xE0, 8, 0x263E1F753A39102E), (0xE8, 8, 0x2F8960F0CED4A867), (0xF0, 8, 0x1CCD9E84E242D6E7), (0xF8, 8, 0xF62A3A4E70FEEB01)]
def imageAt : Device := poke ((imageCells ++ signatureCells).map fun e => (0x10000 + e.1, e.2)) (wired [])
def image : List Byte := (List.range 0x120).map fun k => imageAt.readByte (0x10000 + k)
def loading (a : Word) : State :=
  { demo with dev := { imageAt with
      fpages := [(0, { FuncPage.reset with admbuf := [(0, 8), (1, a), (2, 0x40000), (3, 5)], admbusy := true })]
      agents := [(5, ⟨0, 0xA000⟩)], tlb := [{ identity with core := 4096 }]
      keys := [(0, BitVec.ofNat 256 (fieldAt image 0xA0 32), 1)] } }
theorem signature_verifies : signatureOk image = true := by decide +kernel
/-- The digest of FIPS 180-4's example of three bytes. -/
theorem test_sha256 : sha256 [0x61, 0x62, 0x63] = [0xba, 0x78, 0x16, 0xbf, 0x8f, 0x01, 0xcf, 0xea, 0x41, 0x41, 0x40, 0xde,
    0x5d, 0xae, 0x22, 0x23, 0xb0, 0x03, 0x61, 0xa3, 0x96, 0x17, 0x7a, 0x9c, 0xb4, 0x10, 0xff, 0x61, 0xf2, 0x00, 0x15, 0xad] := by
  decide +kernel
theorem meets_Load : (∀ a ∈ [0x10000, 0x20000], AdminRuns (loading a) 0 8) ∧ ownerOf (loading 0x10000).dev.aOwner 5 = 0 ∧
    (loading 0x10000).dev.agentOf 5 0 = some ⟨0, 0xA000⟩ ∧
    readImage 0 0x20000 (loading 0x20000).dev = .ok (List.replicate 128 0) (loading 0x20000).dev ∧
    loadChecks (loading 0x20000).dev 0 (List.replicate 128 0) = some 1 ∧
    readImage 0 0x10000 (loading 0x10000).dev = .ok image (loading 0x10000).dev ∧
    loadChecks (loading 0x10000).dev 0 image = none ∧
    ∃ ws, loadAll ⟨loaderCore, 0, 0, 0, true⟩ (loadWrites image 0x40000 1) (loading 0x10000).dev =
      .ok ws (loading 0x10000).dev := by
  refine ⟨fun a h => ?_, by decide +kernel, by decide +kernel, ok_of (by decide +kernel), ?_, ok_of (by decide +kernel), ?_,
    _, ok_of (x := (List.range 8).map fun k => (0x40000 + k, 0)) (by decide +kernel)⟩
  · simp only [List.mem_cons, List.not_mem_nil, or_false] at h
    obtain rfl | rfl := h
    all_goals exact ⟨⟨by decide +kernel, by decide⟩, by decide +kernel, by decide +kernel⟩
  · have h : (fieldAt (List.replicate 128 0) 0 4 != 0x48434F31) = true := by decide +kernel
    rw [loadChecks, if_pos h]
  · have h0 : ¬ ((fieldAt image 0 4 != 0x48434F31) = true) := by decide +kernel
    have h1 : ¬ ((fieldAt image 4 2 != 1) = true) := by decide +kernel
    have h2 : ¬ ((!(headerOk image)) = true) := by decide +kernel
    have h3 : ¬ ((!((loading 0x10000).dev.trusts 0 image)) = true) := by decide +kernel
    have h4 : ¬ ((!(fieldAt image 6 1 == 1 || fieldAt image 6 1 == 2)) = true) := by decide +kernel
    have h5 : ¬ ((!(tablesOk image)) = true) := by decide +kernel
    rw [loadChecks, if_neg h0, if_neg h1, if_neg h2, if_neg (by rw [signature_verifies]; decide), if_neg h3, if_neg h4,
      if_neg h5]

/-- Generation 1 is loaded; it is being unloaded and a strand of it lives, or none. -/
def unloading (gen : Nat) : State :=
  let s := hosted true [(0, 9), (1, 1), (2, 0x9000)]
  { s with cur := { demoStrand with kern := ⟨64, 1, 2, 16, gen⟩ }
           dev := { s.dev with loaded := [⟨1, 2, 0, false⟩], unloads := [⟨1, 2, 0, 0x9000⟩] } }
theorem meets_Unload : AdminRuns (unloading 0) 0 9 ∧
    ((unloading 0).dev.loaded.find? (fun l => l.gen == 1 && l.vf == 0 && !l.unloading)).isSome = true ∧
    ((unloading 0).dev.unloads.find? (fun u => u.gen == 1)) = some ⟨1, 2, 0, 0x9000⟩ ∧
    (∃ c ∈ (unloading 1).strands, c.live = true ∧ c.kern.gen = 1) ∧
    (∀ c ∈ (unloading 0).strands, c.live = true → c.kern.gen ≠ 1) ∧
    ∃ d, gpwrite 0 0x9000 (bytesLE 8 2) (unloading 0).dev = .ok () d :=
  ⟨⟨⟨rfl, by decide⟩, rfl, rfl⟩, by decide +kernel, rfl, by decide +kernel, by decide +kernel, _,
    after_of (by decide +kernel)⟩

/-! ### The memory system, links, monitors, the machine -/

/-- MemorySystem: a bound register on a core, and a full queue; a buffer of two stores of one .u instruction, and of ones
that are none; a stack with a held activate, one at its limit, one with a retry and one with a retry at its limit. -/
def stored (us : List (Option Nat)) : State := demoWith fun c =>
  { c with buf := us.map fun u => ⟨0x3000, [7], [], u, .empty⟩, binds := [⟨6, 0, 0, 0, 0, 0, 0, 0, 0, 0, none⟩] }
def stacked : State :=
  { demo with dev := { demo.dev with
      gtime := 5000, elastic := [(1, 64)]
      stks := [(1, ⟨4096, [4900], 1, [], []⟩), (2, ⟨1, [4900], 0, [(2, 4000)], [4000]⟩), (3, ⟨4096, [4900], 0, [(2, 4000)], [4000]⟩)] } }
theorem meets_MemorySystem_queues : (Tab.get 0 demo.dev.elastic 0 < 64 ∧ ∃ c ∈ (stored []).strands, c.resident = true ∧ c.core = 0 ∧ c.binds ≠ []) ∧
    64 ≤ Tab.get 0 stacked.dev.elastic 1 ∧ (¬ ∃ c ∈ demo.strands, c.resident = true ∧ c.core = 0 ∧ c.binds ≠ []) :=
  ⟨⟨by decide +kernel, by decide +kernel⟩, by decide +kernel, by decide +kernel⟩
theorem meets_MemorySystem_stores : ((stored [none]).find 1 = some (stored [none]).cur ∧ (stored [none]).cur.buf.head?.isSome = true) ∧
    (let s := stored [some 4, some 4]
     s.find 1 = some s.cur ∧ s.cur.buf[1]?.isSome = true ∧ ∀ y ∈ s.cur.buf.take 2, y.u = some 4) ∧
    (let s := stored [none, some 4]
     s.find 1 = some s.cur ∧ ∀ y, s.cur.buf.head? = some y → y.u = none) :=
  ⟨⟨rfl, rfl⟩, ⟨rfl, rfl, by decide +kernel⟩, rfl, fun y hy => by cases hy; rfl⟩
theorem meets_MemorySystem_stacks : (let now := stacked.dev.gtime.toNat
     let recent := fun (k : Nat) => ((stacked.dev.stack k).acts.filter fun t => decide (now < t + 1000)).length
     0 < (stacked.dev.stack 1).held ∧ recent 1 < (stacked.dev.stack 1).actlim ∧ (stacked.dev.stack 2).actlim ≤ recent 2 ∧
     (∀ k ∈ [2, 3], (stacked.dev.stack k).retries.find? (fun t => decide (t ≤ now)) = some 4000) ∧
     recent 3 < (stacked.dev.stack 3).actlim) ∧ 64 * 5 < 0xC000000000 :=
  ⟨by decide +kernel, by decide⟩
/-- PageMoves: one in progress, frames that are in none, and as many as there may be. -/
def moving : State := { demo with dev := { demo.dev with migs := [⟨4, 5, 3, false⟩] } }
def manyMoves : State :=
  { demo with dev := { demo.dev with migs := (List.range 64).map fun k => ⟨2 * k, 2 * k + 1, 0, false⟩ } }
theorem meets_PageMoves : (demo.dev.migs.length < 64 ∧ (∀ m ∈ demo.dev.migs, m.old ≠ 4 ∧ m.new ≠ 4) ∧
      (∀ m ∈ demo.dev.migs, m.old ≠ 5 ∧ m.new ≠ 5) ∧ demo.dev.backed 0x4000 = true ∧ demo.dev.backed 0x5000 = true) ∧
    (64 ≤ manyMoves.dev.migs.length ∧ ¬ (∀ m ∈ moving.dev.migs, m.old ≠ 4 ∧ m.new ≠ 4) ∧
      ¬ (∀ m ∈ moving.dev.migs, m.old ≠ 5 ∧ m.new ≠ 5) ∧ demo.dev.backed (0x10000000 * 4096) = false) ∧
    moving.dev.migs = [⟨4, 5, 3, false⟩] :=
  ⟨by decide +kernel, by decide +kernel, rfl⟩


/-- ErrorsAndActivates: a stack with room and one at its limit, a line of a stack and one of a backed pool, a group with a
window, and a strand with a slice. -/
def pooled : State := { demo with dev := { demo.dev with farwins := [(0, 0xC000000000, 0x1000)] } }
theorem meets_ErrorsAndActivates : (let now := stacked.dev.gtime.toNat
     let recent := fun (k : Nat) => ((stacked.dev.stack k).acts.filter fun t => decide (now < t + 1000)).length
     recent 1 < (stacked.dev.stack 1).actlim ∧ (stacked.dev.stack 2).actlim ≤ recent 2) ∧ 64 * 5 < 0xC000000000 ∧
    (∃ line, 0xC000000000 ≤ 64 * line ∧ pooled.dev.backed (64 * line) = true) ∧
    (∃ w : Scratch, demo.dev.window 1 = some w ∧ w.live = true ∧ 100 < 4096 * w.slots) ∧
    demo.find 1 = some demo.cur ∧ 100 < 1024 * demo.cur.kern.slice :=
  ⟨by decide +kernel, by decide, ⟨0x300000000, by decide, by decide +kernel⟩, ⟨_, rfl, rfl, by decide⟩, rfl, by decide⟩

/-- FlitsArrive: flits of every kind, in sequence, ahead and behind; one of a reserved kind; one that is too long; one that
fails; a port that is down. -/
def flit (kind seq : Nat) : List Byte := makeFlit ⟨kind, seq, 0, true, 0, 0, 1, 8⟩ [0, 0, 0, 0, 1, 2, 3, 4]
def longFlit : List Byte := makeFlit ⟨3, 0, 0, true, 0, 0, 1, 245⟩ []
def downed : State := { demo with dev := demo.dev.updPort 3 fun x => { x with up := false } }
theorem kind_of_flit : ∀ e ∈ [(1, 0), (1, 1), (1, 2047), (1, 2048), (2, 0), (3, 0), (4, 0), (5, 0), (6, 0)],
    (headerOf (flit e.1 e.2)).kind = e.1 ∧ (headerOf (flit e.1 e.2)).len ≤ 244 := by decide +kernel
theorem meets_FlitsArrive : (∀ e ∈ [(1, 0), (1, 1), (1, 2047), (1, 2048), (2, 0), (3, 0), (4, 0), (5, 0), (6, 0)],
      FlitArrives demo 0 e.1 (flit e.1 e.2) ∧ (headerOf (flit e.1 e.2)).len ≤ 244) ∧ flitOk (flit 7 0) = true ∧
    6 < (headerOf (flit 7 0)).kind ∧ (flitOk longFlit = true ∧ (headerOf longFlit).kind = 3 ∧ 244 < (headerOf longFlit).len) ∧
    flitOk [] = false ∧ (downed.dev.port 3).up = false ∧
    (∀ q ∈ [0, 1, 2047, 2048], ((headerOf (flit 1 q)).seq + 4096 -
      ((demo.onDev fun d => d.takeAck 0 (headerOf (flit 1 q))).dev.port 0).expected) % 4096 = q) ∧
    ((demo.onDev fun d => d.takeAck 0 (headerOf (flit 5 0))).dev.port 0).up = true :=
  ⟨fun e he => ⟨⟨by decide, rfl, flitOk_makeFlit _ _, (kind_of_flit e he).1⟩, (kind_of_flit e he).2⟩, flitOk_makeFlit _ _,
    by decide +kernel, ⟨flitOk_makeFlit _ _, by decide +kernel⟩, rfl, rfl, by decide +kernel, by decide +kernel⟩

/-- PortTimers: ports that wait for an acknowledgement, with a bad lane, under repair, on seven lanes; a device that has
lost its time, and one that is brought up. -/
def timed : State :=
  { demo with dev := { demo.dev with
      gtime := 20000000, sync := ⟨2, 0, 0, 0, 0, false⟩, routes := [(3, 1)]
      eses := [{ Ese.reset 3 with lastDelivery := some 19500000 }, { Ese.reset 4 with lastDelivery := some 5 }]
      ports := [(1, { Port.reset with replay := [(0, [])] }),
                (2, { Port.reset with laneErrs := List.replicate 8 (5, 19999999) }),
                (3, { Port.reset with repairing := some 5, draining := true }),
                (4, { Port.reset with lanes := 7, dropped := some 1, laneErrs := List.replicate 8 (5, 19999999) })] } }
theorem meets_PortTimers_replay : (∀ p < 5, (timed.dev.port p).up = true) ∧
    ((timed.dev.port 1).repairing = none ∧ (timed.dev.port 1).replay ≠ [] ∧
      (timed.dev.port 1).lastAck + 2000 ≤ timed.dev.gtime.toNat) ∧ (timed.dev.port 0).replay = [] :=
  ⟨by decide +kernel, by decide +kernel, by decide +kernel⟩
theorem meets_PortTimers_repair : (∀ p ∈ [2, 4], (timed.dev.port p).dropped ≠ some 5 ∧ (timed.dev.port p).repairing ≠ some 5 ∧ timed.dev.ltHr ≤
      ((timed.dev.port p).laneErrs.filter fun e => e.1 == 5 && decide (timed.dev.gtime.toNat < e.2 + 1000000)).length) ∧
    ((timed.dev.port 2).lanes = 8 ∧ (timed.dev.port 2).repairing = none ∧ (timed.dev.port 4).lanes ≠ 8) ∧
    ((timed.dev.port 3).repairing = some 5 ∧ (timed.dev.port 3).draining = true ∧
      (timed.dev.port 3).repairAt + 10000 ≤ timed.dev.gtime.toNat) ∧ NoneLeaving timed :=
  ⟨by decide +kernel, by decide +kernel, by decide +kernel, by unfold NoneLeaving; decide +kernel⟩
theorem meets_PortTimers_time : ((timed.dev.ese 3).lastDelivery = some 19500000 ∧ timed.dev.gtime.toNat ≤ 19500000 + 1000000 ∧
      (timed.dev.ese 4).lastDelivery = some 5 ∧ 5 + 1000000 < timed.dev.gtime.toNat) ∧ timed.dev.routeTo 3 = some 1 ∧
    timed.dev.sync.depth ≠ 0 ∧ timed.dev.sync.lastUsable + 10000000 ≤ timed.dev.gtime.toNat ∧
    (∀ c ∈ State.reset.strands, c.live = false) ∧ ∃ c ∈ timed.strands, c.live = true :=
  by decide +kernel

/-- PowerAndMonitors: units that sample one quantity per event, in time, with and without samples before; a bring-up that
has not come to the arbiter; a core with a strand, and one with none. -/
def monitored : State :=
  { demo with dev := { demo.dev with
      redivided := true
      monitors := [(1, ⟨0x8000000000000001, 0, ⟨2, 4, 2, 6, []⟩, .clear, 0⟩), (2, ⟨0x8000000000000003, 0, .clear, .clear, 0⟩)] } }
theorem meets_PowerAndMonitors_units : (∀ u ∈ [1, 2], u < 64 ∧ (monitored.dev.monitor u).cfg.getLsbD 63 = true) ∧
    (monitored.dev.monitor 1).cfg.toNat % 256 ∈ eventQuantities ∧ (monitored.dev.monitor 2).cfg.toNat % 256 ∈ countQuantities ∧
    0 < (monitored.dev.monitor 1).now.count ∧ (monitored.dev.monitor 2).now.count = 0 :=
  by decide +kernel
theorem meets_PowerAndMonitors_cores :
    (5 ≤ demo.dev.broughtUp ∧ ({ demo.dev with broughtUp := 4 } : Device).broughtUp < 5) ∧ demo.onCore 151 = [] ∧
    demo.onCore 0 = [demo.cur] ∧ demo.find 1 = some demo.cur ∧ demo.cur.live = true ∧ demo.cur.leaving = none :=
  ⟨by decide, by decide +kernel, by decide +kernel, rfl, rfl, rfl⟩

/-- Residency: register 5 of the demonstration strand is absent, and its place in the backing area poisoned; a file that is
too full; a register written since it was loaded. -/
def saved (f : Device → Device) : State :=
  { demo with cur := { demo.cur with ctxArea := some 0x40000, backing := 0x80000 }, dev := f demo.dev }
theorem meets_Residency_lost : let s := saved fun d => { d with poison := [(0x80000 + 5 * 256) / 64] }
    Absent s s.cur 5 ∧ s.cur.ctxArea ≠ none ∧ s.cur.backing % 64 = 0 ∧ s.cur.gvl % 16 = 0 ∧
      ∃ k < 4 * s.cur.gvl, marked s.dev (placeOf s.cur 5 + k) :=
  ⟨by unfold Absent; decide +kernel, by decide, rfl, rfl, 0, by decide, by unfold marked; decide +kernel⟩
theorem clean_of {d : Device} (h : d.poison = []) (hu : d.unreachable = []) (pa : Nat) : d.poisoned pa = false := by
  simp [Device.poisoned, Device.remoteLost, h, hu]
theorem meets_Residency_file : let s := saved fun d => { d with resid := [⟨1, 2, 0, true⟩] }
    Owned s ∧ s.cur.gvl ≤ 4096 ∧ s.cur.backing % 64 = 0 ∧ s.cur.gvl % 16 = 0 ∧
      (∀ r ∈ [2, 5], Absent s s.cur r → ∀ k < 4 * s.cur.gvl, s.dev.poisoned (placeOf s.cur r + k) = false) ∧
      (onFile s).length + [2, 5].length ≤ 256 :=
  ⟨by unfold Owned; decide +kernel, by decide, rfl, rfl, fun _ _ _ _ _ => clean_of rfl rfl _, by decide +kernel⟩

/-- Forty registers of 16 KiB: more than the file holds, named one after the other. -/
def crowded : State :=
  { demo with cur := { demo.cur with csr := { demo.cur.csr with gvl := 4096 }, ctxArea := some 0x40000, backing := 0x80000, fileDirty := 1 }
              dev := { demo.dev with resid := (List.range 40).map fun k => ⟨1, k, k, false⟩ } }
theorem meets_Residency_evict : Owned crowded ∧ ((onFile demo).map (bytesOf demo)).sum ≤ 524288 ∧
    524288 < ((onFile crowded).map (bytesOf crowded)).sum ∧ Evictable crowded [1] ⟨1, 0, 0, false⟩ ∧
    (∀ x, Evictable crowded [1] x → x = ⟨1, 0, 0, false⟩ ∨ NamedBefore crowded ⟨1, 0, 0, false⟩ x) := by
  have hf : onFile crowded = (List.range 40).map fun k => ⟨1, k, k, false⟩ := by decide +kernel
  refine ⟨by unfold Owned; decide +kernel, by decide +kernel, by decide +kernel,
    .inl ⟨⟨by rw [hf]; decide, by decide +kernel, ?_⟩, by decide +kernel⟩, fun x hx => ?_⟩
  · intro c hc _
    obtain rfl := List.mem_singleton.1 hc
    rintro (⟨p, n, h⟩ | ⟨m, k, n, h⟩) <;> cases h
  have hm : x ∈ onFile crowded := hx.elim (·.1.1) (·.1.1)
  rw [hf] at hm
  obtain ⟨k, _, rfl⟩ := List.mem_map.1 hm
  rcases k with _ | k
  · exact .inl rfl
  · exact .inr (.inl (Nat.succ_pos k))
/-- An open convoy that names all of them: it issues instruction by instruction (R159). -/
def convoyed : State := { crowded with cur := { crowded.cur with convoy := { Convoy.closed with isOpen := true, named := List.range 40 } } }
theorem meets_Residency_convoy : Owned convoyed ∧ 524288 < ((onFile convoyed).map (bytesOf convoyed)).sum ∧
    (∀ y, ¬ OutOfConvoys convoyed [1] y) ∧ Evictable convoyed [1] ⟨1, 0, 0, false⟩ := by
  have hf : onFile convoyed = (List.range 40).map fun k => ⟨1, k, k, false⟩ := by decide +kernel
  have hn : ∀ y, ¬ OutOfConvoys convoyed [1] y := by
    rintro y ⟨⟨hm, -, -⟩, hc⟩
    rw [hf] at hm
    obtain ⟨k, hk, rfl⟩ := List.mem_map.1 hm
    exact hc convoyed.cur (List.mem_singleton.2 rfl) rfl rfl hk
  refine ⟨by unfold Owned; decide +kernel, by decide +kernel, hn, .inr ⟨⟨by rw [hf]; decide, by decide +kernel, ?_⟩, hn⟩⟩
  intro c hc _
  obtain rfl := List.mem_singleton.1 hc
  rintro (⟨p, n, h⟩ | ⟨m, k, n, h⟩) <;> cases h
theorem meets_Residency_out : crowded.find 1 = some crowded.cur ∧ crowded.cur.fileDirty.getLsbD 0 = true ∧
    crowded.cur.fileDirty.getLsbD 7 = false ∧ crowded.cur.ctxArea ≠ none ∧
    crowded.dev.movesIn (placeOf crowded.cur 0) (4 * crowded.cur.gvl) = false ∧ crowded.cur.backing % 64 = 0 ∧
    crowded.cur.gvl % 16 = 0 :=
  ⟨rfl, by decide, by decide, by decide, rfl, rfl, rfl⟩

/-! ### The machine -/

/-- StepRunsDecoded: STRIP s5 stands at the pc; the strand steps, has a request, waits, has stepped, or an event is due. -/
def stepping (f : Strand → Strand) : State := { demoWith f with dev := poke [(0x1000, 4, 0x100014A8)] demo.dev }
def stripOp : Operands := fS 21 1 false 5 0 0
theorem turn_at (s : State) (h : s.agenda = []) : TurnAt s s.tick.freeTurn := .inl ⟨h, rfl⟩
theorem meets_StepRunsDecoded (b : Bool) : let s := stepping fun c => { c with step1 := b }
    let u := s.tick.freeTurn
    TurnAt s u ∧ u.dev.issues u.cur = true ∧ u.cur.preemptNow = false ∧ u.cur.stepDone = false ∧ u.cur.step1 = b ∧
      Fetches (u.onCur (·.nearer)) (.strip stripOp) := by
  refine ⟨turn_at _ rfl, ?_, ?_, ?_, ?_, [0xA8, 0x14, 0, 0x10], ?_, fun k hk => ?_⟩
  · revert b; decide +kernel
  · revert b; decide +kernel
  · revert b; decide +kernel
  · revert b; decide +kernel
  · revert b; decide +kernel
  · obtain rfl : k = 0 := by simp at hk; omega
    exact ⟨0x1000, translates_of_reaches (by revert b; decide +kernel), by revert b; decide +kernel, by revert b; decide +kernel⟩
theorem meets_StepRunsDecoded_turns :
    (∀ f ∈ [fun c : Strand => { c with preempt := some 0 }, fun c => { c with stepDone := true }],
      let u := (stepping f).tick.freeTurn
      u.dev.issues u.cur = true ∧ (u.cur.preemptNow = true ∨ u.cur.stepDone = true)) ∧
    (let u := (stepping fun c => { c with status := .parked }).tick.freeTurn
     u.dev.issues u.cur = false) ∧
    (let s : State := { demo with agenda := [.strand 1] }
     TurnAt s ({ s.tick with agenda := [] }.turnTo 1)) ∧
    ({ demo with agenda := [.happens (.activate 0)] } : State).agenda = .happens (.activate 0) :: [] :=
  ⟨by decide +kernel, by decide +kernel, .inr ⟨1, [], rfl, rfl⟩, rfl⟩

theorem meets_RoundTrip : (Instr.strip stripOp).wellFormed ∧ (Instr.strip stripOp).ops = some stripOp :=
  ⟨⟨by decide, _, rfl, rfl⟩, rfl⟩
theorem meets_InvariantStep : demo.Inv := ⟨by decide +kernel, by simp [demo, State.reset, State.strands, Strand.levelOk, demoStrand, Strand.reset, Sups.reset]⟩

/-! ### Walks, refused accesses, streams -/

/-- Tables with an entry for virtual address 0x40403010, from the root at 0: indices 0, 1, 2, 3. -/
def walkVa : Word := 0x40403010
def tables (e : Nat) : Device := poke [(0, 8, 0x11001), (0x11008, 8, 0x12001), (0x12010, 8, 0x13001), (0x13018, 8, e)] demo.dev
def tabled (e : Nat) : State := { demo with dev := tables e, cur := { demo.cur with regs := { demo.cur.regs with s := [(1, walkVa)] } } }
def entryPlace : Nat → Nat
  | 0 => 0x13018 | 1 => 0x12010 | 2 => 0x11008 | _ => 0

/-- Checks of an entry's class, by computation. -/
def soundB (e : Nat) : Bool :=
  e.testBit 0 && decide (e < 2 ^ 60) && !(e.testBit 11) && !(e.testBit 10) && (!(e.testBit 2) || e.testBit 1)
theorem sound_of {l e : Nat} (h : soundB e = true) : EntrySound false l e := by
  simp only [soundB, Bool.and_eq_true, decide_eq_true_eq, Bool.not_eq_true', Bool.or_eq_true] at h
  obtain ⟨⟨⟨⟨h0, h1⟩, h2⟩, h3⟩, h4⟩ := h
  have h5 := Nat.div_eq_of_lt h1
  refine ⟨h0, ?_, ?_, by simp [h3]⟩
  · exact fun h => h.elim (absurd h5) fun h => by simp [h2] at h
  · rcases h4 with h | h <;> simp [writeOnly, h]
theorem pointer_of {l e : Nat} (h : (soundB e && !(entryRights e) && l != 0) = true) : IsPointer false l e := by
  simp only [Bool.and_eq_true, Bool.not_eq_true', bne_iff_ne] at h
  exact ⟨sound_of h.1.1, h.1.2, h.2⟩
theorem leaf_of {e : Nat} (h : (soundB e && entryRights e) = true) : IsLeaf false 0 e := by
  simp only [Bool.and_eq_true] at h
  exact ⟨sound_of h.1, h.2, by decide, Nat.mod_one _⟩

theorem home_of {d : Device} {c : Ctx} {acc : Acc} {va : Word} {w : Bool} {a : Nat} (h : c.vf = 0) :
    HomeOf d c acc va w a a := by
  unfold HomeOf guestPhys
  rw [h]
  rfl

/-- The walk comes to a level of tables, by computation. -/
def comesB (d : Device) (c : Ctx) (va : Word) (at_ : Nat → Nat) (l : Nat) : Bool :=
  c.vf == 0 && (List.range 4).all fun m => decide (m < l) || (namedSlot d.readByte c.root va.toNat at_ m == at_ m &&
    (m == l || (d.backed (at_ m) && !(d.poisoned (at_ m)) &&
      (soundB (entryAt d.readByte (at_ m)) && !(entryRights (entryAt d.readByte (at_ m))) && m != 0))))
theorem comes_of {d : Device} {c : Ctx} {acc : Acc} {va : Word} {at_ : Nat → Nat} {l : Nat} (hl : l ≤ 3)
    (h : comesB d c va at_ l = true) : WalkComesTo d d.readByte c acc va at_ l := by
  simp only [comesB, Bool.and_eq_true, beq_iff_eq, List.all_eq_true, List.mem_range, Bool.or_eq_true,
    decide_eq_true_eq] at h
  refine ⟨hl, fun m h1 h2 => ?_, fun m h1 h2 => ?_⟩
  · rcases h.2 m (by omega) with h' | h'
    · omega
    · rw [h'.1]
      exact home_of h.1
  · rcases h.2 m (by omega) with h' | h'
    · omega
    · rcases h'.2 with rfl | h''
      · omega
      · exact ⟨h''.1.1, by simpa using h''.1.2, pointer_of (by simpa using h''.2)⟩

/-- PageWalks: an absent entry, a leaf without U at level 0, a demand-zero entry of no agent, a poisoned line, an unbacked
table. -/
def userCtx : Ctx := demo.cur.ctx
theorem meets_PageWalks_stops : (∀ e ∈ [0, 0x5003, 0x416, 0x501F, 0x505F], WalkComesTo (tables e) (tables e).readByte userCtx .load
      walkVa entryPlace 0) ∧
    EntryStops (tables 0) (tables 0).readByte userCtx .load 0 0x13018 .tfLoad ∧
    EntryStops (tables 0x5003) (tables 0x5003).readByte userCtx .load 0 0x13018 .tpLoad ∧
    EntryStops (tables 0x416) (tables 0x416).readByte userCtx .load 0 0x13018 .tfLoad ∧
    (let d := (tables 0).setPoison 0x4C0 true
     WalkComesTo d d.readByte userCtx .load walkVa entryPlace 0 ∧ EntryStops d d.readByte userCtx .load 0 0x13018 .poison) ∧
    let d := poke [(0x12010, 8, 0xC000000001)] (tables 0)
    let at_ := fun m => if m = 0 then 0xC000000018 else entryPlace m
    WalkComesTo d d.readByte userCtx .load walkVa at_ 0 ∧ EntryStops d d.readByte userCtx .load 0 0xC000000018 .tfLoad := by
  have h0 : entryAt (tables 0).readByte 0x13018 = 0 := by decide +kernel
  have h1 : entryAt (tables 0x5003).readByte 0x13018 = 0x5003 := by decide +kernel
  have h2 : entryAt (tables 0x416).readByte 0x13018 = 0x416 := by decide +kernel
  refine ⟨fun e he => comes_of (by decide) (by revert e; decide +kernel), .inr (.inr ⟨by decide +kernel, by decide +kernel, .inl ?_⟩),
    .inr (.inr ⟨by decide +kernel, by decide +kernel, .inr (.inl ?_)⟩),
    .inr (.inr ⟨by decide +kernel, by decide +kernel, .inr (.inr ?_)⟩),
    ⟨comes_of (by decide) (by decide +kernel), .inr (.inl ⟨by decide +kernel, by decide +kernel, rfl⟩)⟩,
    comes_of (by decide) (by decide +kernel), .inl ⟨by decide +kernel, rfl⟩⟩
  · rw [h0]
    simp [IsZero, IsPointer, IsLeaf, EntrySound, Acc.tf]
  · rw [h1]
    exact ⟨leaf_of (by decide), by unfold AllowedBy Allowed; decide, rfl⟩
  · rw [h2]
    exact ⟨by unfold IsZero entryReserved writeOnly; decide, .inl ⟨by decide +kernel, rfl⟩⟩

/-- A leaf that grants a store, with A and D to set, and one that has them; a demand-zero entry of an agent with a frame in its pool,
and at its quota. -/
def stocked (limit : Nat) : Device :=
  { poke [(0x6020, 4, limit), (0x6028, 8, 0x7000), (0x7000, 4, 1), (0x7008, 8, 0x7100), (0x7100, 8, 0x9000)] (tables 0x416) with
    agents := [(0, ⟨0, 0x6000⟩)] }
theorem meets_PageWalks_leaf : (∀ e ∈ [0x501F, 0x507F], let d := tables e
      entryAt d.readByte 0x13018 = e ∧ d.backed 0x13018 = true ∧ d.poisoned 0x13018 = false ∧ IsLeaf false 0 e ∧
      AllowedBy .store userCtx.super e ∧ d.migs = [] ∧ d.tlbHit userCtx walkVa.toNat = none ∧
      d.backed (leafAddr 0 e walkVa.toNat) = true) ∧ ¬ OutsidePages walkVa ∧
    (∀ limit ∈ [0, 1], let d := stocked limit
      WalkComesTo d d.readByte userCtx .store walkVa entryPlace 0 ∧ entryAt d.readByte 0x13018 = 0x416 ∧ IsZero 0 0x416 ∧
      d.agentOf (entryDomain 0x416) 0 = some ⟨0, 0x6000⟩ ∧ limitOf d.readByte 0x6000 = limit ∧ usedOf d.readByte 0x6000 = 0 ∧
      poolOf d.readByte 0x6000 = 0x7000 ∧ countOf d.readByte 0x7000 = 1 ∧ entryAt d.readByte 0x7008 = 0x7100) := by
  refine ⟨fun e he => ⟨?_, ?_, ?_, leaf_of ?_, ?_, ?_, ?_, ?_⟩, by unfold OutsidePages; decide, fun l hl => ⟨comes_of (by decide) ?_, ?_, ?_, ?_, ?_, ?_, ?_, ?_, ?_⟩⟩
  case refine_5 => unfold AllowedBy Allowed; revert e; decide +kernel
  case refine_11 => unfold IsZero entryReserved writeOnly; decide
  all_goals first | (revert e; decide +kernel) | (revert l; decide +kernel)

/-- The guest's stage 2: pointers to its entry of the first 2^30 bytes, which grants, lacks W, or is absent. -/
def stage2Place : Nat → Nat
  | 2 => 0x101000 | _ => 0x100000
theorem meets_PageWalks_stage2 : ∀ e ∈ [(0x6F : Byte), 0x0B, 0], let d := (guestOf e).dev
    d.s2roots.find? (·.1 == 1) = some (1, 0x100) ∧ Stage2ComesTo d 0x100 0x2000 stage2Place 2 ∧
    entryAt d.readByte 0x101000 = e.toNat ∧ d.backed 0x101000 = true ∧ d.poisoned 0x101000 = false := by
  intro e he
  refine ⟨rfl, ⟨by decide, fun m h1 h2 => ?_, fun m h1 h2 => ?_⟩, ?_, ?_, ?_⟩
  · obtain rfl | rfl : m = 2 ∨ m = 3 := by omega
    all_goals (revert e; decide +kernel)
  · obtain rfl : m = 3 := by omega
    have h3 : entryAt (guestOf e).dev.readByte 0x100000 = 0x101001 := by revert e; decide +kernel
    refine ⟨by revert e; decide +kernel, by revert e; decide +kernel, ?_⟩
    show IsPointer true 3 (entryAt (guestOf e).dev.readByte 0x100000)
    rw [h3]
    unfold IsPointer EntrySound entryReserved writeOnly
    decide
  all_goals (revert e; decide +kernel)

/-- A walk of the tables: the address of the page, and A set in memory. -/
theorem test_walk : (match walkFrom userCtx .load false walkVa 3 0 (tables 0x501F) with
    | .ok x d => x.phys == 0x5010 && entryAt d.readByte 0x13018 == 0x503F
    | .error _ _ => false) = true := by decide +kernel

/-- RefusedAccesses: no page at 2^48, no leaf, no right; poison at s1. -/
theorem stops_of {e : Nat} {why : Cause} {acc : Acc} (h : EntryStops (tables e) (tables e).readByte userCtx acc 0 0x13018 why)
    (hw : WalkComesTo (tables e) (tables e).readByte userCtx acc walkVa entryPlace 0) (ht : (tables e).tlbHit userCtx walkVa.toNat = none) :
    NotTranslated (tabled e).drain.dev (tabled e).drain.dev.readByte (tabled e).cur.ctx acc walkVa why :=
  .inr ⟨by unfold OutsidePages; decide, .inr ⟨ht, entryPlace, 0, hw, h⟩⟩
def highUp : State := demoWith fun c => { c with regs := { c.regs with s := [(1, 0x1000000000000)] } }
def poisonedAt1 : State := demo.onDev fun d => d.setPoison 0x80 true
theorem meets_RefusedAccesses : (atBase ldIx (tabled 0).cur).toNat % ldIx.ty.bytes = 0 ∧ atBase ldIx (tabled 0).cur = walkVa ∧
    NotTranslated (tabled 0).drain.dev (tabled 0).drain.dev.readByte (tabled 0).cur.ctx .load walkVa .tfLoad ∧
    NotTranslated (tabled 0x5003).drain.dev (tabled 0x5003).drain.dev.readByte (tabled 0x5003).cur.ctx .load walkVa .tpLoad ∧
    (∀ acc, NotTranslated highUp.drain.dev highUp.drain.dev.readByte highUp.cur.ctx acc (atBase ldIx highUp.cur) acc.tf) ∧
    reaches poisonedAt1 .load 0x2000 0x2000 = true ∧ poisonedAt1.poisonSeen 0x2000 = true ∧
    reaches poisonedAt1.drain .atomic 0x2000 0x2000 = true ∧ poisonedAt1.drain.dev.poisoned 0x2000 = true := by
  refine ⟨by decide +kernel, by decide +kernel, ?_, ?_, fun _ => .inl ⟨by unfold OutsidePages; decide +kernel, rfl⟩, by decide +kernel,
    by decide +kernel, by decide +kernel, by decide +kernel⟩
  · exact stops_of meets_PageWalks_stops.2.1 (meets_PageWalks_stops.1 _ (by decide)) (by decide +kernel)
  · exact stops_of meets_PageWalks_stops.2.2.1 (meets_PageWalks_stops.1 _ (by decide)) (by decide +kernel)

/-- VectorLoads, VectorStores: of four bytes on, the third is the first without a page, or the first. -/
def edge (a : Word) : State := { atEw0 with cur := { atEw0.cur with regs := { atEw0.cur.regs with s := [(1, a)] } } }
theorem edge_stops (acc : Acc) (w : Nat → Byte) (u : State) (h : (comesB u.drain.dev u.cur.ctx 0x40000000 (fun _ => 0) 3 &&
      u.drain.dev.backed 0 && !(u.drain.dev.poisoned 0) && (u.drain.dev.tlbHit u.cur.ctx 0x40000000).isNone) = true)
    (hw : entryAt w 0 = 0) : ElementStops vByte u.drain.dev w u.cur.ctx acc 0x40000000 acc.tf := by
  simp only [Bool.and_eq_true, Bool.not_eq_true', Option.isNone_iff_eq_none] at h
  obtain ⟨-, hm, hp⟩ := comes_of (acc := acc) (by decide) h.1.1.1
  have hE : EntryStops u.drain.dev w u.cur.ctx acc 3 0 acc.tf := by
    refine .inr (.inr ⟨h.1.1.2, h.1.2, .inl ?_⟩)
    rw [hw]
    simp [IsZero, IsPointer, IsLeaf, EntrySound]
  have hW : WalkComesTo u.drain.dev w u.cur.ctx acc 0x40000000 (fun _ => 0) 3 := by
    refine ⟨by decide, fun m h1 h2 => ?_, fun m h1 h2 => absurd h2 (by omega)⟩
    obtain rfl : m = 3 := by omega
    have := hm 3 (by decide) (by decide)
    simpa only [namedSlot, if_true] using this
  exact .inr ⟨by decide +kernel, .inr ⟨by unfold OutsidePages; decide, .inr ⟨h.2, _, 3, hW, hE⟩⟩⟩
def edgeOk (k : Nat) (u : State) : Bool :=
  u.cur.vl == 4 && u.cur.csr.vstart == 0 && u.cur.buf.isEmpty && u.dev.migs.isEmpty && decide (u.cur.gvl ≤ 4096) && u.cur.vf == 0 && (List.range 4).all (fun i => u.cur.allows vByte i) &&
  (List.range k).all (fun i => loadsAt u 1 (target unitTarget u i) && storesAt u 1 (target unitTarget u i) &&
    unitTarget vByte (atEw0.cur.names vByte) u.cur i == some (target unitTarget u i)) &&
  unitTarget vByte (atEw0.cur.names vByte) u.cur k == some 0x40000000 &&
  (comesB u.drain.dev u.cur.ctx 0x40000000 (fun _ => 0) 3 && u.drain.dev.backed 0 && !(u.drain.dev.poisoned 0) &&
    (u.drain.dev.tlbHit u.cur.ctx 0x40000000).isNone) && entryAt u.drain.dev.readByte 0 == 0
theorem meets_VectorLoads_stops : ∀ k ∈ [0, 2], ∃ u,
    VecReady vByte (memShape vByte .z false) (fun _ _ => true) (edge (0x40000000 - BitVec.ofNat 64 k)) u ∧ u.cur.gvl ≤ 4096 ∧
    Written vByte u.cur k ∧ unitTarget vByte (atEw0.cur.names vByte) u.cur k = some 0x40000000 ∧
    (∀ i < k, unitTarget vByte (atEw0.cur.names vByte) u.cur i = some (target unitTarget u i) ∧
      Loadable u (target unitTarget u i) 1 (target unitTarget u i).toNat) ∧
    ElementStops vByte u.drain.dev u.drain.dev.readByte u.cur.ctx .load 0x40000000 .tfLoad := by
  refine fun k hk => ready_with (p := edgeOk k) (ready_of (by revert k; decide +kernel)) fun u hu => ?_
  simp only [edgeOk, Bool.and_eq_true, beq_iff_eq, List.all_eq_true, List.mem_range, decide_eq_true_eq] at hu
  obtain ⟨⟨⟨⟨⟨⟨⟨⟨⟨⟨h1, h2⟩, h3⟩, h4⟩, h5⟩, h6⟩, h7⟩, h8⟩, h9⟩, ⟨⟨⟨ha, hb⟩, hc⟩, hd⟩⟩, he⟩ := hu
  have hk4 : k < 4 := by simp at hk; omega
  exact ⟨h5, ⟨by rw [h2]; exact Nat.zero_le _, by omega, h7 k hk4⟩, h9, fun i hi => ⟨(h8 i hi).2, (load_store (by simp [(h8 i hi).1.1, (h8 i hi).1.2])).1⟩,
    edge_stops .load _ u (by rw [ha, hb, hc, hd]; rfl) he⟩
theorem meets_VectorStores_stops : ∀ k ∈ [0, 2], ∃ u,
    VecReady vByte (memShape vByte .z true) (fun _ _ => true) (edge (0x40000000 - BitVec.ofNat 64 k)) u ∧ u.dev.migs = [] ∧
    OneStore u (performed vByte u.cur) ∧ Settles u ∧ Written vByte u.cur k ∧
    unitTarget vByte (atEw0.cur.names vByte) u.cur k = some 0x40000000 ∧
    (∀ i < k, unitTarget vByte (atEw0.cur.names vByte) u.cur i = some (target unitTarget u i) ∧
      Storable u (target unitTarget u i) 1 (target unitTarget u i).toNat) ∧
    ∀ v, entryAt v 0 = 0 → ElementStops vByte u.drain.dev v u.cur.ctx .store 0x40000000 .tfStore := by
  refine fun k hk => ready_with (p := edgeOk k) (ready_of (by revert k; decide +kernel)) fun u hu => ?_
  simp only [edgeOk, Bool.and_eq_true, beq_iff_eq, List.all_eq_true, List.mem_range, decide_eq_true_eq] at hu
  obtain ⟨⟨⟨⟨⟨⟨⟨⟨⟨⟨h1, h2⟩, h3⟩, h4⟩, h5⟩, h6⟩, h7⟩, h8⟩, h9⟩, ⟨⟨⟨ha, hb⟩, hc⟩, hd⟩⟩, he⟩ := hu
  have hk4 : k < 4 := by simp at hk; omega
  have h3 := List.isEmpty_iff.1 h3
  refine ⟨List.isEmpty_iff.1 h4, .inl h6, ⟨by rw [h3]; exact fun _ h => absurd h List.not_mem_nil, by rw [h3]; intro i j p q _ h; cases h⟩,
    ⟨by rw [h2]; exact Nat.zero_le _, by omega, h7 k hk4⟩, h9, fun i hi => ⟨(h8 i hi).2, (load_store (by simp [(h8 i hi).1.1, (h8 i hi).1.2])).2⟩,
    fun v hv => edge_stops .store v u (by rw [ha, hb, hc, hd]; rfl) hv⟩
theorem meets_StoresPerformInOrder : Settles demo :=
  ⟨fun _ h => absurd h List.not_mem_nil, fun _ _ _ _ _ h => absurd h (by simp [demo, demoStrand, Strand.reset])⟩

/-- StreamDelivery: v1 bound to I32 elements at 0x2000, of which there are four, two, none; and VADD with another format, and
to a bound register. -/
def streaming (total fmt : Nat) : State := demoWith fun c =>
  { c with binds := [⟨1, 0x3000, 0x2000, 0, 0, BitVec.ofNat 64 total, 0, 8, 32, BitVec.ofNat 8 fmt, none⟩] }
def ofStream (total : Nat) : Binding := ⟨1, 0x3000, 0x2000, 0, 0, BitVec.ofNat 64 total, 0, 8, 32, 2, none⟩
/-- A plain element of 32 bits that can be read is delivered. -/
theorem delivers_plain {u : State} {b : Binding} {i : Nat} {a : Word} (hf : formatTy b = .i32) (hm : formatMx b = false)
    (hlt : b.pos.toNat + i < b.total.toNat) (ha : b.base + BitVec.ofInt 64 (((b.pos.toNat + i) / b.rowlen.toNat : Nat) * b.pitch.toInt) +
      BitVec.ofNat 64 ((b.pos.toNat + i) % b.rowlen.toNat * 4) = a) (hl : Loadable u a 4 a.toNat) :
    Delivers u (·.toNat) b .i32 i (natLE (u.see a.toNat 4)) := by
  refine ⟨hlt, ?_⟩
  subst ha
  rw [if_neg (by rw [hf]; decide)]
  refine ⟨_, ⟨?_, rfl⟩, ?_⟩
  · simp only [hf]
    exact hl
  · simp only [hf, hm]
    rfl
def streamB (total k : Nat) (u : State) : Bool :=
  u.cur.binds == [ofStream total] && decide (u.cur.gvl ≤ 4096 ∧ u.cur.vl ≤ vlmaxOf u.cur.gvl vInt.ty.width ∧ u.cur.vl = 4) &&
  u.cur.csr.vstart == 0 && (List.range 4).all (fun i => u.cur.allows vInt i) &&
  (List.range k).all fun i => loadsAt u 4 (0x2000 + BitVec.ofNat 64 (4 * i))
theorem meets_StreamDelivery : ∀ e ∈ [(4, 4), (2, 2), (0, 0)], (streaming e.1 2).cur.preempt = none ∧ NoStops (streaming e.1 2).cur ∧
    ∃ u, Dispatches vInt (opVadd.sh vInt) (opVadd.more vInt) (streaming e.1 2) u ∧ Fits vInt u.cur ∧
      u.cur.binds = [ofStream e.1] ∧ (∀ i < 4, Written vInt u.cur i) ∧
      ∀ i < e.2, Delivers u (·.toNat) (ofStream e.1) .i32 i (natLE (u.see (0x2000 + BitVec.ofNat 64 (4 * i) : Word).toNat 4)) := by
  intro e he
  refine ⟨rfl, demo_noStops, ?_⟩
  obtain ⟨u, hu, hp⟩ := dispatches_of (o := vInt) (sh := opVadd.sh vInt) (more := opVadd.more vInt) (s := streaming e.1 2)
    (p := streamB e.1 e.2) (by revert e; decide +kernel)
  simp only [streamB, Bool.and_eq_true, beq_iff_eq, List.all_eq_true, List.mem_range, decide_eq_true_eq] at hp
  obtain ⟨⟨⟨⟨h1, h2⟩, h3⟩, h4⟩, h5⟩ := hp
  have hs : ∀ e ∈ [(4, 4), (2, 2), (0, 0)], ∀ i < e.2, (ofStream e.1).pos.toNat + i < (ofStream e.1).total.toNat ∧
      (ofStream e.1).base + BitVec.ofInt 64 ((((ofStream e.1).pos.toNat + i) / (ofStream e.1).rowlen.toNat : Nat) *
        (ofStream e.1).pitch.toInt) + BitVec.ofNat 64 (((ofStream e.1).pos.toNat + i) % (ofStream e.1).rowlen.toNat * 4) =
      0x2000 + BitVec.ofNat 64 (4 * i) := by decide +kernel
  exact ⟨u, hu, ⟨h2.1, h2.2.1⟩, h1, fun i hi => ⟨by rw [h3]; exact Nat.zero_le _, by omega, h4 i hi⟩, fun i hi =>
    delivers_plain (a := 0x2000 + BitVec.ofNat 64 (4 * i)) rfl (by simp [formatMx, ofStream]) (hs e he i hi).1 (hs e he i hi).2
      (loadable_at (h5 i hi))⟩
theorem meets_StreamDelivery_ill : let sh := opVadd.sh vInt
    let n := demo.cur.names vInt
    let bound3 : Strand := (streaming 4 2).cur
    let o := { vInt with d := 1, a := 5 }
    (∃ r ∈ sh.vecSources n, ∃ b, (streaming 4 0).cur.bindOf r = some b ∧ ¬ Pairs b vInt.ty) ∧
    (streaming 4 0).cur.convoy.fits sh.cls (sh.cross && isCross vInt) (sh.dst n) = true ∧
    (∃ r ∈ dRegs o (bound3.names o).d, bound3.bindOf r ≠ none) ∧
    bound3.convoy.fits (opVadd.sh o).cls ((opVadd.sh o).cross && isCross o) ((opVadd.sh o).dst (bound3.names o)) = true := by
  refine ⟨⟨1, by decide +kernel, _, rfl, ?_⟩, by decide +kernel, ⟨1, by decide +kernel, by decide +kernel⟩, by decide +kernel⟩
  unfold Pairs
  decide +kernel

/-- ExitEndsTheStrand of a bound strand. -/
theorem meets_ExitEndsTheStrand_bound : (farming 2).cur.nestHere = false ∧ (farming 2).cur.sup.tlevel = 0 ∧
    FarmAt (farming 2) 0x2000 ∧ (((farming 2).dev.queue (farming 2).cur.queue).run (farming 2).cur.node.toNat).strands = [] :=
  ⟨rfl, rfl, meets_FarmAndStrip.2.2.2.2, rfl⟩

/-- StepRunsDecoded: a pc with no page, and one whose parcel is poisoned; words that are no instruction, of level 2 at level 1. -/
def lost : State := demoWith fun c => { c with pc := 0x1000000000000 }
def holding (bs : Nat) (level : BitVec 2) : State :=
  { demoWith fun c => { c with csr := { c.csr with level := level } } with dev := poke [(0x1000, 8, bs)] demo.dev }
def turnOf (s : State) : State := s.tick.freeTurn.onCur (·.nearer)
theorem meets_StepRunsDecoded_fetch : ParcelStops (turnOf lost) 0 .tfExec ∧
    ParcelStops (turnOf (demo.onDev fun d => d.setPoison 0x40 true)) 0 .poison := by
  refine ⟨⟨⟨[], rfl, fun k hk => absurd hk (by simp), .inl rfl⟩, .inl (.inl ⟨by unfold OutsidePages; decide +kernel, rfl⟩)⟩,
    ⟨[], rfl, fun k hk => absurd hk (by simp), .inl rfl⟩, .inr ⟨0x1000, translates_of_reaches (by decide +kernel), by decide +kernel, rfl⟩⟩
theorem meets_StepRunsDecoded_none : ∀ e ∈ [(0, 2, 1), (0x28, 2, 1), (3, 2, 1), (0x1030380A1820EFCD, 1, 2)],
    NoInstruction (turnOf (holding e.1 e.2.1)) (bytesLE (4 * e.2.2) e.1) (e.1 % 2 ^ 32) := by
  intro e he
  have hp : ∀ e ∈ [((0 : Nat), (2 : BitVec 2), 1), (0x28, 2, 1), (3, 2, 1), (0x1030380A1820EFCD, 1, 2)], ∀ k < 2, 
      reaches (turnOf (holding e.1 e.2.1)) .fetch (0x1000 + BitVec.ofNat 64 (4 * k)) (0x1000 + 4 * k) = true ∧
      (turnOf (holding e.1 e.2.1)).cur.pc = 0x1000 ∧ (turnOf (holding e.1 e.2.1)).dev.poisoned (0x1000 + 4 * k) = false ∧
      (4 * k < 4 * e.2.2 → ∀ j < 4, (bytesLE (4 * e.2.2) e.1)[4 * k + j]? = some ((turnOf (holding e.1 e.2.1)).dev.readByte (0x1000 + 4 * k + j))) := by
    decide +kernel
  have hl : ∀ e ∈ [((0 : Nat), (2 : BitVec 2), 1), (0x28, 2, 1), (3, 2, 1), (0x1030380A1820EFCD, 1, 2)],
      (bytesLE (4 * e.2.2) e.1).length = 4 * e.2.2 ∧ e.2.2 ≤ 2 ∧ e.1 % 2 ^ 32 = natLE ((bytesLE (4 * e.2.2) e.1).take 4) ∧
      e.2.2 = parcelsOf (e.1 % 2 ^ 32) ∧ decodeBytes (turnOf (holding e.1 e.2.1)).cur.csr.level.toNat (bytesLE (4 * e.2.2) e.1) = none := by
    decide +kernel
  obtain ⟨h1, h2, h3, h4, h5⟩ := hl e he
  refine ⟨fun k hk => ?_, h3, by rw [h1, ← h4], h5⟩
  rw [h1] at hk
  obtain ⟨g1, g2, g3, g4⟩ := hp e he k (by omega)
  exact ⟨_, by rw [g2]; exact translates_of_reaches g1, g3, g4 hk⟩

/-- VectorFloatCompares: the classes of F32. -/
theorem meets_VectorFloatCompares_class : ((Ty.f32, 8, 23, 127) : Ty × Nat × Nat × Nat) ∈ floatFields ∧ vF32.ty = .f32 ∧
    vF32.ty ∈ [Ty.f64, .f32, .f16, .bf16] := by decide

/-- GraphEnds: a killed strand whose command runs keeps its node, and the ABORT; the second event ends it. -/
def abortRunning : State :=
  let s := ending_ { graphQueue [{ NodeRun.fresh 0x3000 with launched := true, strands := [1] }] with abort := true }
  { s with cur := { s.cur with queue := 1, node := 0x3000 },
           dev := { s.dev with cmds := [{ demoStrand.command 7 0 0 1 with state := .started, queue := 1 }] } }
theorem meets_GraphEnds_abortWaits : (abortRunning.dev.queue 1).abort = true ∧
    ((abortRunning.abortKill 1).dev.queue 1).runs ≠ [] ∧
    (let s := ending_ { abortQueue with active := false, aborting := true }
     (s.dev.queue 1).abort = true ∧ (s.dev.queue 1).runs = [] ∧ (s.dev.queue 1).aborting = true) := by decide +kernel

/-- TrapEntry, PreemptionAndKill: no command of the strand runs, or one does. -/
theorem meets_Kills : NoneRuns demo 1 ∧ ¬ NoneRuns (demo.onDev fun d =>
    { d with cmds := [{ demoStrand.command 7 0 0 1 with state := .started }] }) 1 :=
  ⟨fun _ h => absurd h List.not_mem_nil, fun h => by
    rcases h _ (List.mem_singleton.2 rfl) rfl with h | h <;> cases h⟩

/-- MemorySystem, PortTimers, PowerAndMonitors: a device brought up, or not; one with no strand yet; a store that performs;
samples that stand in the state, and a wait that has ended, or none. -/
theorem meets_BroughtUp : 3 ≤ demo.dev.broughtUp ∧ ({ demo.dev with broughtUp := 2 } : Device).broughtUp < 3 ∧
    4 ≤ State.reset.dev.broughtUp ∧ State.reset.dev.nextUid = 1 ∧ demo.dev.nextUid ≠ 1 ∧ (∀ pa, demo.dev.remoteLost pa = false) ∧
    ∀ pa k, demo.dev.backed pa = false → Config.remoteHome pa = some k → ({ demo.dev with unreachable := [k] } : Device).remoteLost pa = true := by
  refine ⟨by decide, by decide, by decide, rfl, by decide, fun pa => ?_, fun pa k hb hk => ?_⟩
  · simp [Device.remoteLost, demo, demoDevice, Device.reset]
  · have hb' : Device.backed { demo.dev with unreachable := [k] } pa = false := hb
    simp [Device.remoteLost, hk, hb']
theorem meets_PowerAndMonitors_waits : let m : Monitor := { cfg := 0x8000000000000005, param := 0, now := .clear, frozen := .clear, last := 0 }
    sampleNow demo.dev m 0 = none ∧ sampleNow { demo.dev with waits := [(0x05, 0, 7)] } m 0 = some 7 := by decide +kernel
/-- Collectives: a command that is refused, and whose group can be read. -/
theorem meets_Collectives_refused : ∃ x d g d', collStart malformedColl malformedDevice = .error x d ∧ x.page = none ∧
    readDesc malformedColl d = .ok g d' := by
  have h : (match collStart malformedColl malformedDevice with
    | .ok _ _ => false
    | .error x d => x.page == none && (match readDesc malformedColl d with | .ok _ _ => true | .error _ _ => false)) = true := by
    decide +kernel
  split at h
  · cases h
  · rename_i x d hx
    simp only [Bool.and_eq_true] at h
    split at h
    · exact ⟨x, d, _, _, hx, by simpa using h.1, ‹_›⟩
    · cases h.2

end Sys2Proof.Tests
end

section
/-! SUPPORT. Scalar arithmetic (R203 to R205): the result of each operation as the low 64 bits of an integer, the three ends
of a division, and what each row of the tables of these rules runs. -/

namespace Sys2Proof.IntegerLogic

open Sys2Proof.Machine Sys2Proof.Claims Sys2Proof.Laws

/-! ### Results -/

theorem eq_ofInt_of_toInt {x : Word} {i : Int} (h : x.toInt = i.bmod (2 ^ 64)) : x = BitVec.ofInt 64 i :=
  BitVec.eq_of_toInt_eq (by rw [h, BitVec.toInt_ofInt])

theorem eq_ofInt_of_toNat {x : Word} {n : Nat} (h : x.toNat = n % 2 ^ 64) : x = BitVec.ofInt 64 n :=
  BitVec.eq_of_toNat_eq (by rw [h, BitVec.ofInt_natCast, BitVec.toNat_ofNat])

theorem ofInt_toNat (x : Word) : BitVec.ofInt 64 (x.toNat : Int) = x := by
  rw [BitVec.ofInt_natCast, BitVec.ofNat_toNat, BitVec.setWidth_eq]

theorem ofInt_ite (p : Prop) [Decidable p] : (if p then 1 else 0 : Word) = BitVec.ofInt 64 (if p then 1 else 0) := by
  split <;> rfl

/-- Operation FN of opcodes 0x01 and 0x02 gives the low 64 bits of the integer that the manual states (R203). -/
def Gives (fn : Nat) (f : Alu) : Prop := ∀ a b, aluResult fn a b = BitVec.ofInt 64 (f a b)

theorem gives_add : Gives 0x00 aAdd := fun a b => eq_ofInt_of_toInt (BitVec.toInt_add a b)
theorem gives_sub : Gives 0x01 aSub := fun _ _ => eq_ofInt_of_toInt BitVec.toInt_sub
theorem gives_and : Gives 0x02 aAnd := fun a b => (ofInt_toNat (a &&& b)).symm
theorem gives_or : Gives 0x03 aOr := fun a b => (ofInt_toNat (a ||| b)).symm
theorem gives_xor : Gives 0x04 aXor := fun a b => (ofInt_toNat (a ^^^ b)).symm

theorem gives_shl : Gives 0x05 aShl := by
  intro a b
  by_cases h : 64 ≤ b.toNat
  · simp [aluResult, aShl, h]
  · simp only [aluResult, aShl, ge_iff_le, h, if_false]
    exact eq_ofInt_of_toNat (by rw [BitVec.toNat_shiftLeft, Nat.shiftLeft_eq])

theorem gives_shr : Gives 0x06 aShr := by
  intro a b
  by_cases h : 64 ≤ b.toNat
  · simp [aluResult, aShr, h, BitVec.ushiftRight_eq_zero]
  · simp only [aluResult, aShr, ge_iff_le, h, if_false]
    rw [← Nat.shiftRight_eq_div_pow, ← BitVec.toNat_ushiftRight, ofInt_toNat]

/-- Divided by 2^64 or more, a signed reading leaves its sign alone. -/
theorem toInt_ediv_two_pow {a : Word} {n : Nat} (h : 64 ≤ n) : a.toInt / 2 ^ n = if a.toInt < 0 then -1 else 0 := by
  have hp : (2 : Int) ^ 64 ≤ 2 ^ n := pow_le_pow_right₀ (by decide) h
  have hlo := BitVec.le_toInt a
  have hhi := @BitVec.toInt_lt _ a
  norm_num at hlo hhi hp
  split
  · exact Int.ediv_eq_neg_one_of_neg_of_le ‹_› (by omega)
  · exact Int.ediv_eq_zero_of_lt (by omega) (by omega)

theorem gives_sra : Gives 0x07 aSra := by
  intro a b
  have hv : a.sshiftRight b.toNat = BitVec.ofInt 64 (a.toInt / 2 ^ b.toNat) :=
    calc a.sshiftRight b.toNat = BitVec.ofInt 64 (a.sshiftRight b.toNat).toInt := BitVec.ofInt_toInt.symm
      _ = _ := by rw [BitVec.toInt_sshiftRight, Int.shiftRight_eq_div_pow, Nat.cast_pow, Nat.cast_ofNat]
  by_cases h : 64 ≤ b.toNat
  · simp only [aluResult, aSra, ge_iff_le, h, if_true, hv, toInt_ediv_two_pow h]
  · simp only [aluResult, aSra, ge_iff_le, h, if_false, hv]

theorem gives_slt : Gives 0x08 aSlt := by
  intro a b
  simp only [aluResult, aSlt, BitVec.slt_iff_toInt_lt]
  exact ofInt_ite _

theorem gives_sltn : Gives 0x09 aSltn := by
  intro a b
  simp only [aluResult, aSltn, BitVec.ult_iff_toNat_lt]
  exact ofInt_ite _

theorem gives_seq : Gives 0x0A aSeq := fun _ _ => ofInt_ite _

theorem gives_min : Gives 0x0B aMin := by
  intro a b
  simp only [aluResult, aMin, BitVec.slt_iff_toInt_lt]
  split
  · rw [min_eq_left (by omega), BitVec.ofInt_toInt]
  · rw [min_eq_right (by omega), BitVec.ofInt_toInt]

theorem gives_max : Gives 0x0C aMax := by
  intro a b
  simp only [aluResult, aMax, BitVec.slt_iff_toInt_lt]
  split
  · rw [max_eq_right (by omega), BitVec.ofInt_toInt]
  · rw [max_eq_left (by omega), BitVec.ofInt_toInt]

theorem gives_minn : Gives 0x0D aMinn := by
  intro a b
  simp only [aluResult, aMinn, BitVec.ult_iff_toNat_lt]
  split
  · rw [min_eq_left (by omega), ofInt_toNat]
  · rw [min_eq_right (by omega), ofInt_toNat]

theorem gives_maxn : Gives 0x0E aMaxn := by
  intro a b
  simp only [aluResult, aMaxn, BitVec.ult_iff_toNat_lt]
  split
  · rw [max_eq_right (by omega), ofInt_toNat]
  · rw [max_eq_left (by omega), ofInt_toNat]

theorem gives_mul : Gives 0x0F aMul := fun a b => eq_ofInt_of_toInt (BitVec.toInt_mul a b)
theorem gives_mulh : Gives 0x10 aMulh := fun _ _ => rfl
theorem gives_mulhn : Gives 0x11 aMulhn := fun _ _ => (BitVec.ofInt_natCast _ _).symm
theorem gives_div : Gives 0x12 aDiv := fun a b => eq_ofInt_of_toInt (BitVec.toInt_sdiv a b)

theorem gives_divn : Gives 0x13 aDivn := fun a b =>
  calc a.udiv b = BitVec.ofInt 64 (a.udiv b).toNat := (ofInt_toNat _).symm
    _ = _ := by rw [BitVec.udiv_eq, BitVec.toNat_udiv, aDivn]

theorem gives_rem : Gives 0x14 aRem := fun a b =>
  calc a.srem b = BitVec.ofInt 64 (a.srem b).toInt := BitVec.ofInt_toInt.symm
    _ = _ := by rw [BitVec.toInt_srem, Int.tmod_def, aRem]

theorem gives_remn : Gives 0x15 aRemn := fun a b =>
  calc a.umod b = BitVec.ofInt 64 (a.umod b).toNat := (ofInt_toNat _).symm
    _ = _ := by rw [BitVec.umod_eq, BitVec.toNat_umod, aRemn]

/-- The two parts that a rotation puts side by side do not overlap, so their sum is their union. -/
theorem toNat_rotateLeft_eq_add (a : Word) {k : Nat} (hk : k < 64) :
    (a.rotateLeft k).toNat = a.toNat * 2 ^ k % 2 ^ 64 + a.toNat / 2 ^ (64 - k) := by
  have hlow : a.toNat / 2 ^ (64 - k) < 2 ^ k :=
    Nat.div_lt_of_lt_mul (by rw [← pow_add, Nat.sub_add_cancel hk.le]; exact a.isLt)
  have hhigh : a.toNat * 2 ^ k % 2 ^ 64 = 2 ^ k * (a.toNat % 2 ^ (64 - k)) := by
    rw [mul_comm, ← Nat.mul_mod_mul_left, ← pow_add, Nat.add_sub_cancel' hk.le]
  rw [BitVec.toNat_rotateLeft, Nat.mod_eq_of_lt hk, Nat.shiftLeft_eq, Nat.shiftRight_eq_div_pow, hhigh,
    Nat.two_pow_add_eq_or_of_lt hlow]

theorem gives_rol : Gives 0x16 aRol := by
  intro a b
  refine eq_ofInt_of_toNat (x := a.rotateLeft (b.toNat % 64)) ?_
  rw [← Nat.mod_add_mod, ← toNat_rotateLeft_eq_add a (Nat.mod_lt _ (by decide)), Nat.mod_eq_of_lt (BitVec.isLt _)]

/-! ### Divisions -/

section
variable {o : Operands} {fn : Nat} {rem : Bool} {b : Word} {srcs : List RegId} {s : State}

theorem divide_nonzero (h : b ≠ 0) : divide o fn rem b srcs s =
    .ok () (s.onCur (·.putS o.d.toNat (aluResult fn (s.cur.s o.a.toNat) b) srcs)) := by
  simp only [divide, run_bind, run_cur, beq_iff_eq, h, if_false, run_onCur]

theorem divide_zero_flags (h : s.cur.csr.icsr.getLsbD 1 = false) : divide o fn rem 0 srcs s =
    .ok () (s.onCur fun c => (c.raiseInt true false).putS o.d.toNat (byZero rem (s.cur.s o.a.toNat)) srcs) := by
  simp only [divide, divZero, run_bind, run_cur, BEq.rfl, if_true, h, Bool.false_eq_true, if_false, run_onCur]
  rfl

theorem divide_zero_traps (h : s.cur.csr.icsr.getLsbD 1 = true) :
    divide o fn rem 0 srcs s = .error (.cause .intDz 0) s := by
  simp only [divide, divZero, run_bind, run_cur, BEq.rfl, if_true, h]
  rfl

/-- R205: a division ends with the stated result, with the fixed result and DZF, or with the trap INT_DZ. -/
theorem instr_divide {f : Alu} {z : Word → Word} (hf : Gives fn f) (hz : byZero rem = z) :
    let a := s.cur.s o.a.toNat
    let done := fun (x : Word) (c : Strand) => (c.putS o.d.toNat x srcs).retire o
    let out := instr o (divide o fn rem b srcs) s
    (b ≠ 0 → out = .next (s.onCur (done (BitVec.ofInt 64 (f a b))))) ∧
    (b = 0 → s.cur.csr.icsr.getLsbD 1 = false → out = .next (s.onCur fun c =>
      done (z a) { c with csr := { c.csr with icsr := c.csr.icsr ||| 1 } })) ∧
    (b = 0 → s.cur.csr.icsr.getLsbD 1 = true → out = .next (s.trap .intDz 0 s.cur.pc false)) := by
  subst hz
  refine ⟨fun hb => ?_, ?_, ?_⟩
  · rw [instr_ok o _ (divide_nonzero hb), hf]
    rfl
  · rintro rfl hd
    exact instr_ok o _ (divide_zero_flags hd)
  · rintro rfl hd
    exact instr_error o _ (divide_zero_traps hd)

end

/-! ### Rows -/

/-- A row of a table of R203 or R204: its instruction runs an operation that gives what the row states. -/
def RunsAlu (run : Operands → Nat → Run Unit) (e : (Operands → Instr) × Alu) : Prop :=
  ∃ fn, (∀ o s, exec (e.1 o) s = instr o (run o fn) s) ∧ Gives fn e.2

/-- A row of a table of R205: besides, its result by 0 is the row's. -/
def RunsDiv (run : Operands → Nat → Bool → Run Unit) (e : (Operands → Instr) × Alu × (Word → Word)) : Prop :=
  ∃ fn rem, (∀ o s, exec (e.1 o) s = instr o (run o fn rem) s) ∧ Gives fn e.2.1 ∧ byZero rem = e.2.2

theorem aluRegTable1_runs : ∀ e ∈ aluRegTable1, RunsAlu aluReg e := by
  simp only [aluRegTable1, List.forall_mem_cons]
  exact ⟨⟨_, fun _ _ => rfl, gives_add⟩, ⟨_, fun _ _ => rfl, gives_add⟩, ⟨_, fun _ _ => rfl, gives_sub⟩,
    ⟨_, fun _ _ => rfl, gives_sub⟩, ⟨_, fun _ _ => rfl, gives_and⟩, ⟨_, fun _ _ => rfl, gives_and⟩,
    ⟨_, fun _ _ => rfl, gives_or⟩, ⟨_, fun _ _ => rfl, gives_or⟩, ⟨_, fun _ _ => rfl, gives_xor⟩,
    ⟨_, fun _ _ => rfl, gives_xor⟩, ⟨_, fun _ _ => rfl, gives_shl⟩, ⟨_, fun _ _ => rfl, gives_shl⟩,
    ⟨_, fun _ _ => rfl, gives_shr⟩, ⟨_, fun _ _ => rfl, gives_shr⟩, nofun⟩

theorem aluRegTable2_runs : ∀ e ∈ aluRegTable2, RunsAlu aluReg e := by
  simp only [aluRegTable2, List.forall_mem_cons]
  exact ⟨⟨_, fun _ _ => rfl, gives_sra⟩, ⟨_, fun _ _ => rfl, gives_sra⟩, ⟨_, fun _ _ => rfl, gives_slt⟩,
    ⟨_, fun _ _ => rfl, gives_slt⟩, ⟨_, fun _ _ => rfl, gives_sltn⟩, ⟨_, fun _ _ => rfl, gives_sltn⟩,
    ⟨_, fun _ _ => rfl, gives_seq⟩, ⟨_, fun _ _ => rfl, gives_seq⟩, ⟨_, fun _ _ => rfl, gives_min⟩,
    ⟨_, fun _ _ => rfl, gives_min⟩, ⟨_, fun _ _ => rfl, gives_max⟩, ⟨_, fun _ _ => rfl, gives_max⟩,
    ⟨_, fun _ _ => rfl, gives_minn⟩, ⟨_, fun _ _ => rfl, gives_minn⟩, nofun⟩

theorem aluRegTable3_runs : ∀ e ∈ aluRegTable3, RunsAlu aluReg e := by
  simp only [aluRegTable3, List.forall_mem_cons]
  exact ⟨⟨_, fun _ _ => rfl, gives_maxn⟩, ⟨_, fun _ _ => rfl, gives_maxn⟩, ⟨_, fun _ _ => rfl, gives_mul⟩,
    ⟨_, fun _ _ => rfl, gives_mul⟩, ⟨_, fun _ _ => rfl, gives_mulh⟩, ⟨_, fun _ _ => rfl, gives_mulhn⟩,
    ⟨_, fun _ _ => rfl, gives_rol⟩, nofun⟩

theorem aluRegTable_runs : ∀ e ∈ aluRegTable, RunsAlu aluReg e := by
  simp only [aluRegTable, List.forall_mem_append]
  exact ⟨⟨aluRegTable1_runs, aluRegTable2_runs⟩, aluRegTable3_runs⟩

theorem aluImmTable_runs : ∀ e ∈ aluImmTable, RunsAlu aluImm e := by
  simp only [aluImmTable, List.forall_mem_cons]
  exact ⟨⟨_, fun _ _ => rfl, gives_add⟩, ⟨_, fun _ _ => rfl, gives_sub⟩, ⟨_, fun _ _ => rfl, gives_and⟩,
    ⟨_, fun _ _ => rfl, gives_or⟩, ⟨_, fun _ _ => rfl, gives_xor⟩, ⟨_, fun _ _ => rfl, gives_shl⟩,
    ⟨_, fun _ _ => rfl, gives_shr⟩, ⟨_, fun _ _ => rfl, gives_sra⟩, ⟨_, fun _ _ => rfl, gives_slt⟩,
    ⟨_, fun _ _ => rfl, gives_sltn⟩, ⟨_, fun _ _ => rfl, gives_seq⟩, ⟨_, fun _ _ => rfl, gives_min⟩,
    ⟨_, fun _ _ => rfl, gives_max⟩, ⟨_, fun _ _ => rfl, gives_minn⟩, ⟨_, fun _ _ => rfl, gives_maxn⟩,
    ⟨_, fun _ _ => rfl, gives_mul⟩, ⟨_, fun _ _ => rfl, gives_mulh⟩, ⟨_, fun _ _ => rfl, gives_mulhn⟩,
    ⟨_, fun _ _ => rfl, gives_rol⟩, nofun⟩

theorem divRegTable_runs : ∀ e ∈ divRegTable, RunsDiv divReg e := by
  simp only [divRegTable, List.forall_mem_cons]
  exact ⟨⟨_, false, fun _ _ => rfl, gives_div, rfl⟩, ⟨_, false, fun _ _ => rfl, gives_divn, rfl⟩,
    ⟨_, true, fun _ _ => rfl, gives_rem, rfl⟩, ⟨_, true, fun _ _ => rfl, gives_remn, rfl⟩, nofun⟩

theorem divImmTable_runs : ∀ e ∈ divImmTable, RunsDiv divImm e := by
  simp only [divImmTable, List.forall_mem_cons]
  exact ⟨⟨_, false, fun _ _ => rfl, gives_div, rfl⟩, ⟨_, false, fun _ _ => rfl, gives_divn, rfl⟩,
    ⟨_, true, fun _ _ => rfl, gives_rem, rfl⟩, ⟨_, true, fun _ _ => rfl, gives_remn, rfl⟩, nofun⟩

/-! ### The statement -/

theorem instr_onCur (o : Operands) (s : State) (f : Strand → Strand) :
    instr o (Run.onCur f) s = .next (s.onCur fun c => (f c).retire o) := instr_ok o _ (run_onCur f s)

theorem scalarRegisterForms : ScalarRegisterForms := by
  intro e he o s
  obtain ⟨fn, hexec, hgives⟩ := aluRegTable_runs e he
  simp only [hexec, aluReg, instr_onCur, hgives _ _]

theorem scalarImmediateForms : ScalarImmediateForms := by
  intro e he o s
  obtain ⟨fn, hexec, hgives⟩ := aluImmTable_runs e he
  simp only [hexec, aluImm, instr_onCur, hgives _ _]

theorem scalarDivision : ScalarDivision := by
  refine ⟨fun e he o s => ?_, fun e he o s => ?_⟩
  · obtain ⟨fn, rem, hexec, hgives, hzero⟩ := divRegTable_runs e he
    rw [hexec]
    exact instr_divide hgives hzero
  · obtain ⟨fn, rem, hexec, hgives, hzero⟩ := divImmTable_runs e he
    rw [hexec]
    exact instr_divide hgives hzero

/-- Settles O29: each row of the tables runs the operation that gives its value, and a division has three ends. -/
theorem scalarArithmetic : Obligations.ScalarArithmetic := ⟨scalarRegisterForms, scalarImmediateForms, scalarDivision⟩

end Sys2Proof.IntegerLogic
end

section
/-! SUPPORT. Instructions that never stop (R216) on a strand with nothing bound: dispatch, the one step in which such an
instruction acts, and its end. -/

namespace Sys2Proof.IntegerLogic

open Sys2Proof.Machine Sys2Proof.Claims Sys2Proof.Laws

/-! ### Steps over a list -/

theorem each_onCur (f : Nat → Strand → Strand) : ∀ (l : List Nat) (s : State),
    each l (fun i => Run.onCur (f i)) s = .ok () (s.onCur fun c => l.foldl (fun c i => f i c) c)
  | [], _ => rfl
  | i :: l, s => by
    simp only [each, run_bind, run_onCur, each_onCur f l]
    rfl

theorem collect_ok {s : State} {f : Nat → Run Nat} {g : Nat → Nat} (h : ∀ i, f i s = .ok (g i) s) : ∀ l : List Nat,
    collect l f s = .ok (l.map fun i => (i, g i)) s
  | [] => rfl
  | i :: l => by simp only [collect, run_bind, h, collect_ok h l, run_pure, List.map_cons]

theorem withSweep_ok {α : Type} (rest : List (Run Unit)) {m : Run α} {s t : State} {x : α} (h : m s = .ok x t) :
    withSweep rest m s = .ok x t := by
  simp only [withSweep, run_bind, run_trial, h, run_pure]

/-! ### Unbound strands -/

theorem srcW_unbound {t : Strand} (h : Unbound t) (ty : Ty) (r j : Nat) (s : State) :
    srcW t ty r j s = .ok (t.elem ty.width r j) s := by
  unfold srcW
  split
  · simp only [srcOf, bindOf_unbound t h, run_pure]
  · rfl

theorem srcMax_unbound (o : Operands) {t : Strand} (h : Unbound t) (r j : Nat) (s : State) :
    srcMax t o.ty r j s = .ok (orZero o t r j) s := by
  unfold srcMax orZero Strand.vlmax
  split
  · exact srcW_unbound h _ _ _ _
  · rfl

theorem unbound_setS {c : Strand} (h : Unbound c) (n : Nat) (x : Word) : Unbound (c.setS n x) := by
  unfold Strand.setS
  split <;> exact h

theorem unbound_setP {c : Strand} (h : Unbound c) (n i : Nat) (b : Bool) : Unbound (c.setP n i b) := by
  unfold Strand.setP
  split <;> exact h

theorem unbound_setPAll {c : Strand} (h : Unbound c) (n : Nat) (x : BitVec 16384) : Unbound (c.setPAll n x) := by
  unfold Strand.setPAll
  split <;> exact h

theorem unbound_setVBytes {c : Strand} (h : Unbound c) (r b n x : Nat) : Unbound (c.setVBytes r b n x) := h

theorem unbound_markDirty {c : Strand} (h : Unbound c) (r : Nat) : Unbound (c.markDirty r) := h

theorem unbound_setElem {c : Strand} (h : Unbound c) (w r i x : Nat) : Unbound (c.setElem w r i x) := by
  unfold Strand.setElem
  split
  · exact unbound_markDirty (unbound_markDirty (unbound_setVBytes (unbound_setVBytes h _ _ _ _) _ _ _ _) _) _
  · exact unbound_markDirty (unbound_setVBytes h _ _ _ _) _

theorem unbound_withBits {c : Strand} (h : Unbound c) (d : Nat) (l : List (Nat × Bool)) : Unbound (withBits d l c) :=
  List.foldlRecOn l _ h fun _ hc e _ => unbound_setP hc d e.1 e.2

theorem unbound_withElems (o : Operands) {c : Strand} (h : Unbound c) (d : Nat) (l : List (Nat × Nat)) :
    Unbound (withElems o d l c) :=
  List.foldlRecOn l _ h fun _ hc e _ => unbound_setElem hc _ d e.1 e.2

/-! ### Bits of predicates -/

theorem getLsbD_putBit_other {w : Nat} (x : BitVec w) {i j : Nat} (b : Bool) (h : j ≠ i) :
    (putBit x i b).getLsbD j = x.getLsbD j := by
  have hi : (BitVec.ofNat w (2 ^ i)).getLsbD j = false := by
    rw [BitVec.getLsbD_ofNat, Nat.testBit_two_pow_of_ne h.symm, Bool.and_false]
  unfold putBit
  split
  · rw [BitVec.getLsbD_or, hi, Bool.or_false]
  · rw [BitVec.getLsbD_and, BitVec.getLsbD_not, hi, Bool.not_false, Bool.and_true]
    cases hx : x.getLsbD j
    · rfl
    · exact decide_eq_true (BitVec.lt_of_getLsbD hx)

/-- Writing a bit of one predicate leaves the other bits of every predicate alone. -/
theorem p_setP_other (c : Strand) (d r : Nat) {i j : Nat} (b : Bool) (h : j ≠ i) : (c.setP d i b).p r j = c.p r j := by
  unfold Strand.setP
  split
  · rfl
  · unfold Strand.p
    split
    · rfl
    · simp only [Tab.get_set]
      split
      · next hr => rw [getLsbD_putBit_other _ _ h, hr]
      · rfl

/-- Bits written one by one, each from the same bits of predicates as they then stand, may be taken from the predicates as
they stood at first: the destination may be a source, for no bit is written before it is read. -/
theorem foldl_setP_eq_withBits (d a b : Nat) (f : Bool → Bool → Bool) {l : List Nat} (hl : l.Nodup) (c : Strand) :
    l.foldl (fun c i => c.setP d i (f (c.p a i) (c.p b i))) c =
      withBits d (l.map fun i => (i, f (c.p a i) (c.p b i))) c := by
  induction l generalizing c with
  | nil => rfl
  | cons i l ih =>
    obtain ⟨hi, hl⟩ := List.nodup_cons.1 hl
    have hne : ∀ j ∈ l, j ≠ i := fun j hj e => hi (e ▸ hj)
    rw [List.foldl_cons, ih hl, List.map_cons]
    refine congrArg (fun l => withBits d l _) (List.map_congr_left fun j hj => ?_)
    simp only [p_setP_other _ _ _ _ (hne j hj)]

theorem foldl_setP_const (d : Nat) (at_ : Nat → Nat) (f : Nat → Bool) (l : List Nat) (c : Strand) :
    l.foldl (fun c i => c.setP d (at_ i) (f i)) c = withBits d (l.map fun i => (at_ i, f i)) c := by
  rw [withBits, List.foldl_map]

theorem nodup_actives (o : Operands) (c : Strand) : (c.actives o).Nodup := List.nodup_range.filter _

/-! ### A word from its bits -/

/-- The number that the low n of some bits make. -/
def sumBits (f : Nat → Bool) (n : Nat) : Nat := (List.range n).foldl (fun acc k => acc + bitVal (f k) * 2 ^ k) 0

theorem sumBits_succ (f : Nat → Bool) (n : Nat) : sumBits f (n + 1) = 2 ^ n * bitVal (f n) + sumBits f n := by
  simp only [sumBits, List.range_succ, List.foldl_append, List.foldl_cons, List.foldl_nil]
  ring

theorem sumBits_lt (f : Nat → Bool) : ∀ n, sumBits f n < 2 ^ n
  | 0 => Nat.one_pos
  | n + 1 => by
    have ih := sumBits_lt f n
    rw [sumBits_succ, pow_succ]
    cases f n <;> simp only [bitVal, Bool.false_eq_true, if_false, if_true] <;> omega

theorem testBit_bitVal (b : Bool) (j : Nat) : (bitVal b).testBit j = (decide (j = 0) && b) := by
  cases b
  · simp [bitVal]
  · rw [Bool.and_true, Bool.eq_iff_iff, decide_eq_true_iff]
    exact Nat.testBit_one_eq_true_iff_self_eq_zero

theorem testBit_sumBits (f : Nat → Bool) (j : Nat) : ∀ n, (sumBits f n).testBit j = (decide (j < n) && f j)
  | 0 => by simp [sumBits]
  | n + 1 => by
    rw [sumBits_succ, Nat.testBit_two_pow_mul_add _ (sumBits_lt f n), testBit_sumBits f j n, testBit_bitVal]
    rcases Nat.lt_trichotomy j n with h | rfl | h
    · simp [h, Nat.lt_succ_of_lt h]
    · simp
    · simp [Nat.not_lt.2 h.le, Nat.not_lt.2 (Nat.succ_le_of_lt h), Nat.sub_ne_zero_of_lt h]

theorem ofNat_sumBits (f : Nat → Bool) (w : Nat) : BitVec.ofNat w (sumBits f w) = BitVec.ofFnLE fun k : Fin w => f k.val :=
  BitVec.eq_of_getLsbD_eq fun j hj => by
    rw [BitVec.getLsbD_ofNat, testBit_sumBits, BitVec.getLsbD_ofFnLE]
    simp [hj]

/-! ### Dispatch -/

/-- A shape that names neither the matrix nor the small-matrix state. -/
def VectorsOnly (sh : Shape) : Prop := sh.mat = false ∧ sh.sm = false

section
variable {o : Operands} {sh : Shape} {more : Strand → Names → Bool} {s u : State}

/-- With nothing bound, an instruction takes its place in the convoy and changes nothing else of the strand. -/
theorem joined_unbound (hb : s.cur.binds = []) :
    joined o sh s = s.onCur fun c => { c with convoy := convoyAfter o sh c } := by
  obtain ⟨c, os, d, a⟩ := s
  obtain ⟨⟩ := c
  simp only at hb
  subst hb
  rfl

theorem prep_ready (h : VecReady o sh more s u) : prep o sh more s = .ok (s.cur.names o) u := by
  obtain ⟨-, hb, hd, hf, v, hv, hu⟩ := h
  exact prep_ok o sh more s v u hd hf (by rw [joined_unbound hb]; exact hv) hu

/-- A dispatched strand differs from what it was in its convoy and in what of its vector file is in the core. -/
theorem ready_cur (hsh : VectorsOnly sh) (h : VecReady o sh more s u) :
    SameButFile { s.cur with convoy := convoyAfter o sh s.cur } u.cur := by
  obtain ⟨-, -, -, -, v, hv, hu⟩ := h
  obtain ⟨hm, hs⟩ := hsh
  rw [hm, hs, ownStates_none] at hu
  cases hu
  exact (touch_moved _ _ _ hv).cur

theorem ready_unbound (hsh : VectorsOnly sh) (h : VecReady o sh more s u) : Unbound u.cur :=
  unbound_of_same (ready_cur hsh h) ⟨h.1, h.2.1⟩

/-- What reads neither the convoy nor the vector file is the same once the instruction is dispatched. -/
theorem ready_same {α : Type} (f : Strand → α)
    (hf : ∀ c v m k, f { c with regs := { c.regs with v := v }, fileDirty := m, convoy := k } = f c)
    (hsh : VectorsOnly sh) (h : VecReady o sh more s u) : f u.cur = f s.cur := by
  rw [show u.cur = _ from ready_cur hsh h]
  exact hf s.cur u.cur.regs.v u.cur.fileDirty (convoyAfter o sh s.cur)

theorem ready_names (hsh : VectorsOnly sh) (h : VecReady o sh more s u) : u.cur.names o = s.cur.names o :=
  ready_same (·.names o) (fun _ _ _ _ => rfl) hsh h

end

/-! ### Instructions that never stop -/

/-- An instruction of R216 that acts in one step once it is dispatched. rest: what it does after its end, given the set that
its destination takes. -/
def bulkAct (o : Operands) (sh : Shape) (more : Strand → Names → Bool) (act : Names → Strand → Run Unit)
    (rest : Taint → Run Unit) : Run Unit := do
  let n ← prep o sh more
  let t ← Run.cur
  act n t
  let x ← bulkEndX o sh n t
  rest x

section
variable {o : Operands} {sh : Shape} {more : Strand → Names → Bool} {s u : State}

theorem bulkEndX_unbound {n : Names} {t : Strand} (ht : Unbound t) (hs : Unbound s.cur) :
    bulkEndX o sh n t s = .ok (t.sourceSet o sh n)
      (s.onCur fun c => (c.taintDst sh n (t.sourceSet o sh n)).setVstart 0) := by
  have hc : s.cur.consume [] t.vl = s.cur := consume_unbound _ hs _ _
  simp only [bulkEndX, bound_unbound t ht, streamTags, run_bind, run_pure, run_onCur, State.onCur, hc]

/-- R216: an instruction that is dispatched, makes its writes w and ends, then does end_, is done. -/
theorem bulkDone_of_ready (hsh : VectorsOnly sh) (h : VecReady o sh more s u) {i : Instr} {m : Run Unit}
    (hi : exec i s = instr o m s) {act : Names → Strand → Run Unit} {rest : Taint → Run Unit}
    (hm : m s = bulkAct o sh more act rest s) {w end_ : Strand → Strand}
    (hact : act (s.cur.names o) u.cur u = .ok () (u.onCur w)) (hw : Unbound (w u.cur))
    (hrest : ∀ t, rest (u.cur.sourceSet o sh (s.cur.names o)) t = .ok () (t.onCur end_)) :
    ∃ t, exec i s = .next t ∧ BulkDone o sh w end_ u t := by
  have hend := bulkEndX_unbound (o := o) (sh := sh) (n := s.cur.names o) (ready_unbound hsh h) (s := u.onCur w) hw
  simp only [bulkAct, run_bind, prep_ready h, run_cur, hact, hend, hrest] at hm
  refine ⟨_, hi.trans (instr_ok o m hm), ?_, rfl, rfl, rfl, fun _ => rfl⟩
  simp only [ready_names hsh h]
  rfl

theorem bulkDone_plain (hsh : VectorsOnly sh) (h : VecReady o sh more s u) {i : Instr} {m : Run Unit}
    (hi : exec i s = instr o m s) (act : Names → Strand → Run Unit)
    (hm : m s = bulkAct o sh more act (fun _ => pure ()) s) {w : Strand → Strand}
    (hact : act (s.cur.names o) u.cur u = .ok () (u.onCur w)) (hw : Unbound u.cur → Unbound (w u.cur)) :
    ∃ t, exec i s = .next t ∧ BulkDone o sh w id u t :=
  bulkDone_of_ready hsh h hi hm hact (hw (ready_unbound hsh h)) fun _ => rfl

end

end Sys2Proof.IntegerLogic
end

section
/-! SUPPORT. VCOMPRESS (R218), VEXTS (R220) and the predicate instructions (R221): what each does in its one step. -/

namespace Sys2Proof.IntegerLogic

open Sys2Proof.Machine Sys2Proof.Claims Sys2Proof.Laws

/-! ### VCOMPRESS (R218) -/

theorem range_zip_map_eq_zipIdx {α β : Type} (l : List α) (g : α → β) :
    (List.range l.length).zip (l.map g) = l.zipIdx.map fun e => (e.2, g e.1) :=
  List.ext_getElem (by simp) fun i _ _ => by simp

/-- VCOMPRESS reads all that it takes, then writes it from element 0 on. -/
def compressAct (o : Operands) (n : Names) (t : Strand) : Run Unit := do
  let ws ← withSweep ((permShape o .p).allReads o t n) do
    let xs ← collect (t.picked o n.b) fun i => srcW t o.ty n.a i
    return (List.range xs.length).zip (xs.map (·.2))
  Run.onCur fun c => ws.foldl (fun c (i, x) => c.setElem o.ty.width n.d i x) c

/-- What VCOMPRESS does after its end: vl and al take the number taken, and the convoy closes. -/
def compressEnd (m : Nat) (x : Taint) (c : Strand) : Strand := (((c.setVl m).setAl m).addTaint .vl x).closeConvoy

theorem vcompress_eq_bulkAct (o : Operands) (s : State) : vcompress o s =
    bulkAct o (permShape o .p) (fun _ _ => true) (compressAct o)
      (fun x => Run.onCur (compressEnd (activeIn o (s.cur.names o).b s.cur).length x)) s := by
  simp only [vcompress, bulkX, bulkAct, compressAct, bind_assoc]
  rfl

theorem compressAct_unbound (o : Operands) (n : Names) {s : State} (h : Unbound s.cur) {taken : List Nat}
    (htaken : activeIn o n.b s.cur = taken) : compressAct o n s.cur s = .ok () (s.onCur fun c =>
      withElems o n.d (taken.zipIdx.map fun e => (e.2, c.elem o.ty.width n.a e.1)) c) := by
  have htaken : s.cur.picked o n.b = taken := htaken
  have hpairs : (do
      let xs ← collect taken fun i => srcW s.cur o.ty n.a i
      return (List.range xs.length).zip (xs.map (·.2)) : Run (List (Nat × Nat))) s =
      .ok (taken.zipIdx.map fun e => (e.2, s.cur.elem o.ty.width n.a e.1)) s := by
    simp only [run_bind, collect_ok fun i => srcW_unbound h o.ty n.a i s, run_pure]
    rw [List.map_map, List.length_map, ← range_zip_map_eq_zipIdx]
    rfl
  simp only [compressAct, htaken, run_bind, withSweep_ok _ hpairs, run_onCur]
  rfl

theorem setElem_trim (c : Strand) (w r i x : Nat) : (c.setElem w r i x).csr.trim = c.csr.trim := by
  unfold Strand.setElem
  split <;> rfl

theorem withElems_trim (o : Operands) (d : Nat) (l : List (Nat × Nat)) (c : Strand) :
    (withElems o d l c).csr.trim = c.csr.trim :=
  List.foldlRecOn (motive := fun b : Strand => b.csr.trim = c.csr.trim) l _ rfl fun _ h e _ =>
    (setElem_trim _ _ d e.1 e.2).trans h

theorem taintDst_perm_csr (o : Operands) (b : RegK) (n : Names) (x : Taint) (c : Strand) :
    (c.taintDst (permShape o b) n x).csr = c.csr :=
  List.foldlRecOn (motive := fun b : Strand => b.csr = c.csr) (idsOf .v o.ty n.d) _ rfl fun t h r _ =>
    (Strand.setTaint_csr t r _).trans h

theorem compressEnd_trim (m : Nat) (x : Taint) (c : Strand) : (compressEnd m x c).csr.trim = c.csr.trim := by
  simp only [compressEnd, Strand.closeConvoy_csr, Strand.addTaint, Strand.setTaint_csr]
  rfl

theorem retire_trim (c : Strand) (o : Operands) : (c.retire o).csr.trim = c.csr.trim := by
  unfold Strand.retire Strand.loopBack
  split
  · dsimp only
    split <;> rfl
  · rfl

theorem compressPacks : CompressPacks := by
  intro o s u h n taken
  have hsh : VectorsOnly (permShape o .p) := ⟨rfl, rfl⟩
  have hfree := ready_unbound hsh h
  have htaken : activeIn o n.b u.cur = taken := ready_same (activeIn o n.b) (fun _ _ _ _ => rfl) hsh h
  have hset := ready_same (·.sourceSet o (permShape o .p) n) (fun _ _ _ _ => rfl) hsh h
  have hcsr := ready_same (·.csr) (fun _ _ _ _ => rfl) hsh h
  obtain ⟨t, ht, hdone⟩ := bulkDone_of_ready hsh h (i := .vcompress o) rfl (vcompress_eq_bulkAct o s)
    (compressAct_unbound o n hfree htaken) (unbound_withElems o hfree _ _) (run_onCur (compressEnd taken.length _))
  refine ⟨t, ht, ?_, by rw [← hset]; exact hdone⟩
  obtain ⟨hcur, -⟩ := hdone
  rw [hcur, retire_trim, compressEnd_trim]
  exact congrArg Csrs.trim (taintDst_perm_csr o .p _ _ _) |>.trans (withElems_trim o n.d _ u.cur) |>.trans
    (congrArg Csrs.trim hcsr)

/-! ### VEXTS (R220) -/

theorem extendTo64_eq_extend (ty : Ty) (x : Nat) : extendTo64 ty x = extend ty x := by
  unfold extendTo64 extend
  split
  · next hs => simp only [decodeInt, hs, Bool.true_and, ge_iff_le, decide_eq_true_eq, Nat.cast_pow, Nat.cast_ofNat]
  · rfl

/-- VEXTS reads element j and puts it in sd. -/
def extractAct (o : Operands) (j : Strand → Nat) (n : Names) (t : Strand) : Run Unit := do
  let x ← srcMax t o.ty n.a (j t)
  Run.onCur (·.setS n.d (extendTo64 o.ty x))

theorem extractAct_unbound (o : Operands) (j : Strand → Nat) (n : Names) {s : State} (h : Unbound s.cur) :
    extractAct o j n s.cur s = .ok () (s.onCur fun c => c.setS n.d (extend o.ty (orZero o c n.a (j s.cur)))) := by
  simp only [extractAct, run_bind, srcMax_unbound o h, run_onCur, extendTo64_eq_extend]
  rfl

/-- The shape of VEXTS with an index of kind b. -/
def extractShape (b : RegK) : Shape := { cls := .arith, d := .s, dTy := .i8, a := .v, b := b, usesMif := false }

theorem vexts_eq_bulkAct (o : Operands) (b : RegK) (j : Strand → Nat) : vexts o b j =
    bulkAct o (extractShape b) (fun _ _ => true) (extractAct o j) (fun _ => pure ()) := by
  simp only [vexts, bulkAct, extractAct, bind_assoc]
  rfl

theorem vexts_done {o : Operands} {b : RegK} {s u : State} (h : VecReady o (extractShape b) (fun _ _ => true) s u)
    {i : Instr} {j : Strand → Nat} (hi : exec i s = instr o (vexts o b j) s) {k : Nat} (hj : j u.cur = k) :
    ∃ t, exec i s = .next t ∧ BulkDone o (extractShape b) (fun c =>
      c.setS (s.cur.names o).d (extend o.ty (orZero o c (s.cur.names o).a k))) id u t := by
  have hsh : VectorsOnly (extractShape b) := ⟨rfl, rfl⟩
  subst hj
  exact bulkDone_plain hsh h hi _ (by rw [vexts_eq_bulkAct]) (extractAct_unbound o j _ (ready_unbound hsh h))
    fun hu => unbound_setS hu _ _

theorem elementExtract : ElementExtract := by
  intro o s u
  simp only [List.forall_mem_cons]
  refine ⟨fun h => vexts_done h (j := fun t => (t.s o.b.toNat).toNat) rfl ?_,
    fun h => vexts_done h (j := fun _ => o.imm.toNat) rfl rfl, List.forall_mem_nil _⟩
  exact ready_same (fun c => (c.s o.b.toNat).toNat) (fun _ _ _ _ => rfl) ⟨rfl, rfl⟩ h

/-! ### Predicate instructions (R221) -/

/-- Both forms of an instruction have one meaning. -/
theorem both_forms {a b : Instr} {s : State} {x : Out} (ha : exec a s = x) (hb : exec b s = x) :
    ∀ i ∈ [a, b], exec i s = x := by
  simp only [List.forall_mem_cons]
  exact ⟨ha, hb, List.forall_mem_nil _⟩

theorem predLogic_runs : ∀ e ∈ predLogic, ∀ o s, exec (e.1 o) s = instr o (bulkE (predOp e.2.1 e.2.2) o) s := by
  simp only [predLogic, List.forall_mem_cons]
  exact ⟨fun _ _ => rfl, fun _ _ => rfl, fun _ _ => rfl, fun _ _ => rfl, fun _ _ => rfl, fun _ _ => rfl, fun _ _ => rfl,
    fun _ _ => rfl, nofun⟩

theorem predShape_vectorsOnly (d a b : RegK) (mif : Bool) : VectorsOnly (predShape d a b mif) := ⟨rfl, rfl⟩

section
variable {o : Operands} {s u : State} {i : Instr}

theorem predLogic_done {b : RegK} {f : Bool → Bool → Bool} (h : VecReady o (predShape .p .p b true) (fun _ _ => true) s u)
    (hi : exec i s = instr o (bulkE (predOp b f) o) s) : ∃ t, exec i s = .next t ∧
    BulkDone o (predShape .p .p b true) (fun c => withBits (s.cur.names o).d
      ((active o c).map fun i => (i, f (c.p (s.cur.names o).a i) (c.p (s.cur.names o).b i))) c) id u t := by
  refine bulkDone_plain (predShape_vectorsOnly ..) h hi
    (fun n t => withSweep ((predShape .p .p b true).allReads o t n) (each (t.actives o) ((predOp b f).body o n t))) rfl
    (withSweep_ok _ ((each_onCur _ _ _).trans ?_)) fun hu => unbound_withBits hu _ _
  simp only [State.onCur, foldl_setP_eq_withBits _ _ _ _ (nodup_actives o u.cur)]
  rfl

theorem pset_done (h : VecReady o (predShape .p .z .z false) (fun _ _ => true) s u) (hi : exec i s = instr o (pset o) s) :
    ∃ t, exec i s = .next t ∧ BulkDone o (predShape .p .z .z false) (fun c =>
      c.setPAll (s.cur.names o).d (BitVec.ofNat 16384 (2 ^ min c.vl (4 * c.gvl) - 1))) id u t :=
  bulkDone_plain (predShape_vectorsOnly ..) h hi
    (fun n t => Run.onCur (·.setPAll n.d (BitVec.ofNat 16384 (2 ^ min t.vl (4 * t.gvl) - 1)))) rfl rfl
    fun hu => unbound_setPAll hu _ _

theorem pfirst_done (h : VecReady o (predShape .p .p .z true) (fun _ _ => true) s u)
    (hi : exec i s = instr o (pfirst o) s) : ∃ t, exec i s = .next t ∧
    BulkDone o (predShape .p .p .z true) (fun c => withBits (s.cur.names o).d ((active o c).map fun i =>
      (i, decide ((activeIn o (s.cur.names o).a c).head? = some i))) c) id u t := by
  refine bulkDone_plain (predShape_vectorsOnly ..) h hi
    (fun n t => each (t.actives o) fun i => Run.onCur fun c => c.setP n.d i ((t.picked o n.a).head? == some i)) rfl
    ((each_onCur _ _ _).trans ?_) fun hu => unbound_withBits hu _ _
  simp only [State.onCur, foldl_setP_const _ (fun i => i), beq_eq_decide]
  rfl

theorem pcount_done (h : VecReady o (predShape .s .p .z true) (fun _ _ => true) s u)
    (hi : exec i s = instr o (pcount o) s) : ∃ t, exec i s = .next t ∧
    BulkDone o (predShape .s .p .z true) (fun c =>
      c.setS (s.cur.names o).d (BitVec.ofNat 64 (activeIn o (s.cur.names o).a c).length)) id u t :=
  bulkDone_plain (predShape_vectorsOnly ..) h hi
    (fun n t => Run.onCur (·.setS n.d (BitVec.ofNat 64 (t.picked o n.a).length))) rfl rfl fun hu => unbound_setS hu _ _

theorem pmovsToScalar_done (h : VecReady o (predShape .s .p .z false) (wordOk o) s u) :
    ∃ t, exec (.pmovsToScalar o) s = .next t ∧ BulkDone o (predShape .s .p .z false) (fun c => c.setS (s.cur.names o).d
      (BitVec.ofFnLE fun k : Fin 64 => c.p (s.cur.names o).a (64 * o.imm.toNat + k.val))) id u t := by
  refine bulkDone_plain (predShape_vectorsOnly ..) h (m := pmovsToScalar o) rfl
    (fun n t => Run.onCur (·.setS n.d (BitVec.ofNat 64 (sumBits (fun k => t.p n.a (64 * o.imm.toNat + k)) 64)))) rfl ?_
    fun hu => unbound_setS hu _ _
  simp only [ofNat_sumBits, run_onCur, State.onCur]

theorem pmovsToPredicate_done (h : VecReady o (predShape .p .s .z false) (wordOk o) s u) :
    ∃ t, exec (.pmovsToPredicate o) s = .next t ∧ BulkDone o (predShape .p .s .z false) (fun c =>
      withBits (s.cur.names o).d ((List.range 64).map fun k =>
        (64 * o.imm.toNat + k, (c.s (s.cur.names o).a).getLsbD k)) c) id u t := by
  refine bulkDone_plain (predShape_vectorsOnly ..) h (m := pmovsToPredicate o) rfl
    (fun n t => each (List.range 64) fun k => Run.onCur fun c =>
      c.setP n.d (64 * o.imm.toNat + k) ((t.s n.a).getLsbD k)) rfl ((each_onCur _ _ _).trans ?_)
    fun hu => unbound_withBits hu _ _
  simp only [State.onCur, foldl_setP_const _ (64 * o.imm.toNat + ·)]

end

theorem predicateInstructions : PredicateInstructions := fun o s _ =>
  ⟨fun e he h => predLogic_done h (predLogic_runs e he o s),
   fun _ hi h => pset_done h (both_forms (x := instr o (pset o) s) rfl rfl _ hi),
   fun _ hi h => pfirst_done h (both_forms (x := instr o (pfirst o) s) rfl rfl _ hi),
   fun _ hi h => pcount_done h (both_forms (x := instr o (pcount o) s) rfl rfl _ hi),
   pmovsToScalar_done, pmovsToPredicate_done⟩

/-- Settles O41: with nothing bound, each of these instructions reads what it needs and then makes its writes in one step. -/
theorem predicatesAndElements : Obligations.PredicatesAndElements := ⟨compressPacks, elementExtract, predicateInstructions⟩

end Sys2Proof.IntegerLogic
end

section
/-! SUPPORT. Accesses that need no walk (R75 to R85): a kept translation answers and changes nothing, and so a body of
instructions is measured parcel by parcel (R329). -/

namespace Sys2Proof.StrandsControl

open Sys2Proof.Machine Sys2Proof.Claims Sys2Proof.Laws

theorem run_get {ε σ : Type} (s : σ) : (get : EStateM ε σ σ) s = .ok s s := rfl

theorem drain_of_buf_nil {s : State} (h : s.cur.buf = []) : s.drain = s := by
  obtain ⟨c, others, dev, agenda⟩ := s
  obtain ⟨⟩ := c
  simp only at h
  subst h
  rfl

/-- R85: a leaf in the TLB that grants the access gives the physical address, with the device as it was. -/
theorem translateOnce_of_translates {s : State} {acc : Acc} {va : Word} {pa : Nat} (hacc : acc ≠ .loader)
    (h : Translates s acc va pa) : translateOnce s.cur.ctx acc false va s.dev = .ok pa s.dev := by
  obtain ⟨-, hva, hwin, e, hhit, hgrants, -, hphys, hbacked⟩ := h
  have hphys := hphys false nofun
  have hfinish : finish s.cur.ctx acc false va (e.phys + va.toNat % 2 ^ e.shift) s.dev = .ok pa s.dev := by
    have hload : (acc == .loader) = false := beq_false_of_ne hacc
    have hvf : s.cur.ctx.vf = s.cur.vf := rfl
    simp only [finish, run_bind, run_get, hvf, hload, Bool.or_false, hphys, hbacked, Bool.true_or, if_true, run_pure]
  have hwin : (decide (0x7F0000000000 ≤ va.toNat) && decide (va.toNat < 0x7F1000000000)) = false := by
    simpa using hwin
  simp only [translateOnce, run_bind, run_get, ge_iff_le, Nat.not_le.mpr hva, hwin, hhit, hgrants, hfinish, Bool.not_true,
    Bool.false_and, Bool.false_eq_true, if_false]

theorem translateS_of_translates {s : State} {acc : Acc} {va : Word} {pa : Nat} (hacc : acc ≠ .loader)
    (h : Translates s acc va pa) : translateS acc false va s = .ok pa s := by
  have hdev : Run.dev (Machine.translate s.cur.ctx acc false va) s = .ok pa s := by
    simp only [Run.dev, Machine.translate, run_bind, translateOnce_of_translates hacc h, Bool.false_eq_true, if_false,
      run_pure]
  obtain ⟨hvf | hbuf, -, -, e, hhit, -⟩ := h
  · simp only [translateS, run_bind, run_get, hvf, hhit, BEq.rfl, Bool.not_false, Bool.true_or, Bool.and_true, if_true,
      hdev]
  · have hdrain : drain s = .ok () s := congrArg (EStateM.Result.ok ()) (drain_of_buf_nil hbuf)
    simp only [translateS, run_bind, run_get, hhit, Bool.not_false, Bool.true_or, Bool.and_true]
    split
    · exact hdev
    · simp only [run_bind, hdrain, hdev]

theorem bodyParcel_of_parcelAt {s : State} {a : Word} {p : Nat} (h : ParcelAt s a p) : bodyParcel a s = .ok p s := by
  obtain ⟨pa, htr, hclean, rfl⟩ := h
  simp only [bodyParcel, run_bind, translateS_of_translates (by decide) htr, run_get, hclean, Bool.not_false, run_check_true,
    run_pure]

/-- The end of a body, as its LEN fields give it, is the address that NEST computes. -/
theorem skipInstrs_of_bodyEnds {s : State} {stop : Word} :
    ∀ {n : Nat} {a : Word}, BodyEnds s n a stop → skipInstrs bodyParcel n a s = .ok stop s
  | 0, _, h => congrArg (EStateM.Result.ok · s) h
  | n + 1, a, ⟨p, hparcel, hrest⟩ => by
    simp only [skipInstrs, run_bind, bodyParcel_of_parcelAt hparcel]
    cases hform : formOf p with
    | none =>
      rw [hform] at hrest
      exact skipInstrs_of_bodyEnds hrest
    | some f =>
      rw [hform] at hrest
      exact skipInstrs_of_bodyEnds hrest

end Sys2Proof.StrandsControl
end

section
/-! SUPPORT. Loop nests (R329 to R331): how an instruction is refused where it may not stand, the start of a nest, the
count of its indices, and its exit. -/

namespace Sys2Proof.StrandsControl

open Sys2Proof.Machine Sys2Proof.Claims Sys2Proof.Laws
open Sys2Proof.IntegerLogic (both_forms)

/-! ### Refusals -/

section
variable {o : Operands} {s : State}

theorem checkIll_true : checkIll o true s = .ok () s := rfl
theorem checkIll_false : checkIll o false s = .error (.cause .ill (parcel0 o)) s := rfl

theorem instr_ill {m : Run Unit} (h : m s = .error (.cause .ill (parcel0 o)) s) :
    instr o m s = .next (s.trap .ill (parcel0 o) s.cur.pc false) := instr_error o m h

theorem flow_ill {m : Run (Option Word)} (h : m s = .error (.cause .ill (parcel0 o)) s) :
    flow o m s = .next (s.trap .ill (parcel0 o) s.cur.pc false) := flow_error o m h

theorem waits_ill {m : Run (Option Wait)} (h : m s = .error (.cause .ill (parcel0 o)) s) :
    waits o m s = .next (s.trap .ill (parcel0 o) s.cur.pc false) := waits_error o m h

theorem skips_past {m : Run (Option Word)} {t : State} {a : Word} (h : m s = .ok (some a) t) :
    skips o m s = .next (t.onCur fun c => { c with pc := a }) := by
  simp only [skips, h, endSkip]

theorem skips_on {m : Run (Option Word)} {t : State} (h : m s = .ok none t) :
    skips o m s = .next (t.onCur (·.retire o)) := by
  simp only [skips, h, endSkip]

theorem skips_ill {m : Run (Option Word)} (h : m s = .error (.cause .ill (parcel0 o)) s) :
    skips o m s = .next (s.trap .ill (parcel0 o) s.cur.pc false) := by
  simp only [skips, h, endSkip, State.stopAt_cause]

/-! ### What a body may not hold (R331) -/

theorem notInNest_stops (h : s.cur.nestHere = true) : notInNest o s = .error (.cause .ill (parcel0 o)) s := by
  simp only [notInNest, run_bind, run_cur, h, Bool.not_true, checkIll_false]

/-- R331: inside a body an instruction that may not stand there stops before it does anything. -/
theorem notInNest_bind_stops {α : Type} (h : s.cur.nestHere = true) (f : Unit → Run α) :
    (notInNest o >>= f) s = .error (.cause .ill (parcel0 o)) s := by
  simp only [run_bind, notInNest_stops h]

theorem yieldTurn_stops (h : s.cur.nestHere = true) : yieldTurn o s = s.trap .ill (parcel0 o) s.cur.pc false := by
  simp only [yieldTurn, notInNest_stops h, State.stopAt_cause]

theorem cbar_stops (h : s.cur.nestHere = true) : cbar o s = s.trap .ill (parcel0 o) s.cur.pc false := by
  simp only [cbar, notInNest_bind_stops h, State.stopAt_cause]

theorem exitStrand_stops (h : s.cur.nestHere = true) : exitStrand o s = s.trap .ill (parcel0 o) s.cur.pc false := by
  simp only [exitStrand, notInNest_bind_stops h, State.stopAt_cause]

theorem vtb_stops (h : s.cur.nestHere = true) : s.vtbEnd o (vtb o s) = s.trap .ill (parcel0 o) s.cur.pc false := by
  simp only [vtb, notInNest_bind_stops h, State.vtbEnd]

theorem farmRecord_stops (h : s.cur.nestHere = true) : farmRecord o s = .error (.cause .ill (parcel0 o)) s :=
  notInNest_bind_stops h _

theorem strip_stops (h : s.cur.nestHere = true) : strip o s = .error (.cause .ill (parcel0 o)) s := by
  simp only [strip, run_bind, farmRecord_stops h]

theorem fbar_stops (h : s.cur.nestHere = true) : fbar o s = .error (.cause .ill (parcel0 o)) s := by
  simp only [fbar, run_bind, farmRecord_stops h]

/-- A supervisor in a body may not return from a trap. -/
theorem eret_stops (h : s.cur.nestHere = true) (hsup : s.cur.sup.tlevel ≠ 0) :
    eret o s = s.trap .ill (parcel0 o) s.cur.pc false := by
  have hpriv : supervisor o s = .ok () s := by
    simp only [supervisor, run_bind, run_cur, bne_iff_ne.mpr hsup, run_check_true]
  simp only [eret, eretChecks, run_bind, hpriv, notInNest_stops h, State.stopAt_cause]

theorem nest_stops_active (h : s.cur.nest.active = true) :
    exec (.nest o) s = .next (s.trap .ill (parcel0 o) s.cur.pc false) :=
  skips_ill (by simp only [run_bind, run_cur, h, Bool.not_true, checkIll_false])

theorem nest_active_of_nestHere {c : Strand} (h : c.nestHere = true) : c.nest.active = true :=
  (Bool.and_eq_true_iff.mp h).1

end

/-- Each branch of R325 is a branch on some sources. -/
theorem branchTable_runs : ∀ e ∈ branchTable, ∀ o s, ∃ m srcs taken,
    exec (e.1 o) s = flow o m s ∧ m s = branch o srcs taken s := by
  simp only [branchTable, List.forall_mem_cons]
  exact ⟨fun _ _ => ⟨_, _, _, rfl, rfl⟩, fun _ _ => ⟨_, _, _, rfl, rfl⟩, fun _ _ => ⟨_, _, _, rfl, rfl⟩,
    fun _ _ => ⟨_, _, _, rfl, rfl⟩, fun _ _ => ⟨_, _, _, rfl, rfl⟩, fun _ _ => ⟨_, _, _, rfl, rfl⟩,
    fun _ _ => ⟨_, _, _, rfl, rfl⟩, fun _ _ => ⟨_, _, _, rfl, rfl⟩, fun _ _ => ⟨_, _, _, rfl, rfl⟩,
    fun _ _ => ⟨_, _, _, rfl, rfl⟩, fun _ _ => ⟨_, _, _, rfl, rfl⟩, nofun⟩

theorem nestForbids : NestForbids := by
  intro o s h
  have hstop : ∀ x : State, x = s.trap .ill (parcel0 o) s.cur.pc false →
      (.next x : Out) = .next (s.trap .ill (parcel0 o) s.cur.pc false) := fun _ => congrArg _
  refine ⟨?_, fun hsup i hi => ?_⟩
  · have hflow := fun f => flow_ill (o := o) (notInNest_bind_stops h f)
    have hill : instr o (ill o) s = _ := instr_ill rfl
    have hfarm : instr o (farmBind o) s = _ := instr_ill (notInNest_bind_stops h _)
    have hstrip := instr_ill (strip_stops h (o := o))
    have hfbar := waits_ill (fbar_stops h (o := o))
    have hcbar := hstop _ (cbar_stops h)
    have hyield := hstop _ (yieldTurn_stops h)
    have hexit := hstop _ (exitStrand_stops h)
    simp only [forbiddenInNest, List.append_eq, List.forall_mem_append, List.forall_mem_map, List.forall_mem_cons]
    refine ⟨fun e he => ?_, hflow _, hflow _, hflow _, hflow _, hflow _, hstop _ (vtb_stops h), hill, hill, hill,
      hfarm, hfarm, hstrip, hstrip, hfbar, hfbar, hcbar, hcbar, hyield, hyield, hexit, hexit,
      nest_stops_active (nest_active_of_nestHere h), List.forall_mem_nil _⟩
    obtain ⟨m, srcs, taken, hexec, hm⟩ := branchTable_runs e he o s
    exact hexec.trans (flow_ill (hm.trans (notInNest_bind_stops h _)))
  · have heret := hstop _ (eret_stops h hsup)
    exact both_forms (a := .eret o) (b := .eretL64 o) heret heret i hi

/-! ### The start (R329, R330) -/

theorem bindOf_isNone_iff {c : Strand} {r : Nat} : (c.bindOf r).isNone = true ↔ ∀ b ∈ c.binds, b.reg ≠ r := by
  simp [Strand.bindOf]

section
variable {o : Operands} {s : State}

theorem nest_stops_bound (hact : s.cur.nest.active = false) (h : (s.cur.bindOf (s.cur.names o).a).isNone = false) :
    exec (.nest o) s = .next (s.trap .ill (parcel0 o) s.cur.pc false) :=
  skips_ill (by simp only [run_bind, run_cur, hact, Bool.not_false, checkIll_true, h, checkIll_false])

theorem pc_of_inFile {regs : List Nat} {u : State} (h : InFile regs s u) : u.cur.pc = s.cur.pc := by
  have hcur : u.cur = _ := (touch_moved _ _ _ h).cur
  rw [hcur]

/-- What NEST does before it starts a nest or passes over its body: later stores wait for the loads of the counts, and the
indices are 0. -/
def nestPrep (o : Operands) (v : Nat) (c : Strand) : Strand :=
  { c.orderLater (.v v :: if o.xa then [.s o.a.toNat] else []) with csr := { c.csr with li := [] } }

/-- The nest that NEST makes active. -/
def nestOf (o : Operands) (stop : Word) (counts : List Nat) (c : Strand) : Nest :=
  ⟨true, c.pc + 8, stop, o.im 3 5 + 1, o.im 0 3 + 1, counts, c.sup.tlevel⟩

/-- The counts of a nest, read from a vector register. -/
def nestCounts (o : Operands) (v : Nat) (c : Strand) : List Nat :=
  (List.range (o.im 0 3 + 1)).map fun j => (c.word v j).toNat

/-- R329, R330: NEST with its register in the file passes over its body where a count is 0, and starts the nest otherwise. -/
theorem nest_runs {u : State} {stop : Word} {v : Nat} (hv : (s.cur.names o).a = v) (hact : s.cur.nest.active = false)
    (hfree : (s.cur.bindOf v).isNone = true) (hfile : InFile [v] s u)
    (hbody : BodyEnds u (o.im 3 5 + 1) (s.cur.pc + 8) stop) :
    (0 ∈ nestCounts o v u.cur → exec (.nest o) s = .next (u.onCur fun c => { nestPrep o v c with pc := stop })) ∧
    (0 ∉ nestCounts o v u.cur → exec (.nest o) s = .next (u.onCur fun c =>
      { nestPrep o v c with nest := nestOf o stop (nestCounts o v u.cur) c }.retire o)) := by
  subst hv
  have htouch : touch [(s.cur.names o).a] s = .ok () u := hfile
  rw [← pc_of_inFile hfile] at hbody
  refine ⟨fun h0 => ?_, fun h0 => ?_⟩
  · have hany : (nestCounts o (s.cur.names o).a u.cur).any (· == 0) = true := by rwa [List.any_beq', List.contains_iff_mem]
    unfold nestCounts at hany
    refine skips_past (t := u.onCur (nestPrep o _)) ?_
    simp only [run_bind, run_cur, hact, Bool.not_false, checkIll_true, hfree, htouch, skipInstrs_of_bodyEnds hbody,
      run_onCur, hany, if_true, run_pure]
    rfl
  · have hany : (nestCounts o (s.cur.names o).a u.cur).any (· == 0) = false := by
      rwa [List.any_beq', Bool.eq_false_iff, Ne, List.contains_iff_mem]
    unfold nestCounts at hany
    refine skips_on (t := u.onCur fun c => { nestPrep o _ c with nest := nestOf o stop (nestCounts o _ u.cur) c }) ?_
    simp only [run_bind, run_cur, hact, Bool.not_false, checkIll_true, hfree, htouch, skipInstrs_of_bodyEnds hbody,
      run_onCur, hany, Bool.false_eq_true, if_false, run_pure]
    rfl

end

theorem nestStarts : NestStarts := by
  intro o s v
  refine ⟨fun h => ?_, ?_⟩
  · cases hact : s.cur.nest.active with
    | true => exact nest_stops_active hact
    | false =>
      obtain ⟨b, hb, hreg⟩ := h.resolve_left (by simp [hact])
      refine nest_stops_bound hact (Bool.eq_false_iff.mpr fun hnone => ?_)
      exact bindOf_isNone_iff.mp hnone b hb hreg
  · intro stop u hact hfree hfile hbody counts
    obtain ⟨hpast, hstart⟩ := nest_runs rfl hact (bindOf_isNone_iff.mpr hfree) hfile hbody
    by_cases h0 : 0 ∈ counts
    · simp only [h0, if_true]
      exact hpast h0
    · simp only [h0, if_false]
      exact hstart h0

/-! ### The count of the indices (R330) -/

/-- A level at its count goes to 0, and the next level out counts. -/
theorem nestAdvance_carry {c i : Nat} {cs : List Nat} {li : Store 32} (h : c ≤ (Store.get li i).toNat + 1) :
    nestAdvance (c :: cs) li i = nestAdvance cs (Store.set li i 0) (i + 1) := if_neg (Nat.not_lt.mpr h)

/-- The levels further out stay where level i goes to 0. -/
theorem get_set_zero_outside (li : Store 32) (i k : Nat) :
    Store.get (Store.set li i 0) (i + 1 + k) = Store.get li (i + (k + 1)) := by
  rw [Store.get, Tab.get_set_other _ _ _ (by omega), Nat.add_assoc, Nat.add_comm 1]

/-- Level i and the n levels next to it are 0, where it has gone to 0 and the count of the others has left it alone. -/
theorem zero_from {li li' : Store 32} {i n : Nat} (hinner : ∀ k < i + 1, Store.get li' k = Store.get (Store.set li i 0) k)
    (hzero : ∀ k < n, Store.get li' (i + 1 + k) = 0) : ∀ k < n + 1, Store.get li' (i + k) = 0
  | 0, _ => (hinner i (Nat.lt_succ_self i)).trans (Tab.get_set_same ..)
  | k + 1, hk => by rw [← hzero k (Nat.lt_of_succ_lt_succ hk), Nat.add_assoc, Nat.add_comm 1]

/-- The innermost level below its count advances, the levels inside it go to 0, and others stay. -/
theorem nestAdvance_again : ∀ (cs : List Nat) (li : Store 32) (i j : Nat) (hj : j < cs.length), cs[j] < 2 ^ 32 →
    (Store.get li (i + j)).toNat + 1 < cs[j] → (∀ (k : Nat) (hk : k < j), cs[k] ≤ (Store.get li (i + k)).toNat + 1) →
    ∃ li', nestAdvance cs li i = (li', true) ∧ (Store.get li' (i + j)).toNat = (Store.get li (i + j)).toNat + 1 ∧
      (∀ k < j, Store.get li' (i + k) = 0) ∧ ∀ k, k < i ∨ i + j < k → Store.get li' k = Store.get li k
  | c :: cs, li, i, 0, _, hc, hlt, _ => by
    refine ⟨_, if_pos hlt, ?_, nofun, fun k hk => Tab.get_set_other _ _ _ (by omega)⟩
    simp only [Nat.add_zero, Tab.get_set_same, BitVec.toNat_ofNat]
    exact Nat.mod_eq_of_lt (hlt.trans hc)
  | c :: cs, li, i, j + 1, hj, hc, hlt, hinner => by
    obtain ⟨li', hadv, hj', hzero, hother⟩ := nestAdvance_again cs (Store.set li i 0) (i + 1) j
      (Nat.lt_of_succ_lt_succ hj) hc (by rwa [get_set_zero_outside])
      fun k hk => by rw [get_set_zero_outside]; exact hinner (k + 1) (Nat.succ_lt_succ hk)
    refine ⟨li', (nestAdvance_carry (hinner 0 (Nat.succ_pos j))).trans hadv, ?_,
      zero_from (fun k hk => hother k (.inl hk)) hzero, fun k hk => ?_⟩
    · rwa [get_set_zero_outside, Nat.add_assoc, Nat.add_comm 1] at hj'
    · rw [hother k (by omega), Store.get, Tab.get_set_other _ _ _ (by omega)]

/-- Where no level lies below its count every index goes to 0. -/
theorem nestAdvance_done : ∀ (cs : List Nat) (li : Store 32) (i : Nat),
    (∀ (k : Nat) (hk : k < cs.length), cs[k] ≤ (Store.get li (i + k)).toNat + 1) →
    ∃ li', nestAdvance cs li i = (li', false) ∧ (∀ k < cs.length, Store.get li' (i + k) = 0) ∧
      ∀ k < i, Store.get li' k = Store.get li k
  | [], li, i, _ => ⟨li, rfl, nofun, fun _ _ => rfl⟩
  | c :: cs, li, i, h => by
    obtain ⟨li', hadv, hzero, hinner⟩ := nestAdvance_done cs (Store.set li i 0) (i + 1)
      fun k hk => by rw [get_set_zero_outside]; exact h (k + 1) (Nat.succ_lt_succ hk)
    refine ⟨li', (nestAdvance_carry (h 0 (Nat.succ_pos _))).trans hadv, zero_from hinner hzero, fun k hk => ?_⟩
    rw [hinner k (by omega), Store.get, Tab.get_set_other _ _ _ (by omega)]

section
variable {c : Strand} {li : Store 32}

theorem loopBack_again (h : c.nestHere = true) (hpc : c.pc = c.nest.stop)
    (hadv : nestAdvance c.nest.counts c.csr.li 0 = (li, true)) :
    c.loopBack = { c with csr := { c.csr with li := li }, pc := c.nest.start, convoy := .closed } := by
  simp only [Strand.loopBack, h, hpc, BEq.rfl, Bool.and_self, if_true, hadv]

theorem loopBack_done (h : c.nestHere = true) (hpc : c.pc = c.nest.stop)
    (hadv : nestAdvance c.nest.counts c.csr.li 0 = (li, false)) :
    c.loopBack = { c with csr := { c.csr with li := li }, nest := { c.nest with active := false } } := by
  simp only [Strand.loopBack, h, hpc, BEq.rfl, Bool.and_self, if_true, hadv, Bool.false_eq_true, if_false]

end

theorem onlyCur_onCur (s : State) (f : Strand → Strand) : OnlyCur s (s.onCur f) := ⟨rfl, rfl, rfl, fun _ => rfl⟩

theorem loopBackCounts : LoopBackCounts := by
  intro s h hpc hcounts cs
  refine ⟨fun j hj hlt hinner => ?_, fun hall => ?_⟩
  · obtain ⟨li, hadv, hnext, hzero, hother⟩ := nestAdvance_again cs s.cur.csr.li 0 j hj
      (hcounts _ (List.getElem_mem hj)) (by rwa [Nat.zero_add]) fun k hk => by rw [Nat.zero_add]; exact hinner k hk
    simp only [Nat.zero_add] at hnext hzero hother
    refine ⟨_, rfl, onlyCur_onCur s _, ?_⟩
    rw [State.onCur_cur, loopBack_again h hpc hadv]
    exact ⟨rfl, rfl, hnext, fun k hk => congrArg BitVec.toNat (hzero k hk),
      fun k hk => congrArg BitVec.toNat (hother k (.inr hk))⟩
  · obtain ⟨li, hadv, hzero, -⟩ := nestAdvance_done cs s.cur.csr.li 0 fun k hk => by
      rw [Nat.zero_add]
      exact hall k hk
    simp only [Nat.zero_add] at hzero
    refine ⟨_, rfl, onlyCur_onCur s _, ?_⟩
    rw [State.onCur_cur, loopBack_done h hpc hadv]
    exact ⟨rfl, rfl, fun k hk => congrArg BitVec.toNat (hzero k hk)⟩

/-! ### The exit (R329) -/

section
variable {o : Operands} {s : State}

theorem nestExit_ok (h : s.cur.nestHere = true) : nestExit o s =
    .ok (some s.cur.nest.stop) (s.onCur fun c => { c with nest := { c.nest with active := false } }) := by
  simp only [nestExit, run_bind, run_cur, h, checkIll_true, run_onCur, run_pure]

theorem nestExit_stops (h : s.cur.nestHere = false) : nestExit o s = .error (.cause .ill (parcel0 o)) s := by
  simp only [nestExit, run_bind, run_cur, h, checkIll_false]

theorem nestExitIf_stops (h : s.cur.nestHere = false) : nestExitIf o s = .error (.cause .ill (parcel0 o)) s := by
  simp only [nestExitIf, run_bind, run_cur, h, checkIll_false]

theorem nestExitIf_zero (h : s.cur.nestHere = true) (h0 : s.cur.s o.a.toNat = 0) :
    nestExitIf o s = .ok none (s.onCur (·.orderLater [.s o.a.toNat])) := by
  simp only [nestExitIf, run_bind, run_cur, h, checkIll_true, run_onCur, h0, BEq.rfl, if_true, run_pure]

theorem nestExitIf_nonzero (h : s.cur.nestHere = true) (h0 : s.cur.s o.a.toNat ≠ 0) :
    nestExitIf o s = nestExit o (s.onCur (·.orderLater [.s o.a.toNat])) := by
  simp only [nestExitIf, run_bind, run_cur, h, checkIll_true, run_onCur, beq_false_of_ne h0, Bool.false_eq_true, if_false]

end

theorem nestExits : NestExits := by
  intro o s out
  refine ⟨fun h => ?_, fun h => ?_, fun h => ?_⟩
  · have hexit := flow_jump o _ (nestExit_ok (o := o) h)
    exact both_forms hexit hexit
  · have hexit : flow o (nestExitIf o) s = .next (s.onCur fun c =>
        if c.s o.a.toNat = 0 then (c.orderLater [.s o.a.toNat]).retire o else out (c.orderLater [.s o.a.toNat])) := by
      by_cases h0 : s.cur.s o.a.toNat = 0
      · rw [flow_on o _ (nestExitIf_zero h h0)]
        simp only [State.onCur, h0, if_true]
      · rw [flow_jump o _ ((nestExitIf_nonzero h h0).trans (nestExit_ok h))]
        simp only [State.onCur, h0, if_false]
        rfl
    exact both_forms hexit hexit
  · have hexit := flow_ill (nestExit_stops (o := o) h)
    have hexitIf := flow_ill (nestExitIf_stops (o := o) h)
    simp only [List.forall_mem_cons]
    exact ⟨hexit, hexit, hexitIf, hexitIf, List.forall_mem_nil _⟩

/-- Settles O31: NEST measures its body and starts the nest, its end counts the indices as an odometer does, NEXIT leaves it,
and what the body may not hold stops before it does anything. -/
theorem loopNests : Obligations.LoopNests := ⟨nestStarts, loopBackCounts, nestExits, nestForbids⟩

end Sys2Proof.StrandsControl
end

section
/-! SUPPORT. Control nodes (R358 to R360): how a ready node starts and does its work, and what the decrements of COND,
SWITCH and LOOP are. -/

namespace Sys2Proof.Scheduling

open Sys2Proof.Machine Sys2Proof.Claims Sys2Proof.Laws
open Sys2Proof.StrandsControl (run_get)

/-! ### Steps of the walker -/

theorem attempt_ok {α : Type} {m : DevM α} {d d' : Device} {x : α} (h : m d = .ok x d') :
    DevM.attempt m d = .ok (some x) d' := by
  simp only [DevM.attempt, h]

theorem devRun_ok {α : Type} {m : DevM α} {s : State} {d : Device} {x : α} (h : m s.dev = .ok x d) :
    s.devRun m = (some x, { s with dev := d }) := by
  simp only [State.devRun, DevM.on, h]

theorem run_modify {ε σ : Type} (f : σ → σ) (s : σ) : (modify f : EStateM ε σ PUnit) s = .ok ⟨⟩ (f s) := rfl

section
variable {q n : Nat} {s : State} {d d' : Device}

theorem wget_of_walkReads {va k x : Nat} (h : WalkReads d q va k x) : wget q va k d = .ok x d := h

theorem wgetWord_of_walkReads {va x : Nat} (ha : va % 8 = 0) (h : WalkReads d q va 8 x) : wgetWord q va d = .ok x d := by
  simp only [wgetWord, ha, BEq.rfl, if_true, wget_of_walkReads h]

/-- A ready node of the kind starts, and leaves what its work leaves. -/
theorem runNode_of_nodeStarts {kind : Nat} {m : DevM Unit} (h : NodeStarts s q n kind d) (hm : m d = .ok () d') :
    runNode q n kind m s.dev = .ok () d' := by
  obtain ⟨hready, hkind, hstart⟩ := h
  have hkind : DevM.attempt (wget q (n + nKind) 1) s.dev = .ok (some kind) s.dev := attempt_ok hkind
  simp only [runNode, run_bind, run_get, hready, hkind, hstart, attempt_ok hm, Bool.not_true, bne_self_eq_false,
    Bool.false_eq_true, if_false, Option.isNone_some, run_pure]

/-- An event that is a step of the walker leaves the strands alone. -/
theorem next_devRun {m : DevM Unit} (h : m s.dev = .ok () d') :
    (.next (s.devRun m).2 : Out) = .next { s with dev := d' } := by
  rw [devRun_ok h]

theorem next_runNode {kind : Nat} {m : DevM Unit} (h : NodeStarts s q n kind d) (hm : m d = .ok () d') :
    (.next (s.devRun (runNode q n kind m)).2 : Out) = .next { s with dev := d' } :=
  next_devRun (runNode_of_nodeStarts h hm)

/-! ### What the decrements are -/

theorem nodeOp_iff (w v : Word) : ∀ op, nodeOp op w v = true ↔ opHolds op w v
  | 0 => by simp [nodeOp, opHolds]
  | 1 => by simp [nodeOp, opHolds]
  | 2 => by simp [nodeOp, opHolds, BitVec.slt_iff_toInt_lt]
  | 3 => by simp [nodeOp, opHolds, BitVec.slt_eq_decide]
  | 4 => by simp [nodeOp, opHolds, BitVec.ult_iff_toNat_lt]
  | op + 5 => by simp [nodeOp, opHolds, BitVec.ult]

theorem splitDecrs_eq_twoWays (l : List Nat) (k : Nat) (a b : Decr) : splitDecrs l k a b = twoWays l k a b := by
  refine List.ext_getElem (by simp [splitDecrs, twoWays]; omega) fun i _ h2 => ?_
  have hi : i < l.length := by simpa [twoWays] using h2
  by_cases hk : i < k
  · simp [splitDecrs, twoWays, hk, hi]
  · have hmin : min k l.length = k := min_eq_left (by omega)
    simp [splitDecrs, twoWays, List.getElem_append, hk, hmin, Nat.add_sub_cancel' (Nat.not_lt.mp hk)]

theorem zip_range_eq_zipIdx {α : Type} (l : List α) : l.zip (List.range l.length) = l.zipIdx := by
  rw [List.zipIdx_eq_zip_range', List.range_eq_range']

end

/-! ### Runs of nodes -/

theorem run_node (qu : Queue) (n : Nat) : (qu.run n).node = n := by
  unfold Queue.run
  cases h : qu.runs.find? (·.node == n) with
  | none => rfl
  | some r => exact beq_iff_eq.mp (List.find?_some (p := fun r : NodeRun => r.node == n) h)

theorem mem_setRun (qu : Queue) (r : NodeRun) : r ∈ (qu.setRun r).runs := by
  unfold Queue.setRun
  split
  · next h =>
    obtain ⟨x, hx, hnode⟩ := List.any_eq_true.mp h
    exact List.mem_map.mpr ⟨x, hx, if_pos hnode⟩
  · exact List.mem_append_right _ (List.mem_singleton_self r)

@[simp] theorem queue_updQueue (d : Device) (q : Nat) (f : Queue → Queue) : (d.updQueue q f).queue q = f (d.queue q) :=
  Device.queue_setQueue _ _ _

section
variable {q n : Nat} {s : State} {d d' : Device}

/-- A node that has started is among the launched runs of its queue. -/
theorem launched_of_startNode {d0 : Device} (h : startNode q n d0 = .ok () d) :
    ((d.queue q).runs.any fun r => r.node == n && r.launched) = true := by
  simp only [startNode, run_bind, run_modify] at h
  split at h
  · cases h
    rw [Device.updRun, queue_updQueue]
    refine List.any_eq_true.mpr ⟨_, mem_setRun _ _, ?_⟩
    simp only [run_node, BEq.rfl, Bool.and_self]
  · cases h

theorem isRunning_of_nodeStarts {kind : Nat} (h : NodeStarts s q n kind d) (hkind : WalkReads d q n 1 kind) :
    d.isRunning q n kind = true := by
  obtain ⟨-, -, hstart⟩ := h
  have hkind : wget q (n + nKind) 1 d = .ok kind d := hkind
  simp only [Device.isRunning, launched_of_startNode hstart, hkind, BEq.rfl, Bool.and_self]

/-! ### The work of a node, given what it reads -/

section
variable {addr w v op nt : Nat} {succ : List Nat} (haddr : WalkReads d q (n + 0x18) 8 addr) (hal : addr % 8 = 0)
  (hw : WalkReads d q addr 8 w) (hsucc : successors q n d = .ok succ d)
include haddr hal hw hsucc

theorem switchWork_eq {mask : Nat} (hmask : WalkReads d q (n + 0x20) 8 mask) : switchWork q n d =
    doneNode q n (succ.zipIdx.map fun e => (e.1, if e.2 = min (addr64 w &&& addr64 mask).toNat (succ.length - 1)
      then .done else .skip)) d := by
  simp only [switchWork, run_bind, wget_of_walkReads haddr, wgetWord_of_walkReads hal hw, wget_of_walkReads hmask, hsucc,
    zip_range_eq_zipIdx, beq_iff_eq]

variable (hv : WalkReads d q (n + 0x20) 8 v) (hop : WalkReads d q (n + 0x30) 1 op) (hnt : WalkReads d q (n + 0x12) 2 nt)
include hv hop hnt

theorem condWork_eq {mask : Nat} (hmask : WalkReads d q (n + 0x28) 8 mask) : condWork q n d =
    doneNode q n (if nodeOp op (addr64 w &&& addr64 mask) (addr64 v) then twoWays succ nt .done .skip
      else twoWays succ nt .skip .done) d := by
  simp only [condWork, run_bind, wget_of_walkReads haddr, wgetWord_of_walkReads hal hw, wget_of_walkReads hv,
    wget_of_walkReads hmask, wget_of_walkReads hop, wget_of_walkReads hnt, hsucc, splitDecrs_eq_twoWays]
  split <;> rfl

variable {itmax runs : Nat} (hitmax : WalkReads d q (n + 0x36) 2 itmax) (hruns : WalkReads d q (n + 0x14) 4 runs)
include hitmax hruns

/-- R360: the loop is left for its last successors. -/
theorem loopWork_ends (h : ¬ (opHolds op (addr64 w) (addr64 v) ∧ (itmax = 0 ∨ runs < itmax))) :
    loopWork q n d = doneNode q n ((succ.drop nt).map fun a => (a, .done)) d := by
  have hcond : (nodeOp op (addr64 w) (addr64 v) && (itmax == 0 || decide (runs < itmax))) = false := by
    rw [Bool.eq_false_iff]
    simpa only [ne_eq, Bool.and_eq_true, nodeOp_iff, Bool.or_eq_true, beq_iff_eq, decide_eq_true_eq] using h
  simp only [loopWork, run_bind, wget_of_walkReads haddr, wgetWord_of_walkReads hal hw, wget_of_walkReads hv,
    wget_of_walkReads hop, wget_of_walkReads hnt, wget_of_walkReads hitmax, wget_of_walkReads hruns, hsucc, hcond,
    Bool.false_eq_true, if_false]

/-- R360: the loop goes on: its records are re-armed, it waits again, and its first successors take DONE. -/
theorem loopWork_continues (h : opHolds op (addr64 w) (addr64 v) ∧ (itmax = 0 ∨ runs < itmax)) {back k at_ : Nat}
    {l : List Nat} {d1 d2 d3 d4 : Device} (hback : WalkReads d q (n + 0x32) 2 back)
    (hk : WalkReads d q (n + 0x34) 2 k) (hat : WalkReads d q (n + 0x28) 8 at_) (hl : wgetWords q at_ k d = .ok l d)
    (hrearm : rearmList q l d = .ok () d1) (hcount : wput q (n + 0x14) 4 (runs + 1) d1 = .ok () d2)
    (hpred : wput q (n + 4) 2 back d2 = .ok () d3) (hstate : wput q (n + 1) 1 1 d3 = .ok () d4) :
    loopWork q n d = propagate q manyDecrs ((succ.take nt).map fun a => (a, .done))
      (d4.updQueue q fun qu => { qu with runs := qu.runs.filter fun r => r.node != n }) := by
  have hcond : (nodeOp op (addr64 w) (addr64 v) && (itmax == 0 || decide (runs < itmax))) = true := by
    simpa only [Bool.and_eq_true, nodeOp_iff, Bool.or_eq_true, beq_iff_eq, decide_eq_true_eq] using h
  simp only [loopWork, run_bind, wget_of_walkReads haddr, wgetWord_of_walkReads hal hw, wget_of_walkReads hv,
    wget_of_walkReads hop, wget_of_walkReads hnt, wget_of_walkReads hitmax, wget_of_walkReads hruns, hsucc, hcond,
    if_true, wget_of_walkReads hback, wget_of_walkReads hk, wget_of_walkReads hat, hl, hrearm, hcount, hpred, hstate,
    run_modify]
  rfl

end

theorem timedWork_eq {t : Nat} (h : NodeStarts s q n 8 d) (hkind : WalkReads d q n 1 8) (ht : WalkReads d q (n + 0x18) 8 t) :
    timedWork q n s.dev = if t ≤ d.gtime.toNat then doneAll q n d else .ok () d := by
  have hstarts : runNode q n 8 (pure ()) s.dev = .ok () d := runNode_of_nodeStarts h rfl
  simp only [timedWork, run_bind, hstarts, run_get, isRunning_of_nodeStarts h hkind, if_true, attempt_ok ht]
  split <;> rfl

end

theorem controlNodes : ControlNodes := by
  intro q n s d d'
  refine ⟨?cond, ?switch, ?loop, ?timed⟩
  case cond =>
    intro addr w v mask op nt succ h haddr hal hw hv hmask hop hnt hsucc l hyes hno hdone
    refine next_runNode h ((condWork_eq haddr hal hw hsucc hv hop hnt hmask).trans ?_)
    split
    · next holds => rwa [← hyes ((nodeOp_iff ..).mp holds)]
    · next fails => rwa [← hno (mt (nodeOp_iff ..).mpr fails)]
  case switch =>
    intro addr w mask succ h haddr hal hw hmask hsucc hdone
    exact next_runNode h ((switchWork_eq haddr hal hw hsucc hmask).trans hdone)
  case loop =>
    intro addr w v op nt itmax runs succ h haddr hal hw hv hop hnt hitmax hruns hsucc again
    refine ⟨fun hends hdone => ?_, fun hagain back k at_ l d1 d2 d3 d4 hback hk hat hl h1 h2 h3 h4 hdone => ?_⟩
    · exact next_runNode h ((loopWork_ends haddr hal hw hsucc hv hop hnt hitmax hruns hends).trans hdone)
    · exact next_runNode h ((loopWork_continues haddr hal hw hsucc hv hop hnt hitmax hruns hagain hback hk hat hl h1 h2 h3
        h4).trans hdone)
  case timed =>
    intro t h hkind ht
    have hwork := timedWork_eq h hkind ht
    refine ⟨fun hle hdone => next_devRun ?_, fun hlt => next_devRun ?_⟩
    · rw [hwork, if_pos hle, hdone]
    · rw [hwork, if_neg (Nat.not_le.mpr hlt)]

end Sys2Proof.Scheduling
end

section
/-! SUPPORT. The end of a graph: the completion of COMPUTE nodes (R295), overruns (R369), and ABORT (R362, R370). -/

namespace Sys2Proof.Scheduling

open Sys2Proof.Machine Sys2Proof.Claims Sys2Proof.Laws

/-! ### The end of a COMPUTE node (R295) -/

theorem settleNode_done {q n : Nat} {s : State} {d' : Device} {run : NodeRun} (hrun : (s.dev.queue q).run n = run)
    (hne : run.strands ≠ []) (hended : ∀ r ∈ s.strands, run.strands.contains r.uid = true → r.live = false ∧ r.dying = none)
    (hcmds : ∀ c ∈ s.dev.cmds, run.strands.contains c.uid = true → c.completed = true) (hfail : run.failedStrand = false)
    (hdone : doneAll q n { s.dev with cmds := s.dev.cmds.filter fun c => !(run.strands.contains c.uid) } = .ok () d') :
    s.settleNode q n = { s with others := s.others.filter (fun r => !(run.strands.contains r.uid)), dev := d' } := by
  have hstrands : (s.strands.any fun t => (t.live || t.dying.isSome) && run.strands.contains t.uid) = false := by
    refine List.any_eq_false.mpr fun t ht => ?_
    rw [Bool.and_eq_true]
    rintro ⟨hlives, hmine⟩
    obtain ⟨hlive, hdying⟩ := hended t ht hmine
    simp only [hlive, hdying, Option.isSome_none, Bool.or_self, Bool.false_eq_true] at hlives
  have hruns : (s.dev.cmds.any fun c => run.strands.contains c.uid && !c.completed) = false := by
    refine List.any_eq_false.mpr fun c hc => ?_
    rw [Bool.and_eq_true]
    rintro ⟨hmine, hopen⟩
    simp only [hcmds c hc hmine, Bool.not_true, Bool.false_eq_true] at hopen
  have hempty : run.strands.isEmpty = false := by rwa [List.isEmpty_eq_false_iff]
  subst hrun
  simp only [State.settleNode, hempty, hstrands, hruns, hfail, Bool.or_self, Bool.false_eq_true, if_false]
  rw [devRun_ok hdone]

/-! ### Overruns (R369) -/

section
variable {q n : Nat} {s : State} {run : NodeRun}

theorem overrun_none (h : (s.dev.queue q).abort = true ∨ ((s.dev.queue q).run n).overran = true) : s.overrun q n = s := by
  have h : ((s.dev.queue q).abort || ((s.dev.queue q).run n).overran) = true := by rwa [Bool.or_eq_true]
  simp only [State.overrun, h, Bool.true_or, if_true]

/-- R369: a launch that has passed its budget is requeued, or killed. -/
theorem overrun_past (habort : (s.dev.queue q).abort = false) (hrun : (s.dev.queue q).run n = run)
    (hover : run.overran = false) (hlaunched : run.launched = true) (hne : run.strands ≠ [])
    (hbudget : s.dev.budgetOf q n ≠ 0) (hpast : s.dev.budgetOf q n < run.ran) :
    s.overrun q n = if (s.dev.queue q).requeueKill || decide ((s.dev.queue q).ovrmax ≤ run.requeues) then s.killNode q n 4
      else (s.onDev fun d => d.updRun q n fun r => { r with overran := true, requeues := r.requeues + 1 }).mapStrands
        fun c => if run.strands.contains c.uid then c.requestPreempt 0 else c := by
  have hempty : run.strands.isEmpty = false := by rwa [List.isEmpty_eq_false_iff]
  subst hrun
  simp only [State.overrun, habort, hover, hlaunched, hempty, bne_iff_ne.mpr hbudget, hpast, decide_true, Bool.not_false,
    Bool.not_true, Bool.and_self, Bool.or_self, Bool.false_eq_true, if_false]

end

/-! ### ABORT (R362) -/

theorem tab_erase_erase {α : Type} (l : List (Nat × α)) (q : Nat) : Tab.erase (Tab.erase l q) q = Tab.erase l q := by
  induction l with
  | nil => rfl
  | cons e l ih =>
    simp only [Tab.erase]
    split
    · exact ih
    · next h => simp only [Tab.erase, h, if_false, ih]

theorem tab_erase_insert {α : Type} (l : List (Nat × α)) (q : Nat) (x : α) :
    Tab.erase (Tab.insert l q x) q = Tab.erase l q := by
  induction l with
  | nil => simp only [Tab.insert, Tab.erase, if_true]
  | cons e l ih =>
    simp only [Tab.insert]
    split
    · simp only [Tab.erase, if_true]
    · simp only [Tab.erase, ih]

/-- Of two values set at one key the later stands. -/
theorem tab_set_set {α : Type} [DecidableEq α] (d : α) (l : List (Nat × α)) (q : Nat) (x y : α) :
    Tab.set d (Tab.set d l q x) q y = Tab.set d l q y := by
  have herase : Tab.erase (Tab.set d l q x) q = Tab.erase l q := by
    unfold Tab.set
    split
    · exact tab_erase_erase l q
    · rw [tab_erase_insert, tab_erase_erase]
  rw [Tab.set, herase, Tab.set]

theorem queue_nowDue (d : Device) (q : Nat) : d.nowDue.queue q = d.queue q := rfl

theorem updQueue_nowDue (d : Device) (q : Nat) (f : Queue → Queue) : d.nowDue.updQueue q f = (d.updQueue q f).nowDue := rfl

theorem setGstate_eq (q g : Nat) (d : Device) :
    setGstate q g d = putStatus q (d.updQueue q fun qu => { qu with gstate := g }) := rfl

theorem updQueue_updQueue (d : Device) (q : Nat) (f g : Queue → Queue) :
    (d.updQueue q f).updQueue q g = d.updQueue q (g ∘ f) := by
  simp only [Device.updQueue, Device.queue_setQueue, Function.comp_apply]
  simp only [Device.setQueue, tab_set_set]

theorem withdraw_eq_noNodes (qu : Queue) : qu.withdraw = noNodes qu := by
  unfold Queue.withdraw noNodes
  match qu.offer with
  | none => rfl
  | some (0, _, _) => rfl
  | some (1, _, _) => rfl
  | some (_ + 2, _, _) => rfl

/-- The queue of a graph that an ABORT ends: none of its nodes is offered, and no decrement counts (R362). -/
def stopping (qu : Queue) : Queue := { noNodes qu with active := false, aborting := qu.active || qu.aborting }

/-- An ABORT's first step: the graph stops, and commands of its nodes complete unheard. -/
def stopGraph (q : Nat) (d : Device) : Device :=
  { d.updQueue q stopping with
    cmds := d.cmds.map fun (c : Cmd) => if c.queue == q && c.node != 0 then { c with drop := true } else c }

/-- An ABORT's last step: the launched nodes fail, but those of which a killed strand has commands that run still. -/
def failLaunched (q : Nat) (s : State) : State :=
  let rest := (s.dev.queue q).runs.filter (·.launched)
  let t := (rest.filter fun r => !(s.runDying r)).foldl (fun s r => (s.devRun (markFailed q r.node)).2) s
  t.onDev fun d => (d.updQueue q fun qu => { qu with runs := rest.filter t.runDying }).nowDue

section
variable {q : Nat} {s : State}

/-- What an ABORT does in order: the graph stops, its strands are killed, its launched nodes fail. -/
theorem abortKill_eq : s.abortKill q = failLaunched q ((((s.dev.queue q).runs.filter (·.launched)).map (·.node)).foldl
    (fun s n => s.killNode q n 5) (s.onDev (stopGraph q))) := by
  have hstop : stopping = fun qu => { qu.withdraw with active := false, aborting := qu.active || qu.aborting } :=
    funext fun qu => by rw [withdraw_eq_noNodes, stopping]
  unfold stopGraph
  rw [hstop]
  rfl

theorem failLaunched_of_no_runs (h : (s.dev.queue q).runs = []) :
    failLaunched q s = s.onDev fun d => (d.updQueue q fun qu => { qu with runs := [] }).nowDue := by
  simp only [failLaunched, h, List.filter_nil, List.foldl_nil]

theorem stopGraph_of_no_cmds {d : Device} (h : ∀ c ∈ d.cmds, c.queue = q → c.node = 0) :
    stopGraph q d = d.updQueue q stopping := by
  have hkeep : (d.cmds.map fun (c : Cmd) => if c.queue == q && c.node != 0 then { c with drop := true } else c) =
      d.cmds := by
    refine (List.map_congr_left fun c hc => if_neg ?_).trans (List.map_id _)
    rw [Bool.and_eq_true, beq_iff_eq, bne_iff_ne]
    exact fun ⟨hq, hnode⟩ => hnode (h c hc hq)
  rw [stopGraph, hkeep]
  rfl

theorem noNodes_runs (qu : Queue) : (noNodes qu).runs = qu.runs := by rw [← withdraw_eq_noNodes, Queue.withdraw_runs]

/-- An ABORT that finds no node ready or running, and no command of one, kills and fails nothing. -/
theorem abortKill_of_no_runs (hruns : (s.dev.queue q).runs = []) (hcmds : ∀ c ∈ s.dev.cmds, c.queue = q → c.node = 0) :
    s.abortKill q = s.onDev fun d => (d.updQueue q fun qu => { stopping qu with runs := [] }).nowDue := by
  have hstop : s.onDev (stopGraph q) = s.onDev (·.updQueue q stopping) :=
    congrArg (fun d => { s with dev := d }) (stopGraph_of_no_cmds hcmds)
  have hrest : ((s.onDev (·.updQueue q stopping)).dev.queue q).runs = [] := by
    rw [State.onDev_dev, queue_updQueue, stopping, noNodes_runs, hruns]
  rw [abortKill_eq, hruns, List.filter_nil, List.map_nil, List.foldl_nil, hstop, failLaunched_of_no_runs hrest]
  exact congrArg (fun d => { s with dev := Device.nowDue d }) (updQueue_updQueue ..)

/-- The graph's end after an ABORT's kills: ABORT is cleared, the records of ended strands go, and GSTATE 3 tells of a graph
that was active. -/
theorem abortGraph_of_killed {t : State} {d' : Device} (habort : (s.dev.queue q).abort = true) (ht : s.abortKill q = t)
    (hruns : (t.dev.queue q).runs = []) (hgraph : (t.dev.queue q).aborting = true)
    (hstate : setGstate q 3 (t.dev.updQueue q fun qu => { qu with abort := false, aborting := false }) = .ok () d') :
    s.abortGraph q =
      { t with others := t.others.filter (fun r => r.live || r.dying.isSome || r.queue != q), dev := d' } := by
  simp only [State.abortGraph, habort, ht, hruns, hgraph, List.isEmpty_nil, Bool.not_true, Bool.false_eq_true, if_false,
    if_true, State.onDev_cur, State.onDev_others, State.onDev_dev, State.onDev_agenda, State.devRun, DevM.on, hstate]

/-- R383: while commands of killed strands run, an ABORT has done no more than kill. -/
theorem abortGraph_waits (habort : (s.dev.queue q).abort = true) (hruns : ((s.abortKill q).dev.queue q).runs ≠ []) :
    s.abortGraph q = s.abortKill q := by
  have hempty : ((s.abortKill q).dev.queue q).runs.isEmpty = false := by rwa [List.isEmpty_eq_false_iff]
  simp only [State.abortGraph, habort, hempty, Bool.not_true, Bool.not_false, Bool.false_eq_true, if_false, if_true]

/-- R362: the ABORT of a graph of which nothing runs ends it. -/
theorem abortGraph_ends {d' : Device} (habort : (s.dev.queue q).abort = true) (hruns : (s.dev.queue q).runs = [])
    (hgraph : (s.dev.queue q).active = true ∨ (s.dev.queue q).aborting = true)
    (hcmds : ∀ c ∈ s.dev.cmds, c.queue = q → c.node = 0)
    (hstatus : putStatus q { s.dev.updQueue q fun qu => { noNodes qu with
      active := false, aborting := false, runs := [], abort := false, gstate := 3 } with due := true } = .ok () d') :
    s.abortGraph q =
      { s with others := s.others.filter (fun r => r.live || r.dying.isSome || r.queue != q), dev := d' } := by
  have hkill := abortKill_of_no_runs hruns hcmds
  have hqueue := queue_updQueue s.dev q fun qu => { stopping qu with runs := [] }
  refine (abortGraph_of_killed (d' := d') habort hkill ?_ ?_ ?_).trans rfl
  · rw [State.onDev_dev, queue_nowDue, hqueue]
  · rw [State.onDev_dev, queue_nowDue, hqueue]
    exact (Bool.or_eq_true ..).mpr hgraph
  · rw [State.onDev_dev, updQueue_nowDue, setGstate_eq, updQueue_nowDue, updQueue_updQueue, updQueue_updQueue]
    exact hstatus

end

theorem graphEnds : GraphEnds := by
  intro q n s d' qu run mine
  refine ⟨?complete, ?unchanged, ?past, ?abort, ?kills⟩
  case complete =>
    exact fun hne hended hcmds hfail hdone => congrArg Host.Outcome.next (settleNode_done rfl hne hended hcmds hfail hdone)
  case unchanged => exact fun h => congrArg Host.Outcome.next (overrun_none h)
  case past =>
    intro habort hover hlaunched hne hbudget hpast
    have hend := overrun_past habort rfl hover hlaunched hne hbudget hpast
    refine ⟨fun hkill hmax => congrArg Host.Outcome.next (hend.trans (if_neg ?_)), fun h =>
      congrArg Host.Outcome.next (hend.trans (if_pos ?_))⟩
    · rw [hkill, Bool.false_or, decide_eq_true_eq]
      exact Nat.not_le.mpr hmax
    · rwa [Bool.or_eq_true, decide_eq_true_eq]
  case abort =>
    exact fun habort hruns hgraph hcmds hstatus =>
      congrArg Host.Outcome.next (abortGraph_ends habort hruns hgraph hcmds hstatus)
  case kills =>
    exact fun habort hruns => congrArg Host.Outcome.next (abortGraph_waits habort hruns)

/-- Settles O53: a control node does its work on what it reads, and a graph's end waits for its strands and their
commands. -/
theorem controlNodesAndEnds : Obligations.ControlNodesAndEnds := ⟨controlNodes, graphEnds⟩

end Sys2Proof.Scheduling
end

section
/-! SUPPORT. The words of a register that a message or a record is read from or written to (R350, R351), and what retiring
leaves unchanged (R330). -/

namespace Sys2Proof.Scheduling

open Sys2Proof.Machine Sys2Proof.Claims Sys2Proof.Laws

/-! ### Words written -/

theorem putWords_succ (c : Strand) (r n x : Nat) :
    c.putWords r (n + 1) x = (c.putWords r n x).setElem 2 r n (x / 2 ^ (32 * n) % 2 ^ 32) := by
  simp only [Strand.putWords, List.range_succ, List.foldl_append, List.foldl_cons, List.foldl_nil]

/-- A strand that differs from another in the contents of its vector file and in its dirty maps alone. -/
def FileOnly (c d : Strand) : Prop :=
  d = { c with regs := { c.regs with v := d.regs.v }, ctxDirty := d.ctxDirty, fileDirty := d.fileDirty,
               csr := { c.csr with dmap := d.csr.dmap } }

theorem fileOnly_putWords (c : Strand) (r x : Nat) : ∀ n, FileOnly c (c.putWords r n x)
  | 0 => rfl
  | n + 1 => by
    have ih := fileOnly_putWords c r x n
    rw [putWords_succ]
    unfold FileOnly at ih ⊢
    rw [ih]
    rfl

theorem setElem_word_v (c : Strand) (r k y : Nat) :
    (c.setElem 2 r k y).regs.v = c.regs.v.setLE (16384 * r + k * 4) 4 y := rfl

/-- Words written to a register change none of the bytes outside them. -/
theorem getLE_putWords_outside (c : Strand) {r x a m : Nat} : ∀ {n : Nat}, a + m ≤ 16384 * r ∨ 16384 * r + 4 * n ≤ a →
    (c.putWords r n x).regs.v.getLE a m = c.regs.v.getLE a m
  | 0, _ => rfl
  | n + 1, h => by
    rw [putWords_succ, setElem_word_v, Store.getLE_setLE_other _ _ _ _ _ _ (by omega)]
    exact getLE_putWords_outside c (by omega)

theorem word_eq_getLE (c : Strand) (r k : Nat) : c.word r k = BitVec.ofNat 32 (c.regs.v.getLE (16384 * r + k * 4) 4) := rfl

theorem word_putWords (c : Strand) {r x k : Nat} : ∀ {n : Nat}, k < n →
    ((c.putWords r n x).word r k).toNat = x / 2 ^ (32 * k) % 2 ^ 32
  | n + 1, h => by
    rw [putWords_succ, word_eq_getLE, setElem_word_v]
    rcases Nat.lt_succ_iff_lt_or_eq.mp h with hlt | rfl
    · rw [Store.getLE_setLE_other _ _ _ _ _ _ (by omega), ← word_eq_getLE]
      exact word_putWords c hlt
    · rw [Store.getLE_setLE_same, BitVec.toNat_ofNat]
      norm_num

theorem tookWords_putWords (c : Strand) (r x : Nat) {n : Nat} (hn : n ≤ 4096) : TookWords r n x c (c.putWords r n x) := by
  refine ⟨fun k hk => word_putWords c hk, fun r' hr' b hb => ?_, fun b hb _ => ?_⟩
  · have hne : r' ≠ r := fun h => hr' (h ▸ List.mem_singleton_self r)
    exact getLE_putWords_outside c (by omega)
  · exact getLE_putWords_outside c (by omega)

/-! ### Words read -/

/-- Words put one above another make the sum of what each stands for. -/
theorem foldr_words_eq_sum (f : Nat → Nat) (n : Nat) :
    (List.range n).foldr (fun k acc => f k + 2 ^ 32 * acc) 0 = ((List.range n).map fun k => f k * 2 ^ (32 * k)).sum := by
  induction n generalizing f with
  | zero => rfl
  | succ n ih =>
    have hshift : ((List.range n).map fun k => f (k + 1) * 2 ^ (32 * (k + 1))) =
        (List.range n).map fun k => 2 ^ 32 * (f (k + 1) * 2 ^ (32 * k)) :=
      List.map_congr_left fun k _ => by rw [Nat.mul_succ, Nat.pow_add]; ring
    rw [List.range_succ_eq_map, List.foldr_cons, List.foldr_map, ih fun k => f (k + 1), List.map_cons, List.map_map,
      List.sum_cons, ← List.sum_map_mul_left]
    simp only [Function.comp_def, Nat.succ_eq_add_one, hshift, Nat.mul_zero, Nat.pow_zero, Nat.mul_one]

theorem packWords_eq_slotWords (c : Strand) (r n : Nat) : c.packWords r n = slotWords c r n :=
  foldr_words_eq_sum (fun k => (c.word r k).toNat) n

/-! ### Retiring -/

theorem retireOnly_retire (c : Strand) (o : Operands) : RetireOnly c (c.retire o) := by
  unfold Strand.retire Strand.loopBack RetireOnly
  split
  · dsimp only
    split <;> rfl
  · rfl

/-- What an instruction leaves of its strand when it retires, but for registers and a few more. -/
theorem retired_of_retire {o : Operands} {s t : State} {c : Strand} (ht : t.cur = c.retire o) (hsup : c.sup = s.cur.sup)
    (hfarm : c.farm = s.cur.farm) (hstatus : c.status = s.cur.status)
    (hcsr : c.csr = { s.cur.csr with dmap := c.csr.dmap }) (hnest : c.nest = s.cur.nest) (hpc : c.pc = s.cur.pc) :
    Retired o s t := by
  have honly : t.cur = _ := ht ▸ retireOnly_retire c o
  refine ⟨by rw [honly, ← hsup], by rw [honly, ← hfarm], by rw [honly, ← hstatus], ?_, fun hend => ?_⟩
  · rw [honly, hcsr]
  · have hhere : c.nestHere = s.cur.nestHere := by simp only [Strand.nestHere, hnest, hsup]
    have hplain : c.nestHere = false ∨ c.pc + BitVec.ofNat 64 (lenOf o) ≠ c.nest.stop := by
      rw [hhere, hpc, hnest]
      exact (Bool.and_eq_false_iff.mp hend).imp_right beq_eq_false_iff_ne.mp
    rw [ht, Strand.retire_plain c o hplain]
    exact congrArg (· + _) hpc

/-- Writing words changes nothing that retiring keeps. -/
theorem retired_of_fileOnly {o : Operands} {s t : State} {c : Strand}
    (ht : t.cur = c.retire o) (h : FileOnly s.cur c) : Retired o s t := by
  have hc : c = _ := h
  exact retired_of_retire ht (by rw [hc]) (by rw [hc]) (by rw [hc]) (by rw [hc]) (by rw [hc]) (by rw [hc])

theorem retire_regs (c : Strand) (o : Operands) : (c.retire o).regs = c.regs := by rw [retireOnly_retire c o]

theorem retire_tookWords {c d : Strand} {r n x : Nat} (h : TookWords r n x c d) (o : Operands) :
    TookWords r n x c (d.retire o) := by
  have hv : (d.retire o).vBytes = d.vBytes := by unfold Strand.vBytes; rw [retire_regs]
  have hw : (d.retire o).word = d.word := by unfold Strand.word Strand.elem; rw [hv]
  obtain ⟨hwords, hothers, htail⟩ := h
  exact ⟨by rwa [hw], by unfold VectorsBut; rwa [hv], by rwa [hv]⟩

end Sys2Proof.Scheduling
end

section
/-! SUPPORT. Mailboxes (R345 to R352): what a send leaves, and which message is a receiver's. -/

namespace Sys2Proof.Scheduling

open Sys2Proof.Machine Sys2Proof.Claims Sys2Proof.Laws

/-! ### Scalars -/

theorem s_setS_other (c : Strand) (d : Nat) (x : Word) {n : Nat} (h : n ≠ d) : (c.setS d x).s n = c.s n := by
  unfold Strand.setS
  split
  · rfl
  · simp only [Strand.s, Store.get, Store.set, Tab.get_set_other _ _ _ h]

theorem s_setS_same (c : Strand) {d : Nat} (x : Word) (h : d ≠ 0) : (c.setS d x).s d = x := by
  simp only [Strand.setS, Strand.s, h, if_false, Store.get, Store.set, Tab.get_set_same]

theorem setS_regs (c : Strand) (d : Nat) (x : Word) :
    (c.setS d x).regs = { c.regs with s := (c.setS d x).regs.s } := by
  unfold Strand.setS
  split <;> rfl

/-- A strand whose one scalar is written, with a set, and that retires. -/
theorem retired_setS {o : Operands} {s t : State} {c : Strand} {d : Nat} {x : Word} {y : Taint}
    (ht : t.cur = ((c.setS d x).setTaint (.s d) y).retire o) (hsup : c.sup = s.cur.sup)
    (hfarm : c.farm = s.cur.farm) (hstatus : c.status = s.cur.status) (hcsr : c.csr = s.cur.csr)
    (hnest : c.nest = s.cur.nest) (hpc : c.pc = s.cur.pc) (hregs : c.regs = s.cur.regs) :
    Retired o s t ∧ ScalarsBut [d] s.cur t.cur ∧ (d ≠ 0 → t.cur.s d = x) ∧
      t.cur.regs = { s.cur.regs with s := t.cur.regs.s } := by
  have hfile : t.cur.regs = (c.setS d x).regs := by rw [ht, retire_regs, Strand.setTaint_regs]
  have hs : ∀ n, t.cur.s n = (c.setS d x).s n := fun n => by unfold Strand.s; rw [hfile]
  refine ⟨retired_of_retire ht (by simpa using hsup) (by simpa using hfarm) (by simpa using hstatus) (by simp [hcsr])
    (by simpa using hnest) (by simpa using hpc), fun n hn => ?_, fun hd => ?_, ?_⟩
  · rw [hs, s_setS_other c d x fun h => hn (List.mem_singleton.mpr h)]
    unfold Strand.s
    rw [hregs]
  · rw [hs, s_setS_same c x hd]
  · rw [hfile, ← hregs]
    exact setS_regs c d x

/-! ### Stores that perform leave the mailboxes alone -/

theorem perform_mboxes (d : Device) (p : PendStore) : (d.perform p).mboxes = d.mboxes := by
  unfold Device.perform Device.cleanLines
  split
  · rfl
  · rw [show d.writeBytes p.pa p.bytes = _ from sameButBacking_writeBytes p.bytes d p.pa]

theorem performAt_mboxes (d : Device) (l : List PendStore) (k : Nat) : (d.performAt l k).2.mboxes = d.mboxes := by
  unfold Device.performAt
  split
  · rfl
  · split <;> exact perform_mboxes ..

theorem performSome_mboxes : ∀ (n : Nat) (l : List PendStore) (d : Device), (d.performSome n l).mboxes = d.mboxes
  | 0, _, _ => rfl
  | n + 1, l, d => by
    unfold Device.performSome
    split <;> rw [performSome_mboxes n, performAt_mboxes]

theorem quiet_mboxes (x : Taint) (u : State) : (quiet x u).dev.mboxes = u.dev.mboxes := performSome_mboxes ..

/-! ### Sends (R346, R350) -/

section
variable {d : Device} {n : Nat} {msg : BitVec 512} {w : BitVec 32}

theorem accept_of_room (h : d.mboxFull n = false) :
    d.accept n msg w = d.setMbox n { d.mbox n with ring := (d.mbox n).ring ++ [(msg, w)] } := by
  simp only [Device.accept, h, Bool.false_eq_true, if_false]

theorem accept_mbox (h : d.mboxFull n = false) :
    (d.accept n msg w).mbox n = { d.mbox n with ring := (d.mbox n).ring ++ [(msg, w)] } := by
  rw [accept_of_room h, Device.mbox_setMbox]

theorem accept_of_full (h : d.mboxFull n = true) : d.accept n msg w = d :=
  Device.accept_full d n msg w (of_decide_eq_true h)

theorem accept_mbox_other {k : Nat} (h : k ≠ n) : (d.accept n msg w).mbox k = d.mbox k := by
  unfold Device.accept
  split
  · rfl
  · exact Device.mbox_setMbox_other _ _ h

theorem accept_owner (k : Nat) : ((d.accept n msg w).mbox k).owner = (d.mbox k).owner := by
  by_cases hk : k = n
  · subst hk
    cases hfull : d.mboxFull k with
    | false => rw [accept_mbox hfull]
    | true => rw [accept_of_full hfull]
  · rw [accept_mbox_other hk]

theorem accept_ring_eq : ((d.accept n msg w).mbox n).ring =
    if decide (32 ≤ (d.mbox n).ring.length) then (d.mbox n).ring else (d.mbox n).ring ++ [(msg, w)] := by
  have hfull : decide (32 ≤ (d.mbox n).ring.length) = d.mboxFull n := rfl
  rw [hfull]
  cases h : d.mboxFull n with
  | false => rw [accept_mbox h]; rfl
  | true => rw [accept_of_full h]; rfl

theorem accept_frame : d.accept n msg w = { d with mboxes := (d.accept n msg w).mboxes } := by
  unfold Device.accept
  split <;> rfl

end

theorem receives_congr {s t : State} (h : ∀ n, (s.dev.mbox n).owner = (t.dev.mbox n).owner) : s.receives = t.receives := by
  funext c mb
  simp only [State.receives, Device.capOf, h]

theorem wake_of_running {c : Strand} (h : c.status = .running) : c.wake = c := by
  simp only [Strand.wake, h]

/-- A send of a strand that runs: where the ring is full it changes nothing; else the message stands in the ring, and the
waits of WFE of those that may receive it end. -/
theorem send_eq {q : State} {mb : Nat} {msg : BitVec 512} {w : BitVec 32} (hrun : q.cur.status = .running) :
    q.send mb msg w = (if q.dev.mboxFull mb then 1 else 0,
      { q with others := if q.dev.mboxFull mb then q.others else q.others.map fun r => if q.receives r mb then r.wake else r
               dev := q.dev.accept mb msg w }) := by
  unfold State.send
  cases hfull : q.dev.mboxFull mb with
  | true => simp only [if_true, accept_of_full hfull]
  | false =>
    have hrec : (q.onDev fun d => d.accept mb msg w).receives = q.receives := receives_congr accept_owner
    simp only [Bool.false_eq_true, if_false, State.wakeMail, State.mapStrands, hrec, State.onDev_cur, State.onDev_others,
      State.onDev_dev, State.onDev_agenda, wake_of_running hrun, ite_self]

theorem sendFrom_eq (o : Operands) (mb : Nat) (msg : BitVec 512) (x : Taint) (q : State) :
    let r := q.send mb msg (senderWord false false q.cur.vf q.cur.agent)
    sendFrom o mb msg x q = .ok () (r.2.onCur fun c => (c.setS o.d.toNat r.1).setTaint (.s o.d.toNat) x) := rfl

/-- The sender word of a strand: its function and its agent (R346). -/
theorem senderWord_of_strand (vf agent : Nat) :
    senderWord false false vf agent = BitVec.ofNat 32 (vf % 64 * 256 + agent % 256) := by
  simp only [senderWord, bitVal, Bool.false_eq_true, if_false, Nat.zero_mul, Nat.zero_add]

/-- R350: an instruction that sends, once the strand's earlier accesses have performed. -/
theorem sends_of_sendFrom {o : Operands} {s u : State} {i : Instr} {m : Run Unit} {x y : Taint} {mb : Nat} {msg : BitVec 512}
    (hexec : exec i s = instr o m s) (hm : m s = sendFrom o mb msg y (quiet x u)) (hrun : u.cur.status = .running) :
    let q := quiet x u
    let full := decide (32 ≤ (q.dev.mbox mb).ring.length)
    ∃ t, exec i s = .next t ∧ Retired o u t ∧ t.agenda = u.agenda ∧ ScalarsBut [o.d.toNat] u.cur t.cur ∧
      (o.d.toNat ≠ 0 → t.cur.s o.d.toNat = if full then 1 else 0) ∧ t.cur.regs = { u.cur.regs with s := t.cur.regs.s } ∧
      t.others = (if full then u.others else u.others.map fun r => if u.receives r mb then r.wake else r) ∧
      (t.dev.mbox mb).ring = (if full then (q.dev.mbox mb).ring else
        (q.dev.mbox mb).ring ++ [(msg, BitVec.ofNat 32 (u.cur.vf % 64 * 256 + u.cur.agent % 256))]) ∧
      (∀ k, k ≠ mb → t.dev.mbox k = q.dev.mbox k) ∧ (t.dev.mbox mb).owner = (q.dev.mbox mb).owner ∧
      t.dev = { q.dev with mboxes := t.dev.mboxes } := by
  intro q full
  have hq : q.cur.status = .running := hrun
  have hrec : q.receives = u.receives := receives_congr fun n => by
    unfold Device.mbox
    rw [quiet_mboxes]
  have hsend := instr_ok o m (hm.trans (sendFrom_eq o mb msg y q))
  rw [send_eq hq, senderWord_of_strand] at hsend
  obtain ⟨t, ht, hnext⟩ : ∃ t, t = _ ∧ exec i s = .next t := ⟨_, rfl, hexec.trans hsend⟩
  have hcur : t.cur = ((q.cur.setS o.d.toNat (if full then 1 else 0)).setTaint (.s o.d.toNat) y).retire o :=
    congrArg State.cur ht
  have hothers : t.others = if full then q.others else q.others.map fun r => if q.receives r mb then r.wake else r :=
    congrArg State.others ht
  have hdev : t.dev = q.dev.accept mb msg _ := congrArg State.dev ht
  obtain ⟨hretired, hscalars, hanswer, hregs⟩ := retired_setS (s := u) hcur rfl rfl rfl rfl rfl rfl rfl
  refine ⟨t, hnext, hretired, by rw [ht]; rfl, hscalars, hanswer, hregs, by rw [hothers, hrec]; rfl, ?_⟩
  rw [hdev]
  exact ⟨accept_ring_eq, fun k hk => accept_mbox_other hk, accept_owner mb, accept_frame⟩

end Sys2Proof.Scheduling
end

section
/-! SUPPORT. The mailbox instructions (R345 to R352): the capability each needs, and what each answers. -/

namespace Sys2Proof.Scheduling

open Sys2Proof.Machine Sys2Proof.Claims Sys2Proof.Laws
open Sys2Proof.StrandsControl (run_get checkIll_true checkIll_false instr_ill waits_ill pc_of_inFile)

/-! ### Capabilities (R349) -/

section
variable {o : Operands} {s u : State} {right : Cap → Bool} {k : Cap}

theorem needCap_lacks (h : ∀ k, s.cap s.cur (o.im 0 6) = some k → right k = false) :
    needCap o right s = .error (.cause .priv (BitVec.ofNat 64 (o.im 0 6))) s := by
  simp only [needCap, run_bind, run_get]
  cases hcap : s.cap s.cur (o.im 0 6) with
  | none => rfl
  | some k => simp only [h k hcap, Bool.false_eq_true, if_false]; rfl

theorem needCap_has (hcap : s.cap s.cur (o.im 0 6) = some k) (h : right k = true) : needCap o right s = .ok k s := by
  simp only [needCap, run_bind, run_get, hcap, h, if_true, run_pure]

theorem instr_priv {m : Run Unit} {v : Word} (h : m s = .error (.cause .priv v) s) :
    instr o m s = .next (s.trap .priv v s.cur.pc false) := instr_error o m h

theorem waits_priv {m : Run (Option Wait)} {v : Word} (h : m s = .error (.cause .priv v) s) :
    waits o m s = .next (s.trap .priv v s.cur.pc false) := waits_error o m h

/-! ### What a bound register or a missing right refuses -/

theorem isNone_of_bound {α : Type} {x : Option α} (h : x ≠ none) : x.isNone = false :=
  Option.isNone_eq_false_iff.mpr (Option.isSome_iff_ne_none.mpr h)

theorem mbsend_bound (h : s.cur.bindOf o.a.toNat ≠ none) :
    exec (.mbsend o) s = .next (s.trap .ill (parcel0 o) s.cur.pc false) :=
  instr_ill (by simp only [mbsend, run_bind, run_cur, isNone_of_bound h, checkIll_false])

theorem mbrecv_bound (h : s.cur.bindOf o.d.toNat ≠ none) :
    exec (.mbrecv o) s = .next (s.trap .ill (parcel0 o) s.cur.pc false) :=
  waits_ill (by simp only [mbrecv, run_bind, run_cur, isNone_of_bound h, checkIll_false])

theorem mbsend_priv (hfree : s.cur.bindOf o.a.toNat = none) (h : ∀ k, s.cap s.cur (o.im 0 6) = some k → k.snd = false) :
    exec (.mbsend o) s = .next (s.trap .priv (BitVec.ofNat 64 (o.im 0 6)) s.cur.pc false) :=
  instr_priv (by simp only [mbsend, run_bind, run_cur, hfree, Option.isNone_none, checkIll_true, needCap_lacks h])

theorem glaunch_priv (h : ∀ k, s.cap s.cur (o.im 0 6) = some k → (k.snd && k.l) = false) :
    exec (.glaunch o) s = .next (s.trap .priv (BitVec.ofNat 64 (o.im 0 6)) s.cur.pc false) :=
  instr_priv (by simp only [glaunch, run_bind, needCap_lacks h])

theorem mbrecv_priv (hfree : s.cur.bindOf o.d.toNat = none) (h : ∀ k, s.cap s.cur (o.im 0 6) = some k → k.rcv = false) :
    exec (.mbrecv o) s = .next (s.trap .priv (BitVec.ofNat 64 (o.im 0 6)) s.cur.pc false) :=
  waits_priv (by simp only [mbrecv, run_bind, run_cur, hfree, Option.isNone_none, checkIll_true, needCap_lacks h])

theorem mbpoll_priv (h : ∀ k, s.cap s.cur (o.im 0 6) = some k → k.rcv = false) :
    exec (.mbpoll o) s = .next (s.trap .priv (BitVec.ofNat 64 (o.im 0 6)) s.cur.pc false) :=
  instr_priv (by simp only [mbpoll, run_bind, needCap_lacks h])

/-! ### MBSEND, GLAUNCH, MBPOLL -/

theorem run_awaitStore (x : Taint) (s : State) : awaitStore x s = .ok () (s.onCur (beforeStore x)) := rfl
theorem run_drain (s : State) : drain s = .ok () s.drain := rfl

theorem mbsend_eq (hfree : s.cur.bindOf o.a.toNat = none) (hcap : s.cap s.cur (o.im 0 6) = some k) (h : k.snd = true)
    (hfile : InFile [o.a.toNat] s u) :
    let q := quiet (u.cur.taintOf (.v o.a.toNat)) u
    mbsend o s = sendFrom o k.mbox (BitVec.ofNat 512 (slotWords u.cur o.a.toNat 16)) (q.cur.taintOf (.v o.a.toNat)) q := by
  have htouch : touch [o.a.toNat] s = .ok () u := hfile
  rw [← packWords_eq_slotWords]
  simp only [mbsend, run_bind, run_cur, hfree, Option.isNone_none, checkIll_true, needCap_has (right := (·.snd)) hcap h,
    htouch, run_awaitStore, run_drain]
  rfl

theorem glaunch_eq (hcap : s.cap s.cur (o.im 0 6) = some k) (hs : k.snd = true) (hl : k.l = true) :
    let q := quiet (s.cur.unionOf [.s o.a.toNat, .s o.b.toNat]) s
    glaunch o s = sendFrom o k.mbox
      (BitVec.ofNat 512 (1 + 2 ^ 64 * (s.cur.s o.a.toNat).toNat + 2 ^ 128 * (s.cur.s o.b.toNat).toNat))
      (q.cur.unionOf [.s o.a.toNat, .s o.b.toNat]) q := by
  have hright : (k.snd && k.l) = true := by rw [hs, hl, Bool.and_self]
  simp only [glaunch, run_bind, run_cur, needCap_has (right := fun k => k.snd && k.l) hcap hright, run_awaitStore, run_drain]
  rfl

theorem mbpoll_counts (hcap : s.cap s.cur (o.im 0 6) = some k) (h : k.rcv = true) :
    exec (.mbpoll o) s = .next (s.onCur fun c =>
      (c.putS o.d.toNat (BitVec.ofNat 64 (s.dev.mbox k.mbox).ring.length) []).retire o) := by
  have hrun : mbpoll o s = .ok () (s.onCur fun c =>
      c.putS o.d.toNat (BitVec.ofNat 64 (s.dev.mbox k.mbox).ring.length) []) := by
    simp only [mbpoll, run_bind, run_get, needCap_has (right := (·.rcv)) hcap h, run_onCur]
  exact instr_ok o _ hrun

/-! ### MBRECV (R347, R351) -/

theorem mine_iff {mb agent : Nat} {who : Nat × Nat} :
    (s.dev.mayReceive agent mb && !((s.tickets mb).any fun x => waitsBefore x who)) = true ↔
    (s.dev.mbox mb).owner = .agent agent ∧ ∀ x ∈ s.tickets mb, who.1 < x.1 ∨ (who.1 = x.1 ∧ who.2 ≤ x.2) := by
  have hfirst : ∀ x, waitsBefore x who = false ↔ who.1 < x.1 ∨ (who.1 = x.1 ∧ who.2 ≤ x.2) := fun x => by
    simp only [waitsBefore, Bool.or_eq_false_iff, Bool.and_eq_false_iff, decide_eq_false_iff_not, beq_eq_false_iff_ne]
    omega
  simp only [Bool.and_eq_true, Device.mayReceive, beq_iff_eq, Bool.not_eq_true', List.any_eq_false, Bool.not_eq_true,
    hfirst]

theorem messageFor_mine {mb agent : Nat} {who : Nat × Nat} (h : (s.dev.mbox mb).owner = .agent agent ∧
    ∀ x ∈ s.tickets mb, who.1 < x.1 ∨ (who.1 = x.1 ∧ who.2 ≤ x.2)) :
    s.messageFor mb agent who = (s.dev.mbox mb).ring.head? := if_pos (mine_iff.mpr h)

theorem messageFor_not_mine {mb agent : Nat} {who : Nat × Nat} (h : ¬ ((s.dev.mbox mb).owner = .agent agent ∧
    ∀ x ∈ s.tickets mb, who.1 < x.1 ∨ (who.1 = x.1 ∧ who.2 ≤ x.2))) :
    s.messageFor mb agent who = none := if_neg (mt mine_iff.mp h)

/-- What does not see the vector file of a strand is the same of strands that differ in it alone. -/
theorem filterMap_of_sameButFile {α : Type} {f : Strand → Option α} (hf : ∀ c d, SameButFile c d → f d = f c) :
    ∀ {l m : List Strand}, List.Forall₂ SameButFile l m → m.filterMap f = l.filterMap f
  | _, _, .nil => rfl
  | _, _, .cons h t => by simp only [List.filterMap_cons, hf _ _ h, filterMap_of_sameButFile hf t]

/-- Residency changes nothing of who waits on a mailbox, nor of what the mailbox holds. -/
theorem messageFor_of_moved (h : Moved s u) : u.messageFor = s.messageFor := by
  have hmbox : u.dev.mbox = s.dev.mbox := by rw [h.dev]; rfl
  have hnode : u.dev.nodeTickets = s.dev.nodeTickets := by rw [h.dev]; rfl
  have htickets : u.tickets = s.tickets := by
    funext mb
    simp only [State.tickets, Device.mayReceive, hmbox, hnode]
    refine congrArg _ (filterMap_of_sameButFile (fun c d hcd => ?_) (l := s.strands) (.cons h.cur h.others))
    rw [show d = _ from hcd]
  funext mb agent who
  unfold State.messageFor Device.mayReceive
  rw [hmbox, htickets]

theorem find_cur (s : State) : s.find s.cur.uid = some s.cur := by
  simp only [State.find, State.strands, List.find?_cons, BEq.rfl]

/-- The state once the next ticket has been taken. -/
def ticketed (s : State) : State := s.onDev fun d => { d with nextTicket := d.nextTicket + 1 }

theorem takeMail_cur {mb ticket : Nat} (hmoved : Moved s u) : (ticketed u).takeMail (ticketed u).cur.uid mb ticket =
    (s.messageFor mb s.cur.agent (ticket, 4 * s.cur.core + s.cur.slot)).map fun m =>
      (m.1.toNat + 2 ^ 512 * m.2.toNat, (ticketed u).onDev fun d => d.takeMsg mb 0) := by
  have hcur : (ticketed u).cur = _ := hmoved.cur
  have hmsg : (ticketed u).messageFor = s.messageFor := messageFor_of_moved (u := u) hmoved
  simp only [State.takeMail, find_cur, Option.bind_some, hmsg]
  rw [hcur]

theorem mbrecv_eq (hfree : s.cur.bindOf o.d.toNat = none) (hcap : s.cap s.cur (o.im 0 6) = some k) (h : k.rcv = true)
    (hfile : InFile [o.d.toNat] s u) :
    (∀ m, s.messageFor k.mbox s.cur.agent (s.dev.nextTicket, 4 * s.cur.core + s.cur.slot) = some m →
      mbrecv o s = .ok none (((ticketed u).onDev fun d => d.takeMsg k.mbox 0).onCur
        (·.putWords o.d.toNat 17 (m.1.toNat + 2 ^ 512 * m.2.toNat)))) ∧
    (s.messageFor k.mbox s.cur.agent (s.dev.nextTicket, 4 * s.cur.core + s.cur.slot) = none →
      mbrecv o s = .ok (some (.mbrecv k.mbox o.d.toNat s.dev.nextTicket)) (ticketed u)) := by
  have htouch : touch [o.d.toNat] s = .ok () u := hfile
  have hmoved := touch_moved _ _ _ htouch
  have hticket : u.dev.nextTicket = s.dev.nextTicket := by rw [hmoved.dev]
  have htake := takeMail_cur (mb := k.mbox) (ticket := s.dev.nextTicket) hmoved
  have hnext : Run.onDev (fun d => { d with nextTicket := d.nextTicket + 1 }) u = .ok () (ticketed u) := rfl
  refine ⟨fun m hm => ?_, fun hnone => ?_⟩
  · simp only [mbrecv, run_bind, run_cur, hfree, Option.isNone_none, checkIll_true, needCap_has (right := (·.rcv)) hcap h,
      htouch, run_get, hnext, hticket, htake, hm, Option.map_some]
    rfl
  · simp only [mbrecv, run_bind, run_cur, hfree, Option.isNone_none, checkIll_true, needCap_has (right := (·.rcv)) hcap h,
      htouch, run_get, hnext, hticket, htake, hnone, Option.map_none, run_pure]

theorem takeMsg_ring {d : Device} {mb : Nat} {m : BitVec 512 × BitVec 32} {rest : List (BitVec 512 × BitVec 32)}
    (h : (d.mbox mb).ring = m :: rest) : ((d.takeMsg mb 0).mbox mb).ring = rest := by
  simp only [Device.takeMsg, Device.mbox_setMbox, h, List.eraseIdx_zero, List.tail_cons]

theorem takeMsg_other {d : Device} {mb j : Nat} (h : j ≠ mb) : (d.takeMsg mb 0).mbox j = d.mbox j :=
  Device.mbox_setMbox_other _ _ h

/-- R351: a message for the strand's ticket is written to its register, and leaves the ring. -/
theorem mbrecv_takes (hfree : s.cur.bindOf o.d.toNat = none) (hcap : s.cap s.cur (o.im 0 6) = some k) (h : k.rcv = true)
    (hfile : InFile [o.d.toNat] s u) {m : BitVec 512 × BitVec 32} {rest : List (BitVec 512 × BitVec 32)}
    (hmsg : s.messageFor k.mbox s.cur.agent (s.dev.nextTicket, 4 * s.cur.core + s.cur.slot) = some m)
    (hring : (s.dev.mbox k.mbox).ring = m :: rest) :
    ∃ t, exec (.mbrecv o) s = .next t ∧ Retired o u t ∧ t.others = u.others ∧
      TookWords o.d.toNat 17 (m.1.toNat + 2 ^ 512 * m.2.toNat) u.cur t.cur ∧
      (t.dev.mbox k.mbox).ring = rest ∧ (∀ j, j ≠ k.mbox → t.dev.mbox j = s.dev.mbox j) ∧
      t.dev = { u.dev with mboxes := t.dev.mboxes, nextTicket := s.dev.nextTicket + 1 } := by
  obtain ⟨htakes, -⟩ := mbrecv_eq hfree hcap h hfile
  have hdev : SameButBacking s.dev u.dev := (touch_moved _ _ _ hfile).dev
  have hmbox : (ticketed u).dev.mbox = s.dev.mbox := by
    show u.dev.mbox = s.dev.mbox
    rw [hdev]
    rfl
  have hticket : u.dev.nextTicket = s.dev.nextTicket := by rw [hdev]
  obtain ⟨t, ht, hnext⟩ : ∃ t, t = _ ∧ exec (.mbrecv o) s = .next t := ⟨_, rfl, waits_on o _ (htakes m hmsg)⟩
  have hcur : t.cur = (u.cur.putWords o.d.toNat 17 (m.1.toNat + 2 ^ 512 * m.2.toNat)).retire o := congrArg State.cur ht
  have hothers : t.others = u.others := by
    simp only [ht, State.onCur_others, State.onDev_others, ticketed]
  have htdev : t.dev = (ticketed u).dev.takeMsg k.mbox 0 := congrArg State.dev ht
  refine ⟨t, hnext, retired_of_fileOnly hcur (fileOnly_putWords ..), hothers, ?_, ?_, fun j hj => ?_, ?_⟩
  · rw [hcur]
    exact retire_tookWords (tookWords_putWords _ _ _ (by decide)) o
  · rw [htdev]
    exact takeMsg_ring (by rw [hmbox, hring])
  · rw [htdev, takeMsg_other hj, hmbox]
  · rw [htdev, ← hticket]
    rfl

/-- R351: a strand without a message for its ticket waits. -/
theorem mbrecv_waits (hfree : s.cur.bindOf o.d.toNat = none) (hcap : s.cap s.cur (o.im 0 6) = some k) (h : k.rcv = true)
    (hfile : InFile [o.d.toNat] s u)
    (hmsg : s.messageFor k.mbox s.cur.agent (s.dev.nextTicket, 4 * s.cur.core + s.cur.slot) = none) :
    ∃ t, exec (.mbrecv o) s = .next t ∧ t.others = u.others ∧
      t.cur = { u.cur with status := .waiting (.mbrecv k.mbox o.d.toNat s.dev.nextTicket) (after o s.cur) } ∧
      t.dev = { u.dev with nextTicket := s.dev.nextTicket + 1 } := by
  obtain ⟨-, hwaits⟩ := mbrecv_eq hfree hcap h hfile
  have hdev : SameButBacking s.dev u.dev := (touch_moved _ _ _ hfile).dev
  refine ⟨_, waits_wait o _ (hwaits hmsg), rfl, ?_, ?_⟩
  · rw [after, ← pc_of_inFile hfile]
    rfl
  · rw [show s.dev.nextTicket = u.dev.nextTicket by rw [hdev]]
    rfl

end

theorem mailboxes : Mailboxes := by
  intro o s hrun _ n cap priv sent freeA freeD
  have hlacks : ∀ {right : Cap → Bool} {k : Cap}, cap = some k → right k = false →
      ∀ k, s.cap s.cur (o.im 0 6) = some k → right k = false := by
    rintro right k hcap hright k' hcap'
    rwa [Option.some.inj (hcap'.symm.trans hcap)]
  have hnone : cap = none → ∀ {right : Cap → Bool} k, s.cap s.cur (o.im 0 6) = some k → right k = false :=
    fun hcap _ k hk => nomatch hk.symm.trans hcap
  refine ⟨mbsend_bound, mbrecv_bound, fun hcap => ⟨fun hfree => mbsend_priv hfree (hnone hcap), glaunch_priv (hnone hcap),
    fun hfree => mbrecv_priv hfree (hnone hcap), mbpoll_priv (hnone hcap)⟩, fun k hcap => ⟨fun hsnd => ⟨fun hfree =>
    mbsend_priv hfree (hlacks hcap hsnd), glaunch_priv (hlacks hcap ?_)⟩, fun hl => glaunch_priv (hlacks hcap ?_),
    fun hrcv => ⟨fun hfree => mbrecv_priv hfree (hlacks hcap hrcv), mbpoll_priv (hlacks hcap hrcv)⟩, ?_, ?_,
    mbpoll_counts hcap, ?_⟩⟩
  · rw [hsnd, Bool.false_and]
  · rw [hl, Bool.and_false]
  · intro u hsnd hfree hfile
    have hcur : u.cur = _ := (touch_moved _ _ _ hfile).cur
    have hsends := sends_of_sendFrom (i := .mbsend o) rfl (mbsend_eq hfree hcap hsnd hfile) (by rw [hcur]; exact hrun)
    rwa [show u.cur.vf = s.cur.vf by rw [hcur], show u.cur.agent = s.cur.agent by rw [hcur]] at hsends
  · exact fun hsnd hl => sends_of_sendFrom rfl (glaunch_eq hcap hsnd hl) hrun
  · intro u hrcv hfree _ hfile me ring mine
    refine ⟨fun m rest hmine hring => ?_, fun hwait => mbrecv_waits hfree hcap hrcv hfile ?_⟩
    · exact mbrecv_takes hfree hcap hrcv hfile (by rw [messageFor_mine hmine]; exact congrArg List.head? hring) hring
    · by_cases hmine : mine
      · rw [messageFor_mine hmine]
        exact congrArg List.head? (hwait.resolve_left (not_not.mpr hmine))
      · exact messageFor_not_mine hmine

end Sys2Proof.Scheduling
end

section
/-! SUPPORT. GSIG (R353, R361), and the ends of waits (R319, R392). -/

namespace Sys2Proof.Scheduling

open Sys2Proof.Machine Sys2Proof.Claims Sys2Proof.Laws
open Sys2Proof.StrandsControl (run_get translateS_of_translates)

/-! ### GSIG (R353) -/

/-- The answer of GSIG. -/
def signalAnswer (o : Operands) (x : Word) : Run Unit := Run.onCur fun c => c.putS o.d.toNat x [.s o.a.toNat]

/-- What GSIG does with a node at a physical address, given the queue in whose active graph it is. -/
def signalAt (o : Operands) (a : Word) (pa : Nat) (d : Device) : Option Nat → Run Unit
  | none => signalAnswer o 2
  | some n =>
    if (d.readByte (pa + nFlags)).toNat % 2 == 0 then signalAnswer o 2
    else if (d.readByte (pa + nState)).toNat != stWaiting then signalAnswer o 1
    else do
      Run.dev (propagate n manyDecrs [(a.toNat, .done)])
      signalAnswer o 0

section
variable {o : Operands} {a : Word} {pa n : Nat} {d : Device}

theorem signalAt_deaf (hflag : (d.readByte (pa + 3)).toNat % 2 = 0) : signalAt o a pa d (some n) = signalAnswer o 2 :=
  if_pos (beq_iff_eq.mpr hflag)

variable (hflag : (d.readByte (pa + 3)).toNat % 2 = 1)
include hflag

theorem signalAt_not_waiting (hstate : (d.readByte (pa + 1)).toNat ≠ 1) :
    signalAt o a pa d (some n) = signalAnswer o 1 := by
  have hsig : ¬ ((d.readByte (pa + nFlags)).toNat % 2 == 0) = true := by simp [hflag]
  exact (if_neg hsig).trans (if_pos (bne_iff_ne.mpr hstate))

theorem signalAt_waiting (hstate : (d.readByte (pa + 1)).toNat = 1) : signalAt o a pa d (some n) = (do
      Run.dev (propagate n manyDecrs [(a.toNat, .done)])
      signalAnswer o 0) := by
  have hsig : ¬ ((d.readByte (pa + nFlags)).toNat % 2 == 0) = true := by simp [hflag]
  have hwait : ¬ ((d.readByte (pa + nState)).toNat != stWaiting) = true := by simp [hstate]
  exact (if_neg hsig).trans (if_neg hwait)

end

section
variable {o : Operands} {s : State} {pa n : Nat}

theorem gsig_misaligned (h : (s.cur.s o.a.toNat).toNat % 64 ≠ 0) :
    exec (.gsig o) s = .next (s.trap .align (s.cur.s o.a.toNat) s.cur.pc false) := by
  have hal : aligned (s.cur.s o.a.toNat) 64 = false := beq_false_of_ne h
  have hstop : gsig o s = .error (.cause .align (s.cur.s o.a.toNat)) s := by
    simp only [gsig, run_bind, run_cur, hal, run_check_false]
  exact instr_error o _ hstop

theorem gsig_eq_signalAt {q : State} (hq : quiet (s.cur.taintOf (.s o.a.toNat)) s = q)
    (hal : (s.cur.s o.a.toNat).toNat % 64 = 0) (htr : Translates q .store (s.cur.s o.a.toNat) pa)
    (hclean : q.dev.poisoned pa = false) : gsig o s = signalAt o (s.cur.s o.a.toNat) pa q.dev
      (q.dev.queueOfNode s.cur.vf s.cur.agent (s.cur.s o.a.toNat).toNat) q := by
  have hal : aligned (s.cur.s o.a.toNat) 64 = true := beq_iff_eq.mpr hal
  have hdrain : (s.onCur (beforeStore (s.cur.taintOf (.s o.a.toNat)))).drain = q := hq
  simp only [gsig, run_bind, run_cur, hal, run_check_true, run_awaitStore, run_drain, hdrain,
    translateS_of_translates (by decide) htr, run_get, hclean, Bool.not_false]
  cases q.dev.queueOfNode s.cur.vf s.cur.agent (s.cur.s o.a.toNat).toNat <;> rfl

end

theorem signalsFromPrograms : SignalsFromPrograms := by
  intro o s pa a q answers
  refine ⟨gsig_misaligned, fun hal htr hclean => ?_⟩
  have hrun := gsig_eq_signalAt rfl hal htr hclean
  have hanswers : ∀ x, gsig o s = signalAnswer o x q → answers q.dev x := fun x h => instr_ok o _ h
  refine ⟨fun hnone => hanswers 2 (by rw [hrun, hnone]; rfl), fun n hsome => ?_⟩
  rw [hsome] at hrun
  refine ⟨fun hflag => hanswers 2 (hrun.trans ?_), fun hflag hstate => hanswers 1 (hrun.trans ?_),
    fun hflag hstate d hd => ?_⟩
  · rw [signalAt_deaf hflag]
  · rw [signalAt_not_waiting hflag hstate]
  · have hd : Run.dev (propagate n manyDecrs [(a.toNat, .done)]) q = .ok () { q with dev := d } := by
      simp only [Run.dev, hd]
    rw [signalAt_waiting hflag hstate, run_bind, hd] at hrun
    exact instr_ok o _ hrun

/-! ### The ends of waits (R319, R392) -/

section
variable {s q : State} {u : Nat} {p : Strand}

theorem find_upd {f : Strand → Strand} (hf : ∀ c, (f c).uid = c.uid) (v : Nat) :
    (s.upd v f).find u = (s.find u).map fun c => if c.uid == v then f c else c := by
  have huid : ∀ c : Strand, (if c.uid == v then f c else c).uid = c.uid := fun c => by
    split
    · exact hf c
    · rfl
  have hstrands : (s.upd v f).strands = s.strands.map fun c => if c.uid == v then f c else c := rfl
  simp only [State.find, hstrands, List.find?_map, Function.comp_def, huid]

theorem upd_finds {f : Strand → Strand} {v : Nat} (hf : ∀ c, (f c).uid = c.uid) (h : (s.find u).isSome = true) :
    ((s.upd v f).find u).isSome = true := by
  rwa [find_upd hf, Option.isSome_map]

theorem uid_of_find (h : s.find u = some p) : p.uid = u :=
  beq_iff_eq.mp (List.find?_some (p := fun c : Strand => c.uid == u) h)

theorem find_onDev (f : Device → Device) : (s.onDev f).find u = s.find u := rfl

theorem loopBack_uid (c : Strand) : c.loopBack.uid = c.uid := by
  unfold Strand.loopBack
  split
  · dsimp only
    split <;> rfl
  · rfl

theorem endWait_uid (c : Strand) (next : Word) : (c.endWait next).uid = c.uid := loopBack_uid _

theorem wake_uid (c : Strand) : c.wake.uid = c.uid := by
  unfold Strand.wake
  split
  · exact endWait_uid ..
  · rfl

theorem wake_of_wfe {x next : Word} (h : p.status = .waiting (.wfe x) next) : p.wake = p.endWait next := by
  simp only [Strand.wake, h]

/-- R392: the device may end a strand's wait of WFE, and changes nothing else. -/
theorem wfeWaitEndByDevice_ends {x next : Word} (hfind : s.find u = some p) (hst : p.status = .waiting (.wfe x) next) :
    ∃ t, exec (.wfeWaitEndByDevice u) s = .next t ∧ t.find u = some (p.endWait next) ∧ t.dev = s.dev ∧
      ∀ v, v ≠ u → t.find v = s.find v := by
  refine ⟨_, rfl, ?_, rfl, fun v hv => ?_⟩
  · rw [find_upd wake_uid, hfind, Option.map_some, uid_of_find hfind, BEq.rfl, if_pos rfl, wake_of_wfe hst]
  · rw [find_upd wake_uid]
    cases hother : s.find v with
    | none => rfl
    | some c =>
      rw [Option.map_some, if_neg]
      rwa [uid_of_find hother, beq_iff_eq]

/-! ### Waits for a record or a message -/

theorem admitHeld_finds (v port : Nat) (h : (s.find u).isSome = true) : ((s.admitHeld v port).find u).isSome = true := by
  unfold State.admitHeld
  split
  · split
    · exact upd_finds (fun _ => rfl) h
    · exact h
  · exact h

theorem popRecord_finds {port : Nat} {r : BitVec 256} (hfind : s.find u = some p) (h : s.popRecord p port = some (r, q)) :
    (q.find u).isSome = true := by
  have hsome : (s.find u).isSome = true := by rw [hfind]; rfl
  unfold State.popRecord at h
  split at h
  · obtain ⟨e, -, he⟩ := Option.map_eq_some_iff.mp h
    obtain ⟨-, rfl⟩ := Prod.mk.inj he
    exact admitHeld_finds _ _ (upd_finds (fun _ => rfl) hsome)
  · split at h
    · cases h
    · cases h
      exact hsome

theorem takeMail_finds {mb k words : Nat} (hfind : s.find u = some p) (h : s.takeMail u mb k = some (words, q)) :
    (q.find u).isSome = true := by
  simp only [State.takeMail, hfind, Option.bind_some] at h
  obtain ⟨m, -, hm⟩ := Option.map_eq_some_iff.mp h
  obtain ⟨-, rfl⟩ := Prod.mk.inj hm
  rw [find_onDev, hfind]
  rfl

theorem waitEndsWith_named {v : State} {vd n words : Nat} {next : Word} (h : q.nameFor u [vd] = some v) :
    q.waitEndsWith u vd n words next = v.upd u fun c => (c.putWords vd n words).endWait next := by
  simp only [State.waitEndsWith, h]

theorem waitEndsWith_poisoned {vd n words : Nat} {next : Word} (h : q.nameFor u [vd] = none) (hfind : q.find u = some p) :
    q.waitEndsWith u vd n words next = q.kill u 7 p.plainEv := by
  simp only [State.waitEndsWith, h, hfind]

end

theorem waitsEnd : WaitsEnd := by
  intro u s p next hfind goes
  have hgoes : ∀ q f, s.waitEnd u = q.upd u (fun c => (f c).endWait next) → goes q f :=
    fun _ _ => congrArg Host.Outcome.next
  refine ⟨fun ev n hst hn => hgoes s id ?_, fun x hst => ⟨fun hdone => hgoes s id ?_, wfeWaitEndByDevice_ends hfind hst⟩,
    fun gen g hst hgen hne => hgoes s id ?_, fun vd n words q h => ?_, fun port cmd hst hroom => hgoes _ id ?_⟩
  · simp only [State.waitEnd, hfind, hst, ge_iff_le, hn, if_true, id_eq]
  · have hdone : wfeDone p s.dev.gtime x = true := by
      simpa only [wfeDone, Bool.or_eq_true, Bool.and_eq_true, bne_iff_ne, decide_eq_true_eq, beq_iff_eq] using hdone
    simp only [State.waitEnd, hfind, hst, hdone, if_true, id_eq]
  · simp only [State.waitEnd, hfind, hst, hgen, beq_false_of_ne hne, Bool.false_eq_true, if_false, id_eq]
  · have hends : s.waitEnd u = q.waitEndsWith u vd n words next ∧ (q.find u).isSome = true := by
      obtain ⟨port, r, hst, hpop, rfl, rfl⟩ | ⟨mb, k, hst, htake, rfl⟩ := h
      · exact ⟨by simp only [State.waitEnd, hfind, hst, hpop], popRecord_finds hfind hpop⟩
      · exact ⟨by simp only [State.waitEnd, hfind, hst, htake], takeMail_finds hfind htake⟩
    obtain ⟨hends, hsome⟩ := hends
    obtain ⟨p', hp'⟩ := Option.isSome_iff_exists.mp hsome
    exact ⟨fun v hv => hgoes v _ (hends.trans (waitEndsWith_named hv)), fun hnone =>
      ⟨p', hp', congrArg Host.Outcome.next (hends.trans (waitEndsWith_poisoned hnone hp'))⟩⟩
  · simp only [State.waitEnd, hfind, hst, hroom, Bool.false_eq_true, if_false, id_eq]

/-- Settles O50: a send, a receipt and a signal each do their work once the strand may do it and its earlier accesses have
performed, and a wait ends when what it waits for is there. -/
theorem mailAndWaits : Obligations.MailAndWaits := ⟨mailboxes, signalsFromPrograms, waitsEnd⟩

end Sys2Proof.Scheduling
end

section
/-! SUPPORT. The return from a trap (R391): what ERET checks, in order, and what it restores. -/

namespace Sys2Proof.FaultsTraps

open Sys2Proof.Machine Sys2Proof.Laws
open Sys2Proof.IntegerLogic (both_forms)
open Sys2Proof.StrandsControl (checkIll_true eret_stops)

/-- The bank that ERET returns from: that of the strand's level. -/
def trapBank (c : Strand) : Bank := if c.sup.tlevel = 1 then c.sup.bank1 else c.sup.bank2

theorem bank_tlevel (c : Strand) : c.sup.bank c.sup.tlevel.toNat = trapBank c := by
  have hlevel : c.sup.tlevel.toNat = 1 ↔ c.sup.tlevel = 1 := BitVec.toNat_inj (y := 1#2)
  simp only [Sups.bank, trapBank, hlevel]

/-- R391: above level 0 the level falls by one. -/
theorem ofNat_toNat_sub_one {x : BitVec 2} (h : x ≠ 0) : BitVec.ofNat 2 (x.toNat - 1) = x - 1 := by
  revert x
  decide

section
variable {o : Operands} {s : State}

/-! ### What ERET checks -/

theorem supervisor_passes (h : s.cur.sup.tlevel ≠ 0) : supervisor o s = .ok () s := by
  simp only [supervisor, run_bind, run_cur, bne_iff_ne.mpr h, run_check_true]

theorem supervisor_stops (h : s.cur.sup.tlevel = 0) : supervisor o s = .error (.cause .priv (parcel0 o)) s := by
  simp only [supervisor, run_bind, run_cur, h, bne_self_eq_false, run_check_false]

theorem notInNest_passes (h : s.cur.nestHere = false) : notInNest o s = .ok () s := by
  simp only [notInNest, run_bind, run_cur, h, Bool.not_false, checkIll_true]

/-- Where a supervisor outside a nest's body stands, the saved address decides. -/
theorem eretChecks_epc (hsup : s.cur.sup.tlevel ≠ 0) (hnest : s.cur.nestHere = false) :
    eretChecks o s = Run.check (aligned (trapBank s.cur).epc 4) .align (trapBank s.cur).epc s := by
  simp only [eretChecks, run_bind, run_cur, supervisor_passes hsup, notInNest_passes hnest, bank_tlevel]

/-! ### What ERET does -/

theorem eret_at_level0 (h : s.cur.sup.tlevel = 0) : eret o s = s.trap .priv (parcel0 o) s.cur.pc false := by
  simp only [eret, eretChecks, run_bind, supervisor_stops h, State.stopAt_cause]

theorem eret_misaligned (hsup : s.cur.sup.tlevel ≠ 0) (hnest : s.cur.nestHere = false)
    (hepc : (trapBank s.cur).epc.toNat % 4 ≠ 0) : eret o s = s.trap .align (trapBank s.cur).epc s.cur.pc false := by
  have hal : aligned (trapBank s.cur).epc 4 = false := beq_false_of_ne hepc
  simp only [eret, eretChecks_epc hsup hnest, hal, run_check_false, State.stopAt_cause]

theorem eret_aligned (hsup : s.cur.sup.tlevel ≠ 0) (hnest : s.cur.nestHere = false)
    (hepc : (trapBank s.cur).epc.toNat % 4 = 0) : eret o s = s.onCur (·.leaveTrap) := by
  have hal : aligned (trapBank s.cur).epc 4 = true := beq_iff_eq.mpr hepc
  simp only [eret, eretChecks_epc hsup hnest, hal, run_check_true]

end

/-- R391: what the return restores from the level's bank, field by field. -/
theorem leaveTrap_eq {c : Strand} (h : c.sup.tlevel ≠ 0) : c.leaveTrap = { c with
    csr := { c.csr with vstart := (trapBank c).vst }
    sup := { c.sup with tlevel := c.sup.tlevel - 1 }
    nest := { c.nest with active := c.nest.active && (trapBank c).stat.getLsbD 0 }
    pc := (trapBank c).epc
    convoy := .closed } := by
  simp only [Strand.leaveTrap, bank_tlevel, ofNat_toNat_sub_one h]

/-- Both forms of ERET answer with the state that `eret` gives. -/
theorem exec_eret {o : Operands} {s t : State} (h : eret o s = t) : ∀ i ∈ [Instr.eret o, .eretL64 o], exec i s = .next t :=
  both_forms (congrArg Host.Outcome.next h) (congrArg Host.Outcome.next h)

/-- Settles O4: the checks stop in the order PRIV, ILL, ALIGN, and past them ERET makes of the strand what its level's bank
holds. -/
theorem returnFromTrap : Obligations.ReturnFromTrap := by
  intro o s i hi
  refine ⟨fun hzero => ?priv, fun hsup hnest => ?ill, fun hsup hnest hepc => ?align, fun hsup hnest hepc => ?back⟩
  case priv => exact exec_eret (eret_at_level0 hzero) i hi
  case ill => exact exec_eret (eret_stops hnest hsup) i hi
  case align => exact exec_eret (eret_misaligned hsup hnest hepc) i hi
  case back =>
    have hback : eret o s = { s with cur := s.cur.leaveTrap } := eret_aligned hsup hnest hepc
    rw [leaveTrap_eq hsup] at hback
    exact exec_eret hback i hi

end Sys2Proof.FaultsTraps
end
